-- ==== Sys2Proof/Word.lean ====
section
/-! DEFINITION. The words of the D24 (R6): bytes, half-words, words, double-words, and the sparse tables
that hold registers and memories: keys rising, no entry equal to what an unlisted key reads as. -/

namespace Sys2Proof

/-- An 8-bit byte (R6). -/
abbrev Byte := BitVec 8

/-- A 32-bit word (R6). -/
abbrev Word32 := BitVec 32

/-- A 64-bit double-word: the width of a scalar register (R158). -/
abbrev Word := BitVec 64

/-- A predicate register (R158). -/
abbrev Pred := BitVec 1024

/-- A vector register: 512 bytes, lane 0 in the lowest bits (R164). -/
abbrev VReg := BitVec 4096

/-- A sparse table: pairs of a key and an entry, keys strictly rising. -/
abbrev SMap (α : Type) := List (Nat × α)

/-- The four strands of a core (R26), in the order S, V, M, X that ranks them (R338). -/
inductive Strand where
  | s | v | m | x
deriving DecidableEq, Repr

/-- A strand's number: 0 S, 1 V, 2 M, 3 X (R343). -/
def Strand.num : Strand → Nat
  | .s => 0 | .v => 1 | .m => 2 | .x => 3

end Sys2Proof
end

