-- ==== Sys2Proof/Config.lean ====
section
/-! DEFINITION. The free values of the D24 model: what the manual leaves unspecified (R2) or leaves to the
implementation. Every one is opaque: nothing can prove what it is, so a statement holds for all of them. -/

namespace Sys2Proof.Config

/-- An unspecified bit pattern (R2): `fresh` numbers the step, `slot` the value within the step, `w` its width. -/
opaque freeBits (fresh slot w : Nat) : BitVec w

/-- One of two outcomes the manual allows (for example R44, R186). -/
opaque freeBool (fresh slot : Nat) : Bool

/-- A free choice of a number: which asynchronous step comes next (R71), where a thing is placed (R29). -/
opaque freeNat (fresh slot : Nat) : Nat

/-- A host-stage table entry in device control space (R79, R80): the loom writes them for the regions that the
region placer homes, and the manual gives neither their places nor the homes it chooses. `dpa` is the entry's address. -/
opaque hostTable (dpa : Nat) : BitVec 64

/-- Ozuth's translation of a Govel object (R375, R376): the length in words of each section of the native code that it
makes of the object's bytes, and those words. The manual gives neither the offsets nor the schedule it chooses. -/
opaque ozuthLen (object : List (BitVec 8)) (section_ : Nat) : Nat
opaque ozuthWord (object : List (BitVec 8)) (section_ i : Nat) : BitVec 32

/-- A measurement register extended with a digest (R391), the SHA-512 of both that the manual does not write out. -/
opaque extend (old digest : BitVec 512) : BitVec 512

/-- The identity key that the ROM derives from its fused secret and a signing key's digest: x and y of its public key, low half
first (R392). -/
opaque identityKey (signer : BitVec 512) : BitVec 1056

/-- The provisioning key's certificate for a public key (R392). -/
opaque certificate (key : BitVec 1056) : List (BitVec 8)

/-- An ECDSA signature of a message with the identity key of a signer, r in the low half; `fresh` stands for its random number
(R393). -/
opaque signature (signer : BitVec 512) (fresh : Nat) (message : List (BitVec 8)) : BitVec 1056

end Sys2Proof.Config
end

