-- ==== Sys2Proof/Syntax.lean ====
section
/-! DEFINITION. The instructions and steps of the D24: one constructor for each row of the table of
operations and events. An instruction's fields are those of its word (R35 to R38), as unsigned numbers;
`l` is the lock bit. The rows after `replay` are the steps that no word encodes: the engines', the loom's,
the host's and the fabric's, each whole and indivisible. -/

namespace Sys2Proof

/-- The guard fields of a word: predicate p0 to p7 and the negate bit (R35, R37). -/
structure Guard where
  p : Nat
  neg : Bool
deriving DecidableEq, Repr

/-- A token word's fields (R38): push channel, and three pop fields of which 15 means none. -/
structure Tok where
  push : Nat
  popA : Nat
  popB : Nat
  popC : Nat
deriving DecidableEq, Repr

/-- A write to MGMT of an AQI's notify page (R380, R381): the page, the PASID prefix that it carries, its bytes, the packet. -/
structure Mgmt where
  aqi : Nat
  pasid : Option Nat
  bytes : Nat
  packet : BitVec 512
deriving DecidableEq, Repr

/-- The fields of a management packet (R381). -/
def Mgmt.tag (m : Mgmt) : BitVec 32 := m.packet.extractLsb' 480 32
def Mgmt.mop (m : Mgmt) : Nat := (m.packet.extractLsb' 472 8).toNat
def Mgmt.resv (m : Mgmt) : BitVec 216 := m.packet.extractLsb' 256 216
def Mgmt.a (m : Mgmt) : Word := m.packet.extractLsb' 192 64
def Mgmt.b (m : Mgmt) : Word := m.packet.extractLsb' 128 64
def Mgmt.c (m : Mgmt) : Word := m.packet.extractLsb' 64 64
def Mgmt.d (m : Mgmt) : Word := m.packet.extractLsb' 0 64

/-- The requests that R382 lists. -/
def mopListed (mop : Nat) : Bool := (decide (1 ≤ mop) && decide (mop ≤ 0x0B)) || (decide (0x20 ≤ mop) && decide (mop ≤ 0x28))

/-- A weft flit (R387, R388): its header and its payload of up to 120 bytes. -/
structure Flit where
  header : BitVec 64
  payload : List Byte
deriving DecidableEq, Repr

/-- The fields of a flit's header (R388). -/
def Flit.dst (f : Flit) : Nat := f.header.toNat / 2 ^ 56
def Flit.src (f : Flit) : Nat := f.header.toNat / 2 ^ 48 % 2 ^ 8
def Flit.vl (f : Flit) : Nat := f.header.toNat / 2 ^ 45 % 2 ^ 3
def Flit.type (f : Flit) : Nat := f.header.toNat / 2 ^ 40 % 2 ^ 5
def Flit.len (f : Flit) : Nat := f.header.toNat / 2 ^ 36 % 2 ^ 4
def Flit.seq (f : Flit) : Nat := f.header.toNat / 2 ^ 20 % 2 ^ 16
def Flit.xid (f : Flit) : Nat := f.header.toNat % 2 ^ 20

/-- The flit of a payload, with LEN in units of 8 bytes. -/
def Flit.of (dst src vl type seq xid : Nat) (payload : List Byte) : Flit where
  header := BitVec.ofNat 64 (2 ^ 56 * (dst % 2 ^ 8) + 2 ^ 48 * (src % 2 ^ 8) + 2 ^ 45 * (vl % 2 ^ 3) + 2 ^ 40 * (type % 2 ^ 5)
    + 2 ^ 36 * (payload.length / 8 % 2 ^ 4) + 2 ^ 20 * (seq % 2 ^ 16) + xid % 2 ^ 20)
  payload := payload

/-- A team's name on the device: its launch tag and linear index (R96). -/
structure TeamId where
  ltag : Nat
  index : Nat
deriving DecidableEq, Repr

/-- The instructions and steps, one constructor for each row of spec/opcode_table.json. -/
inductive Instr where
  -- S strand: integer arithmetic (R275)
  | add (l : Bool) (sd sa sb : Nat) (g : Guard)
  | sub (l : Bool) (sd sa sb : Nat) (g : Guard)
  | and (l : Bool) (sd sa sb : Nat) (g : Guard)
  | or (l : Bool) (sd sa sb : Nat) (g : Guard)
  | xor (l : Bool) (sd sa sb : Nat) (g : Guard)
  | andn (l : Bool) (sd sa sb : Nat) (g : Guard)
  | shl (l : Bool) (sd sa sb : Nat) (g : Guard)
  | shr (l : Bool) (sd sa sb : Nat) (g : Guard)
  | sar (l : Bool) (sd sa sb : Nat) (g : Guard)
  | min (l : Bool) (sd sa sb : Nat) (g : Guard)
  | max (l : Bool) (sd sa sb : Nat) (g : Guard)
  | minu (l : Bool) (sd sa sb : Nat) (g : Guard)
  | maxu (l : Bool) (sd sa sb : Nat) (g : Guard)
  | clz (l : Bool) (sd sa : Nat) (g : Guard)
  | ctz (l : Bool) (sd sa : Nat) (g : Guard)
  | popc (l : Bool) (sd sa : Nat) (g : Guard)
  | mul (l : Bool) (sd sa sb : Nat) (g : Guard)
  | mulh (l : Bool) (sd sa sb : Nat) (g : Guard)
  | mulhu (l : Bool) (sd sa sb : Nat) (g : Guard)
  | div (l : Bool) (sd sa sb : Nat) (g : Guard)
  | divu (l : Bool) (sd sa sb : Nat) (g : Guard)
  | rem (l : Bool) (sd sa sb : Nat) (g : Guard)
  | remu (l : Bool) (sd sa sb : Nat) (g : Guard)
  -- compares, predicates and select (R276 to R278)
  | cmpEq (l : Bool) (pd sa sb : Nat) (g : Guard)
  | cmpNe (l : Bool) (pd sa sb : Nat) (g : Guard)
  | cmpLt (l : Bool) (pd sa sb : Nat) (g : Guard)
  | cmpLtu (l : Bool) (pd sa sb : Nat) (g : Guard)
  | cmpLe (l : Bool) (pd sa sb : Nat) (g : Guard)
  | cmpLeu (l : Bool) (pd sa sb : Nat) (g : Guard)
  | pand (l : Bool) (pd pa pb : Nat) (g : Guard)
  | por (l : Bool) (pd pa pb : Nat) (g : Guard)
  | pxor (l : Bool) (pd pa pb : Nat) (g : Guard)
  | pnot (l : Bool) (pd pa : Nat) (g : Guard)
  | sel (l : Bool) (sd sa sb : Nat) (g : Guard)
  -- power (R63, R64)
  | wake (l : Bool) (sa : Nat) (g : Guard)
  | sleep (l : Bool) (sa : Nat) (g : Guard)
  | retain (l : Bool) (sa : Nat) (g : Guard)
  | pwait (l : Bool) (sa : Nat) (g : Guard)
  -- immediates and addresses (R279, R281)
  | addi (l : Bool) (sd sa imm : Nat)
  | andi (l : Bool) (sd sa imm : Nat)
  | ori (l : Bool) (sd sa imm : Nat)
  | xori (l : Bool) (sd sa imm : Nat)
  | shli (l : Bool) (sd sa k : Nat)
  | shri (l : Bool) (sd sa k : Nat)
  | sari (l : Bool) (sd sa k : Nat)
  | lea (l : Bool) (sd sa imm : Nat)
  -- scalar LS access (R162)
  | ldB (l : Bool) (sd sa imm : Nat)
  | ldH (l : Bool) (sd sa imm : Nat)
  | ldW (l : Bool) (sd sa imm : Nat)
  | ldD (l : Bool) (sd sa imm : Nat)
  | stB (l : Bool) (sd sa imm : Nat)
  | stH (l : Bool) (sd sa imm : Nat)
  | stW (l : Bool) (sd sa imm : Nat)
  | stD (l : Bool) (sd sa imm : Nat)
  -- literals (R280)
  | lit (l : Bool) (sd : Nat) (g : Guard) (v32 : Nat)
  | litHi (l : Bool) (sd sa : Nat) (g : Guard) (v32 : Nat)
  -- control flow (R282 to R288, R291)
  | br (l : Bool) (p : Nat) (neg : Bool) (off : Nat)
  | jmp (l : Bool) (off : Nat)
  | call (l : Bool) (off : Nat)
  | loop (l : Bool) (countM1 nM1 : Nat)
  | rpt (l : Bool) (countM1 : Nat)
  | gap (l : Bool) (countM1 : Nat)
  | trap (l : Bool) (code : Nat)
  -- control registers (R161, R289)
  | csrr (l : Bool) (sd csr : Nat)
  | csrw (l : Bool) (sa csr : Nat)
  | csrwLockmask (l : Bool) (sa : Nat)
  | csrwTrapvec (l : Bool) (sa : Nat)
  | csrwVwb (l : Bool) (sa : Nat)
  | csrwTwist (l : Bool) (sa : Nat)
  | csrwVshape (l : Bool) (sa : Nat)
  | csrwCzlist (l : Bool) (sa : Nat)
  | csrwAmax (l : Bool) (sa m : Nat)
  -- sys and sync majors (R290 to R302, R314)
  | ret (l : Bool)
  | markR (l : Bool)
  | eret (l : Bool)
  | eretR (l : Bool)
  | done (l : Bool)
  | waitK (l : Bool) (k : Nat)
  | qmark (l : Bool)
  | pmark (l : Bool) (sa : Nat)
  | realign (l : Bool) (n : Nat)
  | unalign (l : Bool)
  | barArr (l : Bool) (sa : Nat)
  | barWait (l : Bool) (sa : Nat)
  -- V strand: integer and logic (R192 to R202)
  | vadd (l : Bool) (vd va vb : Nat)
  | vsub (l : Bool) (vd va vb : Nat)
  | vmul (l : Bool) (vd va vb : Nat)
  | vmulh (l : Bool) (vd va vb : Nat)
  | vmulhu (l : Bool) (vd va vb : Nat)
  | vmla (l : Bool) (vd va vb : Nat)
  | vmin (l : Bool) (vd va vb : Nat)
  | vmax (l : Bool) (vd va vb : Nat)
  | vabs (l : Bool) (vd va : Nat)
  | vneg (l : Bool) (vd va : Nat)
  | vand (l : Bool) (vd va vb : Nat)
  | vor (l : Bool) (vd va vb : Nat)
  | vxor (l : Bool) (vd va vb : Nat)
  | vandn (l : Bool) (vd va vb : Nat)
  | vpopc (l : Bool) (vd va : Nat)
  | vshl (l : Bool) (vd va vb : Nat)
  | vshr (l : Bool) (vd va vb : Nat)
  | vsar (l : Bool) (vd va vb : Nat)
  | vsel (l : Bool) (vd va vb : Nat)
  | vmov (l : Bool) (vd va : Nat)
  | vbcast (l : Bool) (vd sa : Nat)
  | vperm (l : Bool) (vd va vb : Nat)
  | vli (l : Bool) (vd imm : Nat)
  | vcmpEq (l : Bool) (pd va vb : Nat)
  | vcmpNe (l : Bool) (pd va vb : Nat)
  | vcmpLt (l : Bool) (pd va vb : Nat)
  | vcmpLtu (l : Bool) (pd va vb : Nat)
  | vcmpLe (l : Bool) (pd va vb : Nat)
  | vcmpLeu (l : Bool) (pd va vb : Nat)
  | vredAdd (l : Bool) (vd va : Nat)
  | vredMax (l : Bool) (vd va : Nat)
  | vredMin (l : Bool) (vd va : Nat)
  | vwmul (l : Bool) (vd va vb : Nat)
  | vwadd (l : Bool) (vd va vb : Nat)
  | vnarrow (l : Bool) (vd va : Nat)
  -- vector LS access (R163)
  | vld (l : Bool) (v sa imm : Nat)
  | vst (l : Bool) (v sa imm : Nat)
  | vldx (l : Bool) (vd va : Nat)
  | vstx (l : Bool) (vd va : Nat)
  | vamoOr (l : Bool) (vd va vb : Nat)
  | vamoAdd (l : Bool) (vd va vb : Nat)
  | vamoMin (l : Bool) (vd va vb : Nat)
  | vamoMax (l : Bool) (vd va vb : Nat)
  -- shape, window, rotation (R203 to R205)
  | vshape (l : Bool) (sa : Nat)
  | vwin (l : Bool) (sa imm : Nat)
  | vrot (l : Bool)
  -- floating point, conversion, special functions, Welford (R208 to R215)
  | vfadd (l : Bool) (vd va vb : Nat)
  | vfsub (l : Bool) (vd va vb : Nat)
  | vfmul (l : Bool) (vd va vb : Nat)
  | vfma (l : Bool) (vd va vb : Nat)
  | vfmin (l : Bool) (vd va vb : Nat)
  | vfmax (l : Bool) (vd va vb : Nat)
  | vcvt (l : Bool) (vd va t : Nat)
  | vcvtMx (l : Bool) (vd va h amx fmt : Nat)
  | vexp2 (l : Bool) (vd va : Nat)
  | vlog2 (l : Bool) (vd va : Nat)
  | vrcp (l : Bool) (vd va : Nat)
  | vrsqrt (l : Bool) (vd va : Nat)
  | vtanh (l : Bool) (vd va : Nat)
  | vwfUpd (l : Bool) (vd va vb : Nat)
  | vwfMrg (l : Bool) (vd va vb : Nat)
  -- row engine (R217)
  | rowmax (l : Bool) (v sa : Nat)
  | rowexp (l : Bool) (v sa vc : Nat)
  | rowscl (l : Bool) (v sa : Nat)
  -- M strand: matrix (R236 to R242)
  | mcfg (l : Bool) (sa : Nat) (g : Guard)
  | mstream (l : Bool) (q sa : Nat) (g : Guard)
  | mnest (l : Bool) (n sa : Nat) (g : Guard)
  | mgo (l : Bool) (g : Guard) (t : Tok)
  | mdrain (l : Bool) (g : Guard)
  | mzero (l : Bool) (tile : Nat) (g : Guard)
  | mgang (l : Bool) (mode : Nat) (g : Guard)
  | mstat (l : Bool) (c sa sb : Nat) (g : Guard)
  -- grammar (R255 to R258)
  | gset (l : Bool) (sa : Nat) (g : Guard)
  | gev (l : Bool) (sa : Nat) (g : Guard)
  | gout (l : Bool) (sa sb : Nat) (g : Guard)
  | gstat (l : Bool) (c sb : Nat) (g : Guard)
  -- X strand: copies and scalar far accesses (R130 to R135, R149)
  | xcopy (l : Bool) (xa xb xc : Nat) (g : Guard) (t : Tok)
  | xblk (l : Bool) (xa xb xc : Nat) (g : Guard) (t : Tok)
  | xpak (l : Bool) (xa xb xc : Nat) (g : Guard) (t : Tok)
  | xunp (l : Bool) (xa xb xc : Nat) (g : Guard) (t : Tok)
  | xfld (l : Bool) (xa xb w : Nat) (g : Guard) (t : Tok)
  | xfst (l : Bool) (xa xb w : Nat) (g : Guard) (t : Tok)
  -- far atomics (R133, R134)
  | xamoAdd (l : Bool) (xa xb xc : Nat) (g : Guard) (t : Tok)
  | xamoAnd (l : Bool) (xa xb xc : Nat) (g : Guard) (t : Tok)
  | xamoOr (l : Bool) (xa xb xc : Nat) (g : Guard) (t : Tok)
  | xamoXor (l : Bool) (xa xb xc : Nat) (g : Guard) (t : Tok)
  | xamoMin (l : Bool) (xa xb xc : Nat) (g : Guard) (t : Tok)
  | xamoMax (l : Bool) (xa xb xc : Nat) (g : Guard) (t : Tok)
  | xamoMinu (l : Bool) (xa xb xc : Nat) (g : Guard) (t : Tok)
  | xamoMaxu (l : Bool) (xa xb xc : Nat) (g : Guard) (t : Tok)
  | xvamoOr (l : Bool) (v xa xb : Nat) (g : Guard) (t : Tok)
  | xvamoAdd (l : Bool) (v xa xb : Nat) (g : Guard) (t : Tok)
  | xvamoMin (l : Bool) (v xa xb : Nat) (g : Guard) (t : Tok)
  | xvamoMax (l : Bool) (v xa xb : Nat) (g : Guard) (t : Tok)
  -- ownership (R102 to R113)
  | ownLend (l : Bool) (xa xb xc : Nat) (g : Guard) (t : Tok)
  | ownRet (l : Bool) (xa : Nat) (g : Guard) (t : Tok)
  | ownSplit (l : Bool) (xa : Nat) (g : Guard) (t : Tok)
  | ownJoin (l : Bool) (xa : Nat) (g : Guard) (t : Tok)
  | ownQuery (l : Bool) (xa xb : Nat) (g : Guard) (t : Tok)
  | ownReclaim (l : Bool) (xa xb : Nat) (g : Guard) (t : Tok)
  -- send, recv, overlay, replay (R304, R135, R136)
  | send (l : Bool) (tag xa xb : Nat) (g : Guard)
  | recv (l : Bool) (tag xa xb : Nat) (g : Guard)
  | ovl (l : Bool) (xa xb xc : Nat) (g : Guard) (t : Tok)
  | replay (l : Bool) (g : Guard) (t : Tok)
  -- steps of a core that no word encodes
  | resultLanding (k : Nat)
  | lockEntryRelease
  | domainWakeComplete (d : Nat) (parityFail : Bool)
  | domainGating (d : Nat)
  | inrushRefill
  | queueCommandBegin (q : Nat)
  | farAccessAtHome (q j : Nat) (ecc : Bool)
  | commandCompletion (q : Nat)
  | guardedOffPush (k : Nat)
  | waitKTokenTake
  | ownershipQueueExecute
  | crystallizerDispatch
  | czIdleOff (die pan : Nat)
  | vaultSubbankWake (die pan bank : Nat) (parityFail : Bool)
  | vaultSubbankSleep (die pan bank : Nat) (retain : Bool)
  | backgroundScrub (granule : Nat)
  | nestStart
  | nestCompletion
  | grammarRuleEvaluation
  | gevCompletion
  | rowPassCompletion (kind : Nat)
  | phaseEnd (k : Nat)
  | alignedRegionBegin
  | alignedRegionTimeout
  | sendDelivery
  | barrierEpisodeComplete (ltag handle : Nat)
  | sluiceResume
  | impreciseTrapTaken
  | watchdogExpiry
  | dumpWrite (team : TeamId)
  | teamRetire (team : TeamId)
  -- the loom
  | preemption (ltag cohort : Nat)
  | contextSave (team : TeamId)
  | contextRestore (ltag cohort : Nat)
  | requestSubmit (aqi : Nat) (pasid : Option Nat) (bytes : Nat) (packet : BitVec 512)
  | launchStart (node : Nat)
  | cohortStart (ltag : Nat)
  | transferNodeStart (node : Nat)
  | transformNodeStart (node : Nat)
  | signalNode (node : Nat)
  | waitNodeCheck (node : Nat)
  | nodeCompletion (node : Nat)
  | linkFailure (die : Nat)
  | weftUnreachable (dev : Nat)
  | regionMove (base ctx : Nat)
  | islandFrequencyChange (die mhz : Nat)
  | invalidationComplete
  -- the host
  | cxlMemAccess (window off : Nat) (write : Option (BitVec 512))
  | eventWrite (aqi : Nat)
  | evtailWrite (aqi value : Nat)
  | regionCreate (m : Mgmt)
  | regionDestroy (m : Mgmt)
  | inval (m : Mgmt)
  | dumpreg (m : Mgmt)
  | counters (m : Mgmt)
  | lend (m : Mgmt)
  | hostReturn (m : Mgmt)
  | imgExport (m : Mgmt)
  | imgImport (m : Mgmt)
  | watch (m : Mgmt)
  | attest (m : Mgmt)
  | aqiBind (m : Mgmt)
  | aqiUnbind (m : Mgmt)
  | pasidSet (m : Mgmt)
  | pasidRevoke (m : Mgmt)
  | irqSet (m : Mgmt)
  | hdmBind (m : Mgmt)
  | devdump (m : Mgmt)
  | power (m : Mgmt)
  | weftId (m : Mgmt)
  | deviceWideDump
  -- the weft
  | weftRead (f : Flit)
  | weftReadData (f : Flit)
  | weftWrite (f : Flit)
  | weftWriteAcknowledge (f : Flit)
  | weftAtomic (f : Flit)
  | weftAtomicResult (f : Flit)
  | weftOwnership (f : Flit)
  | weftBarrier (f : Flit)
  | weftPause (f : Flit)
  | weftPauseExpiry (lane : Nat)
  | weftLoomControl (f : Flit)
  | weftFlitDiscard (f : Flit)
  -- bring-up and the debugger
  | deviceReset (verified : Bool)
  | selvedgeFirmwareStage (verified : Bool)
  | loomSelfTest (failing : List Nat)
  | linkTraining (failing : List Nat)
  | aqi0Enable
  | hostReset (aqi : Nat)
  | debuggerHalt (team : TeamId)
  | debuggerRelease (team : TeamId)
deriving DecidableEq, Repr

end Sys2Proof
end

