-- ==== Sys2Proof/Machine/State.lean ====
section
/-! DEFINITION. The state of the D24: cores, teams, the looms and the fabric, far memory. Plain data; the rule
that names each piece stands in its docstring. Sparse tables (`SMap`) read as their default where nothing is
listed; internal records (queue entries, positions) are numbers, registers are bit vectors. -/

namespace Sys2Proof.Machine

/-- Far memory by DPA: addresses strictly rising, no zero byte listed. An unlisted byte reads zero: the spec
gives far memory no reset value (DESIGN CHOICE 0, log 1). -/
abbrev Memory := List Host.Cell

/-- A trap's cause code (R342) and TRAPINFO (R343). -/
structure Trap where
  code : Nat
  info : Word
deriving DecidableEq, Repr

/-- The state of one power domain (R53 to R57); `waking` holds the cycle at which it becomes ON, and whether it
left RET. -/
inductive Dom where
  | off
  | waking (on : Nat) (fromRet : Bool)
  | on
  | ret
deriving DecidableEq, Repr

/-- What a fixed-latency result writes (R42, R44). `amaxUp` is the maximum update of `vcvt.mx` (R213);
`csr` is a control register by selector; `q`, `nest`, `gang`, `gcfg` are the M strand's registers. -/
inductive Dest where
  | s (n : Nat)
  | p (n : Nat)
  | v (phys : Nat)
  | amaxUp (m : Nat)
  | csr (sel : Nat)
  | q (n : Nat)
  | nest (n : Nat)
  | gang
  | gcfg
deriving DecidableEq, Repr

/-- A fixed-latency result in flight: the pattern `value` lands at cycle `due` (R17, R42). `tag` tells apart the writes
of a `vrot`, which act as one (1, R205), the clears of tile registers (2, R227), and a row
pass's result that has no value yet (3, R218); 0 any other. -/
structure Landing where
  dest : Dest
  value : Nat
  tag : Nat
  issue : Nat
  due : Nat
deriving DecidableEq, Repr

/-- A core-port write of one LS byte in flight (R156). -/
structure LsWrite where
  addr : Nat
  value : Byte
  issue : Nat
  due : Nat
deriving DecidableEq, Repr

/-- Statistic events of one instruction, committed at `due` (R178, R179). -/
structure Counts where
  tid : Nat
  sat : Nat
  ftz : Nat
  nan : Nat
  issue : Nat
  due : Nat
deriving DecidableEq, Repr

/-- Banks that an access of a strand occupies on the core port from cycle `fr` to cycle `upTo` (R153, R154). -/
structure PortUse where
  strand : Strand
  fr : Nat
  upTo : Nat
  banks : List Nat
deriving DecidableEq, Repr

/-- A strand's loop (R284 to R286): first body word, slots per trip, trips, the trip and slot reached, the
captured words by scratchpad word index, and the L bit of the loop word. -/
structure Loop where
  start : Nat
  n : Nat
  count : Nat
  trip : Nat
  slot : Nat
  captured : SMap Word32
  l : Bool
deriving DecidableEq, Repr

/-- A strand: program counter, lock membership, remaining gap slots, remaining repeats, loop (R26, R40, R286 to
R288). -/
structure Thread where
  pc : Nat
  inLock : Bool
  gap : Nat
  rep : Nat
  loop : Option Loop
deriving DecidableEq, Repr

/-- The four strands of a core. -/
structure Threads where
  s : Thread
  v : Thread
  m : Thread
  x : Thread
deriving DecidableEq, Repr

/-- What holds the whole core (R64, R297, R301, R314). -/
inductive Hold where
  | none
  | waitK (k : Nat)
  | pwait (mask : Nat)
  | realign (n : Nat)
  | barWait (handle : Nat)
deriving DecidableEq, Repr

/-- Strand state kept with a trap, and the cause the handler serves (R337, R345, R348). -/
structure Saved where
  threads : Threads
  cause : Nat
deriving DecidableEq, Repr

/-- A restart point (R290), but for the statistic snapshot, which is the team's; `at_` is the cycle of the mark. -/
structure Restart where
  threads : Threads
  lockmask : Word
  amax : SMap Word
  at_ : Nat
deriving DecidableEq, Repr

/-- Where a core stands in Govel code (R372, R375): its block; whether the block has committed; the next effect operation; whether that
one holds the core; what producers fed into the slots of effect operations. -/
structure Govel where
  block : Nat
  past : Bool
  at_ : Nat
  wait : Bool
  fed : List (Nat × Nat × List Nat)
deriving DecidableEq, Repr

/-- A push that arrives in the current cycle: the channel and its rank under R296; `src` as in R343, `qidx`
0xFFFF for a guarded-off command or a marker. -/
structure Push where
  rank : Nat
  ch : Nat
  src : Nat
  qidx : Nat
deriving DecidableEq, Repr

/-- The geometry of a copy (R119 to R122): `c` counts dimensions 1 up, `ss` and `ds` are their strides. `table`
holds the block table's entries once read. -/
structure Geo where
  dir : Nat
  c0 : Nat
  c : List Nat
  ss : List Int
  ds : List Int
  src : Nat
  dst : Nat
  bt : Bool
  btDst : Bool
  btAddr : Nat
  table : List Nat
deriving DecidableEq, Repr

/-- The snapshot that a nest runs on (R227), and whether the gang had a sharing mode other than zero on some core as it issued, so
that the nest meets its peers' (R233, log 83). -/
structure NestSnap where
  levels : List Word
  slot : Word
  qa : BitVec 128
  qb : BitVec 128
  tcfg : Word
  share : Nat
  meets : Bool
deriving DecidableEq, Repr

/-- A holder of a token (R96): device id, KIND, launch tag and index. -/
structure Agent where
  dev : Nat
  kind : Nat
  launch : Nat
  index : Nat
deriving DecidableEq, Repr

/-- An entry of a team's holdings table (R98): mode 0 WRITE, 1 READ-SHARE, 2 ATOMIC-SHARE; `n` shares held;
`lent` the WRITE token is lent onward; `shares`, `smode` shares the owner has lent. -/
structure Holding where
  base : Nat
  sz : Nat
  mode : Nat
  n : Nat
  lent : Bool
  shares : Nat
  smode : Nat
  lender : Agent
  orphan : Bool
deriving DecidableEq, Repr

/-- What a queued command does: its operands as read at issue (R111, R115, R137, R227). -/
inductive CmdOp where
  | copy (g : Geo)
  | fld (xa addr w : Nat)
  | fst (addr w : Nat) (value : Word)
  | amo (op xa addr : Nat) (value : Word)
  | vamo (op addr mask : Nat) (value : VReg)
  | ovl (off addr n : Nat)
  | arg (ls : Nat) (bytes : List Byte)
  | pak (slot ls : Nat) (ctl : Word)
  | unp (ls slot : Nat) (ctl : Word)
  | nest (snap : NestSnap)
  | lend (region : Word) (recipient : Agent) (mode : Word)
  | ret (region : Word) (h : Holding)
  | split (region : Word)
  | join (region : Word)
  | query (xa : Nat) (region : Word)
  | reclaim (xa : Nat) (region : Word)
deriving DecidableEq, Repr

/-- A pinned effective page: virtual base, DPA base, size, and whether the page was translated for a write
(R81, R84). -/
structure Pin where
  va : Nat
  dpa : Nat
  size : Nat
  w : Bool
deriving DecidableEq, Repr

/-- How far a command has come (R116, R125): waiting for its pops, popped, begun. -/
inductive Stage where
  | waiting
  | popped
  | begun
deriving DecidableEq, Repr

/-- A command of an engine queue: its words, the register operands read at issue (R126, R359). `issue` is the cycle of its word, `accepted` that of its acceptance, which a `replay`
renews (R62, R136). `todo` lists the accesses not yet performed (destination granules of a copy,
units of another command), `got` the bytes fetched and not yet written, by byte index, `bar` the barrier and the bytes added to it
(R127, R310), `fail` an addition that R310 refused, `late` the kind of a refusal found after issue (R101, R107),
`began` the cycle in which it began. -/
structure Cmd where
  idx : Nat
  word : Nat
  word1 : Nat
  args : List Word
  op : CmdOp
  push : Nat
  pops : List Nat
  issue : Nat
  accepted : Nat
  stage : Stage
  pins : List Pin
  todo : List Nat
  got : List (Nat × Byte)
  bar : Option (Nat × Nat)
  fail : Bool
  watch : Option (Nat × Nat × Nat)
  late : Option Nat
  began : Nat
deriving DecidableEq, Repr

/-- An engine queue (R115, R116): its commands in order, the next index, whether it halts, its fault record with
the cycle in which the fault was raised (R126, R136). -/
structure Queue where
  cmds : List Cmd
  next : Nat
  halted : Bool
  record : Option (Nat × Cmd)
deriving DecidableEq, Repr

/-- What a command keeps from the words of its core until its push is taken (R38, R118, R229): the queue and index,
its push channel, whether it has pushed; the first cycle in force; LS bytes written and read, the bank set, the
tile of a nest with its registers; the scalar register of its result. `closed`: a command that pops the push has
issued, so that only the scalar register remains. `spoilt` lists tile registers that a V write spoilt (R230),
`dirty` input bytes written meanwhile (R129, R230). `issue` is that of the command. `taken`: a command has popped the
push, so that no `wait.k` takes it. `olds` holds the bytes that the engine has written as they stood before, with the step of each
write (R118), and `vague` the bytes whose granules a rollback left unspecified (R128). `fed` holds what a nest that has pushed ran
on: its snapshot, and those of the suppliers of A and B (R230). -/
structure Window where
  queue : Nat
  idx : Nat
  issue : Nat
  push : Nat
  pushed : Bool
  taken : Bool
  from_ : Nat
  writes : List (Nat × Nat)
  reads : List (Nat × Nat)
  banks : List Nat
  tile : Option Nat
  vregs : List Nat
  sreg : Nat
  closed : Bool
  spoilt : List Nat
  dirty : List (Nat × Nat)
  olds : List (Nat × Nat × Byte)
  vague : List (Nat × Nat)
  fed : Option (NestSnap × NestSnap × NestSnap)
deriving DecidableEq, Repr

/-- A phase marker (R300). -/
structure PMark where
  ch : Nat
  mask : Nat
  issue : Nat
deriving DecidableEq, Repr

/-- An entry of the rule-value file (R246). -/
structure Rv where
  sum : Word32
  depth : Nat
deriving DecidableEq, Repr

/-- A grammar segment (R247 to R250): its first rule and the number of its rules, how many are evaluated, the cycle
in which the next begins; issue, occupancy, and the cycle at which its entries may be read; the x registers, the
configuration; the counts so far; whether R250 leaves its entries unspecified; `late` the cycles by which pre-emptions
moved its end (R256); whether a rule met a fault (R248). -/
structure Gev where
  first : Nat
  n : Nat
  done : Nat
  at_ : Nat
  issue : Nat
  occ : Nat
  due : Nat
  xphys : List Nat
  cfg : BitVec 256
  terms : Nat
  refs : Nat
  sat : Nat
  ftz : Nat
  nan : Nat
  spoilt : Bool
  late : Nat
  failed : Bool
deriving DecidableEq, Repr

/-- A row pass (R216 to R219): its kind (0 rowmax, 1 rowexp, 2 rowscl), the cycle up to which its unit is busy, the
cycle at which its results have landed, its descriptor and enabled rows, its type, rounding mode and tensor id, its
register, what it reads of `v` and `vc`, what its result has in lanes without an enabled row; the chunks read so far, and its
events. -/
structure RowPass where
  kind : Nat
  busy : Nat
  due : Nat
  issue : Nat
  desc : Nat
  on : List Nat
  ty : Nat
  rnd : Nat
  tid : Nat
  phys : Nat
  v : VReg
  vc : VReg
  base : VReg
  got : List Nat
  sat : Nat
  ftz : Nat
  nan : Nat
deriving DecidableEq, Repr

/-- What a slept domain held when it was woken again while work accepted before the sleep still ran (R62): the
domain, the cycle in which it became ON, and its LS bytes, registers and rule values. That work reads and writes
these. -/
structure Ghost where
  dom : Nat
  at_ : Nat
  ls : SMap Byte
  v : SMap VReg
  rvf : SMap Rv
deriving DecidableEq, Repr

/-- A core (R24 to R28, R35 to R66, R152 to R161, R216 to R258, R294 to R305, R337 to R366).

- `place` package index; `team`, `rank` the resident team;
- `s`, `p`, `v`, `ls`, `code`, `csr`: scalar, predicate, physical vector registers, local store bytes, scratchpad
  words, control registers by selector (R158 to R161); `ovlAt` the words that an `ovl` has written; `lens` the
  declared section lengths (R34, R367);
- `dom`, `lost`, `bal`, `refill`, `ghosts`: power (R53 to R62);
- `chan`, `arrivals`: token channels (R294, R295); `gpush` pushes due by a bound, with issue and due cycle
  (R45, R240);
- `thr`, `hold`, `region`, `handler`, `restart`, `isDone`, `stopped`: the sequencer (R286 to R302, R345 to R349);
- `pend`, `lsPend`, `counts`, `ports`, `opens`: what is in flight (R42, R156, R179, R154, R118, R229);
- `ldq` to `owq`, `qmarks`, `pmarks`: the queues (R111, R115, R137, R227, R264, R300);
- `q`, `nest`, `gang`: matrix registers (R222 to R232); `gcfg` to `rvfOpen`: grammar (R246 to R249), with the
  segment under evaluation and those evaluated but not complete; `rows`;
  `landed`: vector registers whose result landed in this cycle (R250);
- `barEp` own arrivals by handle (R309); `impr`, `after`: pending traps (R339, R340), `tookAt` the
  boundary of the last trap, `stopAt` that at which issue stopped for a pre-emption; `ring`, `ringPos`, `wp`;
- `acq`, `seen`: the actions of far memory that were performed before its last acquire, and before its last access to a
  granule (R261, R263);
- `govel`: where it stands in Govel code, if it runs such code (R375). -/
structure Core where
  place : Nat
  team : Option TeamId
  rank : Nat
  s : SMap Word
  p : SMap Pred
  v : SMap VReg
  ls : SMap Byte
  code : SMap Word32
  ovlAt : SMap Bool
  lens : List Nat
  csr : SMap Word
  dom : SMap Dom
  lost : List Nat
  bal : Nat
  refill : Nat
  ghosts : List Ghost
  chan : SMap Nat
  arrivals : List Push
  gpush : List (Push × Nat × Nat)
  thr : Threads
  hold : Hold
  region : Option Nat
  handler : Option Saved
  restart : Restart
  isDone : Bool
  stopped : Bool
  pend : List Landing
  lsPend : List LsWrite
  counts : List Counts
  ports : List PortUse
  opens : List Window
  ldq : Queue
  stq : Queue
  tfq : Queue
  mxq : Queue
  owq : Queue
  qmarks : List Nat
  pmarks : List PMark
  q : SMap (BitVec 128)
  nest : SMap Word
  gang : Nat
  gcfg : BitVec 256
  gvalid : Bool
  rvf : SMap Rv
  gstat : SMap Nat
  gev : Option Gev
  gevEnds : List Gev
  gevBusy : Nat
  rvfOpen : List (Nat × Nat × Nat)
  rows : List RowPass
  landed : List Nat
  barEp : SMap Nat
  impr : List Trap
  after : List Trap
  tookAt : Nat
  stopAt : Nat
  ring : SMap (BitVec 128)
  ringPos : Nat
  wp : SMap (BitVec 128)
  acq : Nat
  seen : SMap Nat
  govel : Option Govel
deriving DecidableEq, Repr

/-- An entry of a home die's ownership table (R97). The region is the entry's base and size; `home` is the die
whose table holds it, `holders` the agent of each share that is out, `below` the lenders of the host agents that lent the
WRITE token onward, the last first (R104). -/
structure Region where
  home : Nat
  base : Nat
  sz : Nat
  ctx : Nat
  owner : Agent
  lender : Agent
  shares : Nat
  smode : Nat
  orphan : Bool
  holders : List Agent
  pasid : Nat
  below : List Agent
deriving DecidableEq, Repr

/-- The three counters of a tensor id (R178). -/
structure Stat where
  sat : Nat
  ftz : Nat
  nan : Nat
deriving DecidableEq, Repr

/-- Where a team stands: not yet created, on its cores, on them but draining before a pre-emption, pre-empted, retired
by `done`, ended after a fatal trap, lost with its die. -/
inductive TeamStatus where
  | waiting
  | resident
  | draining
  | preempted
  | retired
  | ended
  | lost
deriving DecidableEq, Repr

/-- The fatal trap of a team (R348 to R352): code of the header, the rank that took it, TRAPCAUSE, CAUSE2,
TRAPINFO and the cycle. -/
structure FatalRec where
  code : Nat
  rank : Nat
  cause : Nat
  cause2 : Nat
  info : Word
  tick : Nat
deriving DecidableEq, Repr

/-- A team (R98, R178, R181, R325, R334, R355): identity, launch facts, holdings, statistic table and its restart
snapshot, watchdog, saved cores while pre-empted and the boundary of its pre-emption; `wanted` that a pre-emption is
decided and waits for a boundary at which it may be taken (R302, R354). `heldWas` are the holdings before the ownership commands of a
cycle, with that cycle (R102). `voids` are the issue intervals
whose counts `eret.r` dropped. -/
structure Team where
  id : TeamId
  ctx : Nat
  pasid : Nat
  gw : Nat
  cohort : Nat
  status : TeamStatus
  wdog : Nat
  halted : Bool
  holdings : List Holding
  stats : SMap Stat
  snap : SMap Stat
  mark : Nat
  voids : List (Nat × Nat)
  fatal : Option FatalRec
  image : List Core
  since : Nat
  wanted : Bool
  heldWas : Option (Nat × List Holding)
deriving DecidableEq, Repr

/-- A barrier unit (R307 to R313): the launch, handle and descriptor; each participant core's arrivals, episodes
completed, the pending-byte count, the end of the last window on each die, the releases (episode, die, t0); arrivals of other
devices, and the episodes for which this one has announced its own. -/
structure Barrier where
  ltag : Nat
  handle : Nat
  desc : BitVec 128
  arrived : List (Nat × Nat × Nat)
  gone : List Nat
  done : Nat
  pending : Nat
  windowEnd : SMap Nat
  releases : List (Nat × Nat × Nat)
  ext : Nat
  told : Nat
deriving DecidableEq, Repr

/-- A delivery of `send` in flight (R305). -/
structure Delivery where
  ltag : Nat
  toTeam : Nat
  toRank : Nat
  fromTeam : Nat
  fromRank : Nat
  tag : Nat
  at_ : Nat
  bytes : List Byte
deriving DecidableEq, Repr

/-- A pending node of a task graph (R316 to R322). `seq` is its place in submission order on its AQI; `deps` its counter;
`ready` the cycle in which it became ready; `begun` and `finished` how far it has come; `status`, `detail` and `nentry`
what its record reports; `ltag` the launch it started; `work` the far accesses under way, and those that follow them (R319). -/
structure Node where
  aqi : Nat
  id : Nat
  seq : Nat
  packet : BitVec 512
  deps : Nat
  ready : Option Nat
  begun : Bool
  finished : Bool
  status : Nat
  detail : Nat
  nentry : Nat
  ltag : Nat
  work : List Cmd
deriving DecidableEq, Repr

/-- A launch that has started (R323 to R336). `spatial` are the counts of its spatial levels, innermost first,
`dieLevels` the places among them of the SPATIAL-DIE levels, `regions` the base, size and lending AQI of each region
taken, `entries` the region table, `started` the cohorts started with their cycle, `dump` the
cycle, team and result of the dump that its record reports (R349). `resident` counts core-cycles of its teams, `mhzSum` their
frequencies, `slow` the throttled ones by reason (R336). `blocks` are those of a Govel object: NEXT and the operations of each (R372). -/
structure Launch where
  ltag : Nat
  aqi : Nat
  node : Nat
  ctx : Nat
  pasid : Nat
  prio : Nat
  rerun : Bool
  pack : Bool
  gw : Nat
  wdog : Nat
  levels : List Nat
  spatial : List Nat
  dieLevels : List Nat
  teams : Nat
  regions : List (Nat × Nat × Nat)
  entries : List Nat
  barriers : List (BitVec 128)
  arg : List Byte
  argLs : Nat
  sections : List (List Word32)
  contract : List Nat
  cohorts : List (List Nat)
  started : List (Nat × Nat)
  dump : Option (Nat × Nat × Nat)
  nrerun : Nat
  rev : Nat
  resident : Nat
  mhzSum : Nat
  slow : SMap Nat
  blocks : List (Nat × List Nat)
deriving DecidableEq, Repr

/-- An AQI (R379 to R384): its binding, event ring, the up to 256 events that wait, events of completions that found no room among
them (`held`), management queue by MOP (the request that runs stands at its
head), remap entry, submission count. -/
structure Aqi where
  bound : Bool
  ctx : Nat
  pasid : Nat
  dies : Nat
  ring : Nat
  ringN : Nat
  evhead : Nat
  evtail : Nat
  ovf : Nat
  waiting : List (BitVec 128)
  held : List (BitVec 128)
  mgmt : List (Nat × Mgmt)
  irqAddr : Nat
  irqData : Nat
  irqMask : Bool
  irqValid : Bool
  irqPending : Bool
  seq : Nat
deriving DecidableEq, Repr

/-- A machine-check record not yet delivered (R88): context, region base, granule offset, finder. -/
structure MCheck where
  ctx : Nat
  base : Nat
  off : Nat
  finder : Nat
deriving DecidableEq, Repr

/-- A request to a remote device that waits for its response (R90, R390): transaction, device, cycle of sending, and
the command's core, queue, index, issue cycle, the access and the byte indices it is for. Of a host agent's lend `idx` is the
request's TAG, `issue` the context, `item` the region operand, and `bytes` the recipient, the lender and the mode. -/
structure Remote where
  xid : Nat
  dst : Nat
  sent : Nat
  place : Nat
  queue : Nat
  idx : Nat
  issue : Nat
  item : Nat
  bytes : List Nat
deriving DecidableEq, Repr

/-- A pan's own domains (R67, R138): sub-bank states, crystallizer state, the core it served last, the cycle it
has been idle since, the transform node that runs on it. -/
structure Pan where
  vt : SMap Dom
  cz : Dom
  last : Nat
  idle : Nat
  node : Option Nat
deriving DecidableEq, Repr

/-- An invalidation under way (R83, R84): the AQI and TAG of its request, the PASID, the range of addresses. -/
structure Inval where
  aqi : Nat
  tag : Nat
  pasid : Nat
  base : Nat
  len : Nat
deriving DecidableEq, Repr

/-- A region's own storage (R29, R92): the context, base and size at creation, whether it lies in vaults of its home die or in
DRAM, and the DPAs of its blocks of `2 ^ blk` bytes, in order. -/
structure Homed where
  ctx : Nat
  base : Nat
  sz : Nat
  home : Nat
  vault : Bool
  blk : Nat
  store : List Nat
deriving DecidableEq, Repr

/-- A leaf that the loom wrote into a host stage for a homed region (R79, R80): the root of its tables, the IA and size of
the page, its DPA. -/
structure HostLeaf where
  root : Nat
  ia : Nat
  log : Nat
  dpa : Nat
deriving DecidableEq, Repr

/-- A far granule, by its number, that a rolled-back command leaves unspecified until it completes (R128): the command by
its team, rank, queue and index. -/
structure Vague where
  team : TeamId
  rank : Nat
  queue : Nat
  idx : Nat
  granule : Nat
deriving DecidableEq, Repr

/-- A CXL.mem access of which one granule is done (R260, R378): its window, offset and written line, the virtual address and the
DPA of its other granule, the bytes read, its context and PASID, and the page that it pins until it completes (R84). -/
structure CxlHalf where
  window : Nat
  off : Nat
  write : Option (BitVec 512)
  va : Nat
  dpa : Nat
  got : List Byte
  ctx : Nat
  pasid : Nat
  page : Pin
deriving DecidableEq, Repr

/-- What a far granule held before an action, by the number of that action (R259, R263). -/
structure Past where
  granule : Nat
  stamp : Nat
  bytes : List Byte
deriving DecidableEq, Repr

/-- The device outside the cores: looms, ownership tables, AQIs, fabric, bring-up. `homed`, `leaves` are regions' storage and
the host-stage leaves for it; `corrected` counts the errors that ECC corrected (R86). `why` is the reason for which the loom
throttles an island (R336), `islandOff` the islands that a partition switch holds OFF (R23, R70), `lostPorts` the weft ports
whose links failed (R22, R391). `hostWrites` are the CXL.io writes sent: PASID, address, data (R377). `past` is what granules held
before the actions performed so far, `actions` their number (R263). `cause` is what configuration space gives in recovery,
`signer` the digest of the stage 1 signing key, `cxlLost` the loss of the CXL port (R391, R392). `mhzAt` is the cycle in which an
island's clock last changed (R394). `weftHeld` are flits that a pause or the loss of every port holds back, with the cycle from
which they wait (R389, R390). -/
structure Device where
  regions : List Region
  pasids : SMap (BitVec 128)
  tlb : List (Nat × Pin)
  nodes : List Node
  launches : List Launch
  nextTag : Nat
  barriers : List Barrier
  deliveries : List Delivery
  counters : SMap Stat
  mchecks : List MCheck
  ownerReports : Nat
  dumpRegs : SMap Nat
  devDump : Option Nat
  aqis : SMap Aqi
  hostWrites : List (Nat × Nat × Nat)
  cxlOut : List (Option (BitVec 512))
  hdm : SMap (Nat × Nat)
  refused : Nat
  pans : SMap Pan
  mhz : SMap Nat
  weftId : Nat
  weftSet : Bool
  paused : SMap Nat
  weftSeq : SMap Nat
  weftOut : List Flit
  weftWait : List Remote
  discards : Nat
  unreachable : List Nat
  lostDies : List Nat
  lost : List Agent
  fenced : List Nat
  stage : Nat
  recovery : Bool
  meas : SMap (BitVec 512)
  invals : List Inval
  exports : List (List Byte × Core × Team)
  vague : List Vague
  homed : List Homed
  leaves : List HostLeaf
  corrected : Nat
  why : SMap Nat
  islandOff : List Nat
  lostPorts : List Nat
  cxlMid : Option CxlHalf
  past : List Past
  actions : Nat
  cause : Nat
  signer : BitVec 512
  cxlLost : Bool
  mhzAt : SMap Nat
  weftHeld : List (Nat × Flit)
deriving DecidableEq, Repr

/-- Where the machine stands within a cycle: at the boundary in front of a core's cycle; issuing the bundle's
words; the asynchronous steps between cycles. -/
inductive Phase where
  | boundary
  | issue (todo : List Strand)
  | async
deriving DecidableEq, Repr

/-- The whole machine. `core` is the core whose cycle runs, `others` the rest; `turn` counts the cores that have
yet to run in this cycle. `cycle` is TICK of every die (log 2). `inputs` are the outside events still to come,
`fresh` numbers free values (the model's own, log 4); `trapped` is the trap that the last meaning took, which
`step` reads to judge a bundle (R337). -/
structure State where
  core : Core
  others : List Core
  teams : List Team
  dev : Device
  mem : Memory
  cycle : Nat
  turn : Nat
  phase : Phase
  trapped : Option Trap
  inputs : List Instr
  fresh : Nat
deriving DecidableEq, Repr

/-- Why a run stops: nothing stops this machine. What ends a word, a team or a command is a trap, a completion or a
refusal that the spec describes, and each of them is a next state. -/
inductive Fault where
deriving DecidableEq, Repr

/-- Why an instruction has no meaning here. -/
inductive Refusal where
  /-- Raised by an arm of `exec` whose instruction has no meaning yet. Safe: the machine stops. -/
  | notModelled (mnemonic : String)
deriving DecidableEq, Repr

/-- A strand at an entry offset. -/
def Thread.entry (pc : Nat) : Thread := ⟨pc, false, 0, 0, none⟩

/-- The strands at the first words of their sections (R26, R325). -/
def Threads.entry : Threads := ⟨.entry 0, .entry 0x14000, .entry 0x28000, .entry 0x30000⟩

/-- An empty queue whose next command takes index 0 (R115). -/
def Queue.empty : Queue := ⟨[], 0, false, none⟩

/-- The device's own latency of each class (R42). -/
def ownLatency : Nat → Nat
  | 0 => 2 | 1 => 4 | 2 => 20 | 3 => 4 | 4 => 1 | 5 => 3 | 6 => 4 | 7 => 8
  | 8 => 4 | 9 => 3 | 10 => 12 | 11 => 16 | 12 => 6 | 13 => 8 | 14 => 32 | _ => 2

/-- The control registers at reset (R43, R161): LOCKMASK, and CONTRACT0 to CONTRACT15 at the own latencies; all
others zero. -/
def csrReset : SMap Word :=
  (2, 0xF) :: (List.range 16).map fun n => (0x10 + n, BitVec.ofNat 64 (ownLatency n))

/-- A core with no team: registers and control registers at their values at team start (R161, R325), every
domain OFF, balance 64 (R55). -/
def Core.reset (place : Nat) : Core where
  place := place
  team := none
  rank := 0
  s := []
  p := []
  v := []
  ls := []
  code := []
  ovlAt := []
  lens := [0, 0, 0, 0, 0]
  csr := csrReset
  dom := []
  lost := []
  bal := 64
  refill := 0
  ghosts := []
  chan := []
  arrivals := []
  gpush := []
  thr := .entry
  hold := .none
  region := none
  handler := none
  restart := ⟨.entry, 0xF, [], 0⟩
  isDone := false
  stopped := false
  pend := []
  lsPend := []
  counts := []
  ports := []
  opens := []
  ldq := .empty
  stq := .empty
  tfq := .empty
  mxq := .empty
  owq := .empty
  qmarks := []
  pmarks := []
  q := []
  nest := []
  gang := 0
  gcfg := 0
  gvalid := false
  rvf := []
  gstat := []
  gev := none
  gevEnds := []
  gevBusy := 0
  rvfOpen := []
  rows := []
  landed := []
  barEp := []
  impr := []
  after := []
  tookAt := 0
  stopAt := 0
  ring := []
  ringPos := 0
  wp := []
  acq := 0
  seen := []
  govel := none

/-- The device after a reset: nothing bound, nothing created, bring-up at stage 0 (R391). -/
def Device.reset : Device where
  regions := []
  pasids := []
  tlb := []
  nodes := []
  launches := []
  nextTag := 0
  barriers := []
  deliveries := []
  counters := []
  mchecks := []
  ownerReports := 0
  dumpRegs := []
  devDump := none
  aqis := []
  hostWrites := []
  cxlOut := []
  hdm := []
  refused := 0
  pans := []
  mhz := []
  weftId := 0
  weftSet := false
  paused := []
  weftSeq := []
  weftOut := []
  weftWait := []
  discards := 0
  unreachable := []
  lostDies := []
  lost := []
  fenced := []
  stage := 0
  recovery := false
  meas := []
  invals := []
  exports := []
  vague := []
  homed := []
  leaves := []
  corrected := 0
  why := []
  islandOff := []
  lostPorts := []
  cxlMid := none
  past := []
  actions := 0
  cause := 0
  signer := 0
  cxlLost := false
  mhzAt := []
  weftHeld := []

/-- The machine right after a device reset: 768 cores without a team (R24, R55), nothing in memory, TICK 0. -/
def State.reset : State where
  core := .reset 0
  others := (List.range 767).map fun i => .reset (i + 1)
  teams := []
  dev := .reset
  mem := []
  cycle := 0
  turn := 768
  phase := .boundary
  trapped := none
  inputs := []
  fresh := 0

end Sys2Proof.Machine
end

