-- ==== Sys2Proof/Machine/Ops.lean ====
section
/-! DEFINITION. The named operations over the state: sparse tables, registers and their landing windows, the
local store and its ports, power, token channels, the trace ring, taking a trap and returning from one, and the
one way in which a strand's word issues. -/

namespace Sys2Proof.Machine

/-- What a step answers. -/
abbrev Out := Host.Outcome State Fault Refusal

/-! ### Sparse tables -/

/-- Reads a key; `d` where nothing is listed. -/
def look {α : Type} (d : α) : SMap α → Nat → α
  | [], _ => d
  | (k, v) :: m, n => if n = k then v else if n < k then d else look d m n

/-- Writes a key, keeping keys rising and never listing `d`. -/
def put {α : Type} [DecidableEq α] (d : α) : SMap α → Nat → α → SMap α
  | [], n, x => if x = d then [] else [(n, x)]
  | (k, v) :: m, n, x =>
    if n < k then (if x = d then (k, v) :: m else (n, x) :: (k, v) :: m)
    else if n = k then (if x = d then m else (n, x) :: m)
    else (k, v) :: put d m n x

/-- Keys strictly rising from above `lo`, no entry equal to `d`. -/
def wfFrom {α : Type} [DecidableEq α] (d : α) : Nat → SMap α → Bool
  | _, [] => true
  | lo, (k, v) :: m => decide (lo ≤ k) && decide (v ≠ d) && wfFrom d (k + 1) m

/-- The canonical form of a sparse table. -/
def smapWf {α : Type} [DecidableEq α] (d : α) (m : SMap α) : Bool := wfFrom d 0 m

/-- The canonical form of far memory. -/
def Memory.wf (m : Memory) : Bool := smapWf 0 m

/-- One byte of far memory. -/
def Memory.read (m : Memory) (a : Nat) : Byte := look 0 m a

/-- Writes one byte of far memory. -/
def Memory.write (m : Memory) (a : Nat) (b : Byte) : Memory := put 0 m a b

/-- Writes consecutive bytes from an address up. -/
def Memory.writeAll (m : Memory) : Nat → List Byte → Memory
  | _, [] => m
  | a, b :: bs => Memory.writeAll (m.write a b) (a + 1) bs

/-- The number in bytes, lowest first (R6). -/
def leNat : List Byte → Nat
  | [] => 0
  | b :: bs => b.toNat + 256 * leNat bs

/-- The lowest `n` bytes of a number, lowest first (R6). -/
def toBytes : Nat → Nat → List Byte
  | 0, _ => []
  | n + 1, x => BitVec.ofNat 8 x :: toBytes n (x / 256)

/-- Consecutive bytes of far memory. -/
def Memory.readAll (m : Memory) (a n : Nat) : List Byte := (List.range n).map fun i => m.read (a + i)

/-- The low `n` bits of a number read as two's complement (R10). -/
def sext (v n : Nat) : Int :=
  let u := v % 2 ^ n
  if 2 * u < 2 ^ n then (u : Int) else (u : Int) - (2 ^ n : Nat)

/-- An integer as an `n`-bit pattern. -/
def patOf (n : Nat) (x : Int) : Nat := (x % ((2 ^ n : Nat) : Int)).toNat

/-- The bits `hi` to `lo` of a number. -/
def bits (x hi lo : Nat) : Nat := x / 2 ^ lo % 2 ^ (hi + 1 - lo)

/-- One bit of a number. -/
def bitOf (x i : Nat) : Bool := x / 2 ^ i % 2 == 1

/-! ### Parts of the state -/

/-- Updates the focus core. -/
def State.onCore (f : Core → Core) (s : State) : State := { s with core := f s.core }

/-- Updates the device. -/
def State.onDev (f : Device → Device) (s : State) : State := { s with dev := f s.dev }

/-- Updates every core. -/
def State.onCores (f : Core → Core) (s : State) : State :=
  { s with core := f s.core, others := s.others.map f }

/-- Every core, the focus core first. -/
def State.cores (s : State) : List Core := s.core :: s.others

/-- The team with an id. -/
def State.teamAt (s : State) (id : TeamId) : Option Team := s.teams.find? fun t => t.id == id

/-- The team resident on the focus core. -/
def State.team (s : State) : Option Team := s.core.team.bind s.teamAt

/-- Updates the team with an id. -/
def State.onTeam (id : TeamId) (f : Team → Team) (s : State) : State :=
  { s with teams := s.teams.map fun t => if t.id = id then f t else t }

/-- Updates the team resident on the focus core. -/
def State.onMyTeam (f : Team → Team) (s : State) : State :=
  match s.core.team with
  | some id => s.onTeam id f
  | none => s

/-- The launch with a tag. -/
def State.launchAt (s : State) (ltag : Nat) : Option Launch := s.dev.launches.find? fun l => l.ltag == ltag

/-- The strand state of a strand. -/
def Threads.get (t : Threads) : Strand → Thread
  | .s => t.s | .v => t.v | .m => t.m | .x => t.x

/-- Replaces the strand state of a strand. -/
def Threads.set (t : Threads) (st : Strand) (x : Thread) : Threads :=
  match st with
  | .s => { t with s := x }
  | .v => { t with v := x }
  | .m => { t with m := x }
  | .x => { t with x := x }

/-- Updates each strand's state. -/
def Threads.mapAll (f : Thread → Thread) (t : Threads) : Threads := ⟨f t.s, f t.v, f t.m, f t.x⟩

/-- A queue by its SRC number (R343): 4 load, 5 store, 6 transform, 7 matrix, 8 ownership. -/
def Core.queue (c : Core) : Nat → Queue
  | 4 => c.ldq | 5 => c.stq | 6 => c.tfq | 7 => c.mxq | _ => c.owq

/-- Replaces a queue by its SRC number. -/
def Core.setQueue (c : Core) (q : Nat) (x : Queue) : Core :=
  match q with
  | 4 => { c with ldq := x }
  | 5 => { c with stq := x }
  | 6 => { c with tfq := x }
  | 7 => { c with mxq := x }
  | _ => { c with owq := x }

/-- How many commands a queue holds (R111, R115, R137, R227). -/
def queueCap : Nat → Nat
  | 6 => 16 | 7 => 4 | _ => 64

/-- A control register's stored value by selector (R161). -/
def Core.csrAt (c : Core) (sel : Nat) : Word := look 0 c.csr sel

/-- Stores a control register. -/
def Core.setCsr (c : Core) (sel : Nat) (v : Word) : Core := { c with csr := put 0 c.csr sel v }

/-- The bits of a control register that may be non-zero: the others are beyond its width, or reserved and read as zero (R8, R43,
R146, R159 to R161, R183, R221, R341, R346). -/
def csrMask (sel : Nat) : Nat :=
  if sel ≤ 1 then 0xFFFF
  else if sel = 2 then 0xF
  else if sel = 8 then 0x3FF
  else if sel = 9 then 0xFFFFFFFFFFFFFFFF
  else if sel = 0xA then 0x3FFFF
  else if 0x10 ≤ sel ∧ sel ≤ 0x1F then 0xFFFF
  else if sel = 0x28 then 0x7C0
  else if sel = 0x29 then 0x3F
  else if sel = 0x2A then 0xFFFFFF
  else if sel = 0x2B then 0x3F07FF
  else if sel = 0x30 then 0xFFFFFFFF001FFFF0
  else if 0x40 ≤ sel then 0x7FFFFFFF
  else 0xFFFFFFFF

/-- The contract bound of a class (R43). -/
def Core.bound (c : Core) (cls : Nat) : Nat := (c.csrAt (0x10 + cls)).toNat % 2 ^ 16

/-- Gang width of a team, in cores (R25, R323). -/
def Team.width (t : Team) : Nat := 2 ^ t.gw

/-- The cores on which a team is resident. -/
def State.coresOf (s : State) (id : TeamId) : List Core := s.cores.filter fun c => c.team == some id

/-! ### Free values -/

/-- An unspecified pattern of this step (R2). -/
def State.free (s : State) (slot w : Nat) : BitVec w := Config.freeBits s.fresh slot w

/-- A free number as a choice among `n`. -/
def oneOf (raw n : Nat) : Nat := if n ≤ 1 then 0 else raw % n

/-- A choice the manual leaves open, among 0 to n. -/
def State.pick (s : State) (slot n : Nat) : Nat := oneOf (Config.freeNat s.fresh slot) (n + 1)

/-- One of two outcomes the manual allows. -/
def State.flip (s : State) (slot : Nat) : Bool := Config.freeBool s.fresh slot

/-- Slots of free values: each kind of thing read has a range of its own, `port` tells operands apart. -/
def slotOf (kind port n : Nat) : Nat := (kind * 16 + port) * 2 ^ 32 + n

/-! ### Registers and their landing windows (R17, R42, R44) -/

/-- Whether what is in flight on a core may land in a cycle: from its bound on, or, where issue has ended, at any time,
since a result lands by its bound and nothing can read it meanwhile (R42, R293, R333, R349). -/
def Core.mayLand (c : Core) (due cycle : Nat) : Bool := decide (due ≤ cycle) || c.isDone || c.stopped

/-- Whether a destination has a result in flight that issued before this cycle. -/
def State.inFlight (s : State) (d : Dest) : Bool :=
  s.core.pend.any fun l => decide (l.dest = d) && decide (l.issue < s.cycle)

/-- Whether a window bars core-port accesses and V words in a cycle. -/
def Window.live (w : Window) (cycle : Nat) : Bool := !w.closed && decide (w.from_ ≤ cycle)

/-- A scalar register as a word issuing now reads it: unspecified inside a landing window (R17) and from the issue
of a command that writes it until its push is taken (R38, R158). -/
def State.readS (s : State) (port n : Nat) : Word :=
  if n = 0 then 0
  else if s.inFlight (.s n) || s.core.opens.any (fun w => w.sreg == n && decide (w.from_ ≤ s.cycle)) then s.free (slotOf 0 port n) 64
  else look 0 s.core.s n

/-- A predicate register as a word issuing now reads it (R17, R158). -/
def State.readP (s : State) (port n : Nat) : Pred :=
  if n = 0 then BitVec.allOnes 1024
  else if s.inFlight (.p n) then s.free (slotOf 1 port n) 1024
  else look 0 s.core.p n

/-- Bit 0 of a predicate (R158). -/
def State.readP0 (s : State) (port n : Nat) : Bool := (s.readP port n).getLsbD 0

/-- Whether a guard turns its word off: the predicate equals the negate bit (R45). -/
def State.guardedOff (s : State) (g : Guard) : Bool := s.readP0 15 g.p == g.neg

/-- A physical vector register as a word issuing now reads it: unspecified inside a landing window (R17) and, for
a tile register of an open nest, inside the nest's window (R230). -/
def State.readV (s : State) (port phys : Nat) : VReg :=
  if s.inFlight (.v phys) || s.core.opens.any (fun w => w.live s.cycle && w.vregs.contains phys) then
    s.free (slotOf 2 port phys) 4096
  else look 0 s.core.v phys

/-- A windowed control register as a word issuing now uses it: the old value, or the result of a write in flight that
issued before this cycle; once a write's window has closed, neither the value before it nor one that it replaced (R44). The
same for the whole instruction (R186). -/
def State.readShape (s : State) (sel : Nat) : Word :=
  let new := s.core.pend.filter fun l => decide (l.dest = .csr sel) && decide (l.issue < s.cycle)
  let shut := new.filter fun l => decide (l.due ≤ s.cycle)
  let old := (s.core.csrAt sel).toNat
  let may := (new.filter fun l => shut.all fun k => decide (k.issue < l.due)).map (·.value)
  let all := if shut = [] then old :: may else may
  BitVec.ofNat 64 (all.getD (s.pick (slotOf 3 0 sel) (all.length - 1)) old)

/-- VSHAPE, VWB and TWIST as a word issuing now uses them (R186). -/
def State.vshape (s : State) : Nat := (s.readShape 0x2A).toNat
def State.vwb (s : State) : Nat := (s.readShape 0x28).toNat
def State.twist (s : State) : Nat := (s.readShape 0x29).toNat

/-- The physical register that a name reaches (R159). -/
def physOf (vwb twist n : Nat) : Nat :=
  if n < 192 then vwb + n else vwb + 192 + (n - 192 + twist) % 64

/-- The physical register that a name reaches for a word issuing now. -/
def State.phys (s : State) (n : Nat) : Nat := physOf s.vwb s.twist n

/-- Stores a landed result (R158: s0 and p0 discard writes). -/
def Core.store (c : Core) (d : Dest) (x : Nat) : Core :=
  match d with
  | .s n => if n = 0 then c else { c with s := put 0 c.s n (BitVec.ofNat 64 x) }
  | .p n => if n = 0 then c else { c with p := put 0 c.p n (BitVec.ofNat 1024 x) }
  | .v n => { c with v := put 0 c.v n (BitVec.ofNat 4096 x) }
  | .amaxUp m => c.setCsr (0x40 + m) (BitVec.ofNat 64 (max (c.csrAt (0x40 + m)).toNat x))
  | .csr sel => c.setCsr sel (BitVec.ofNat 64 x)
  | .q n => { c with q := put 0 c.q n (BitVec.ofNat 128 x) }
  | .nest n => { c with nest := put (if n = 6 then 0x01000000 else 0) c.nest n (BitVec.ofNat 64 x) }
  | .gang => { c with gang := x }
  | .gcfg => { c with gcfg := BitVec.ofNat 256 x, gvalid := true }

/-- Whether two results go to one register: an update of an amax register and a `csrw` of it do (R213). -/
def sameReg (a b : Dest) : Bool :=
  match a, b with
  | .csr sel, .amaxUp m => sel == 0x40 + m
  | .amaxUp m, .csr sel => sel == 0x40 + m
  | a, b => decide (a = b)

/-- The results in flight to the register of one, that one among them, in issue order: their windows overlap in a
chain. Updates of an amax register alone combine, so each stands for itself (R213). -/
def Core.rivals (c : Core) (l : Landing) : List Landing :=
  let g := c.pend.filter fun k => sameReg l.dest k.dest
  match l.dest with
  | .amaxUp _ => if g.all fun k => decide (k.dest = l.dest) then [l] else g
  | _ => g

/-- Whether a result may prevail among those to its register: no later one issued after its window had closed
(R44). -/
def Landing.stands (l : Landing) (g : List Landing) : Bool := g.all fun k => decide (k.issue < l.due)

/-- A number for a destination. -/
def Dest.code : Dest → Nat
  | .s n => n
  | .p n => 64 + n
  | .csr sel => 128 + sel
  | .amaxUp m => 192 + m
  | .q n => 256 + n
  | .nest n => 288 + n
  | .gang => 296
  | .gcfg => 297
  | .v n => 512 + n

/-- Which of `n` outcomes rival results of a register have: open, and the same whenever it is asked (R44). -/
def Core.chosen (c : Core) (d : Dest) (g : List Landing) (n : Nat) : Nat :=
  oneOf (Config.freeNat (slotOf 9 0 (4096 * c.place + d.code)) (g.foldl (fun k l => 2 ^ 64 * k + l.issue) 0)) n

/-- Adds a result in flight to a core, in issue order. -/
def Core.addPend (c : Core) (l : Landing) : Core := { c with pend := c.pend ++ [l] }

/-- A result in flight from this cycle, due at `due`. A register that discards writes takes none. -/
def State.landAt (s : State) (d : Dest) (x due : Nat) (tag : Nat := 0) : State :=
  if (d = .s 0) ∨ (d = .p 0) then s
  else s.onCore fun c => c.addPend ⟨d, x, tag, s.cycle, due⟩

/-- A result in flight of a class: it lands by the contract bound (R42). -/
def State.land (s : State) (cls : Nat) (d : Dest) (x : Nat) (tag : Nat := 0) : State :=
  s.landAt d x (s.cycle + s.core.bound cls) tag

/-- A V-strand result due at a cycle. A register that is a tile register of an open nest is left unspecified
(R230); a register that a running `gev` reads leaves its segment unspecified (R250). -/
def State.landVAt (s : State) (due phys x : Nat) (tag : Nat := 0) : State :=
  let hit (w : Window) : Bool := w.live s.cycle && w.vregs.contains phys
  let spoil (w : Window) : Window := if hit w then { w with spoilt := phys :: w.spoilt } else w
  let x := if s.core.opens.any hit then (s.free (slotOf 2 15 phys) 4096).toNat else x
  let tag := if s.core.opens.any hit then 0 else tag
  let s := s.onCore fun c => { c with
    opens := c.opens.map spoil
    gev := c.gev.map fun g =>
      if g.xphys.contains phys && decide (s.cycle + 1 < g.issue + g.occ + g.late) then { g with spoilt := true } else g }
  s.landAt (.v phys) x due tag

/-- The same for a class. -/
def State.landV (s : State) (cls phys x : Nat) : State := s.landVAt (s.cycle + s.core.bound cls) phys x

/-- Adds statistic events, committed at `due` (R179). -/
def State.countAt (s : State) (tid sat ftz nan due : Nat) : State :=
  if sat = 0 ∧ ftz = 0 ∧ nan = 0 then s
  else s.onCore fun c => { c with counts := c.counts ++ [⟨tid, sat, ftz, nan, s.cycle, due⟩] }

/-! ### The trace ring (R361, R362) -/

/-- Appends an entry. -/
def Core.ringAdd (c : Core) (cycle kind src data : Nat) : Core :=
  { c with
    ring := put 0 c.ring c.ringPos
      (BitVec.ofNat 128 (2 ^ 64 * (cycle % 2 ^ 64) + 2 ^ 60 * kind + 2 ^ 56 * src + data % 2 ^ 56))
    ringPos := (c.ringPos + 1) % 512 }
def State.ring (s : State) (kind src data : Nat) : State := s.onCore fun c => c.ringAdd s.cycle kind src data

/-! ### Trap information (R343, R344) -/

/-- TRAPINFO from SRC and the cause's fields. -/
def info (src fields : Nat) : Word := BitVec.ofNat 64 (2 ^ 60 * src + fields % 2 ^ 60)

/-- The word at a scratchpad offset. -/
def Core.codeAt (c : Core) (off : Nat) : Word32 := look 0 c.code (off / 4)

/-- The word a strand fetches: a captured body word issues from the loop buffer (R284). -/
def Core.fetch (c : Core) (t : Thread) (off : Nat) : Word32 :=
  match t.loop with
  | some l => match l.captured.find? fun e => e.1 == off / 4 with
    | some e => e.2
    | none => c.codeAt off
  | none => c.codeAt off

/-- The instruction word that a strand has next. -/
def State.nowWord (s : State) (st : Strand) : Nat :=
  let t := s.core.thr.get st
  (s.core.fetch t t.pc).toNat

/-- Illegal-encoding with a condition (R344). -/
def State.illegal (s : State) (st : Strand) (cond : Nat) : Trap :=
  ⟨1, info st.num (2 ^ 56 * cond + if cond = 10 then 0 else s.nowWord st)⟩

/-- Illegal-encoding, operand condition (COND 9). -/
def State.operandTrap (s : State) (st : Strand) : Trap := s.illegal st 9

/-- Alignment (R344). -/
def alignTrap (st : Strand) (a : Int) : Trap := ⟨3, info st.num (patOf 56 a)⟩

/-- A queue or the phase unit is full (R344). -/
def fullTrap (src : Nat) : Trap := ⟨9, info src (2 ^ 20)⟩

/-- Timing (R344). -/
def timingTrap (src reason : Nat) : Trap := ⟨10, info src reason⟩

/-- Unowned-access (R344). -/
def unownedTrap (reason addr : Nat) : Trap := ⟨7, info 3 (2 ^ 56 * reason + addr % 2 ^ 56)⟩

/-! ### Power (R53 to R66) -/

/-- The state of a domain. -/
def Core.domAt (c : Core) (d : Nat) : Dom := look .off c.dom d

/-- Whether a domain is ON. -/
def Core.isOn (c : Core) (d : Nat) : Bool := decide (c.domAt d = .on)

/-- The power domain of an LS byte, of a physical vector register (R53). -/
def lsDom (a : Nat) : Nat := a / 0x40000
def vbDom (phys : Nat) : Nat := 8 + phys / 128

/-- Smallest of a list of numbers. -/
def least : List Nat → Option Nat
  | [] => none
  | x :: xs => some (xs.foldl min x)

/-- The sleeping-resource and retention-loss causes of a use of domains: the lowest-numbered at fault (R60,
R61). -/
def State.useDoms (s : State) (st : Strand) (ds : List Nat) : List Trap :=
  (match least (ds.filter fun d => !s.core.isOn d) with
   | some d => [⟨4, info st.num d⟩]
   | none => [])
  ++ (match least (ds.filter fun d => s.core.isOn d && s.core.lost.contains d) with
   | some d => [⟨5, info st.num d⟩]
   | none => [])

/-! ### Core port (R152 to R156, R229) -/

/-- The bank of an LS byte (R152). -/
def bankOf (a : Nat) : Nat := a / 0x10000

/-- The banks of the bytes `a` to `a + n - 1`, in order. -/
def banksOf (a n : Nat) : List Nat :=
  if n = 0 then [] else (List.range (bankOf (a + n - 1) + 1 - bankOf a)).map fun i => bankOf a + i

/-- All banks. -/
def allBanks : List Nat := List.range 32

/-- The meetings of an access with those under way: bank and the strand it meets there. -/
def Core.meetsPorts (c : Core) (u : PortUse) : List (Nat × Strand) :=
  c.ports.flatMap fun p =>
    if p.fr ≤ u.upTo ∧ u.fr ≤ p.upTo then (u.banks.filter fun b => p.banks.contains b).map fun b => (b, p.strand) else []

/-- The same and those with open nests: a nest's window keeps its bank set from every access but the nest's own
(R229). -/
def Core.meets (c : Core) (u : PortUse) : List (Nat × Strand) :=
  c.meetsPorts u ++ (c.opens.flatMap fun w =>
    if w.live u.upTo then (u.banks.filter fun b => w.banks.contains b).map fun b => (b, Strand.m) else [])

/-- The two lowest of the strands that meet (R154). -/
def lowTwo (xs : List Nat) : Nat × Nat :=
  match least xs with
  | none => (0, 0)
  | some a => match least (xs.erase a) with
    | none => (a, a)
    | some b => (a, b)

/-- The bank-conflict cause of meetings of a strand: the lowest bank and the strands there (R154, R344). -/
def meetTrap (st : Strand) (ms : List (Nat × Strand)) : List Trap :=
  match least (ms.map (·.1)) with
  | none => []
  | some b =>
    let who := ((ms.filter fun e => e.1 == b).map fun e => e.2.num).eraseDups
    let (x, y) := lowTwo (st.num :: who)
    [⟨8, info st.num (2 ^ 10 * y + 2 ^ 8 * x + b)⟩]

/-- The bank-conflict causes of the accesses of one instruction. -/
def State.portTraps (s : State) (st : Strand) (us : List PortUse) : List Trap :=
  meetTrap st (us.flatMap fun u => s.core.meets u)

/-- Takes the core port for the accesses of an instruction. -/
def State.usePorts (s : State) (us : List PortUse) : State :=
  s.onCore fun c => { c with ports := c.ports ++ us }

/-- One access in the issue cycle. -/
def State.portNow (s : State) (st : Strand) (a n : Nat) : PortUse := ⟨st, s.cycle, s.cycle, banksOf a n⟩

/-- Whether ranges of bytes hold a byte. -/
def inRanges (rs : List (Nat × Nat)) (a : Nat) : Bool := rs.any fun r => decide (r.1 ≤ a) && decide (a < r.2)

/-- Whether ranges of bytes touch the granule of a byte. -/
def nearRanges (rs : List (Nat × Nat)) (a : Nat) : Bool :=
  rs.any fun r => decide (r.1 < r.2) && decide (r.1 / 32 ≤ a / 32) && decide (a / 32 ≤ (r.2 - 1) / 32)

/-! ### Row passes (R216, R218) -/

/-- A row descriptor (R216): length and stride in 64-byte units, number of rows, base. -/
structure Rows where
  len : Nat
  stride : Nat
  rows : Nat
  base : Nat

/-- The fields of a descriptor. -/
def rowsOf (d : Nat) : Rows := ⟨bits d 49 40, bits d 39 30, bits d 29 23 + 1, bits d 20 0⟩

/-- Chunks of a row, occupancy, the address of a row, the last byte of all. -/
def Rows.chunks (r : Rows) : Nat := (r.len + 7) / 8
def Rows.occ (r : Rows) (kind : Nat) : Nat := (if kind = 0 then 1 else 2) * (r.rows * r.chunks)
def Rows.at_ (r : Rows) (i : Nat) : Nat := r.base + 64 * r.stride * i
def Rows.last (r : Rows) : Nat := r.at_ (r.rows - 1) + 64 * r.len - 1

/-- A pass's rows; whether it has read its last chunk. -/
def RowPass.rows (p : RowPass) : Rows := rowsOf p.desc
def RowPass.finished (p : RowPass) : Bool := decide (p.got.length ≥ p.rows.rows * p.rows.chunks)

/-- The LS bytes that a pass still computes and will write. -/
def RowPass.writes (p : RowPass) : List (Nat × Nat) :=
  if p.kind = 0 ∨ p.finished then [] else p.on.map fun i => (p.rows.at_ i, p.rows.at_ i + 64 * p.rows.len)

/-- The bytes that passes issued before a cycle still compute. -/
def Core.rowWrites (c : Core) (cycle : Nat) : List (Nat × Nat) :=
  (c.rows.filter fun p => decide (p.issue < cycle)).flatMap RowPass.writes

/-- A byte's writes by commands in flight, in the order in which they were made: when each was, which window's, what the byte held
before it (R118). -/
def insertOld (e : Nat × Nat × Byte) : List (Nat × Nat × Byte) → List (Nat × Nat × Byte)
  | [] => [e]
  | x :: xs => if e.1 < x.1 then e :: x :: xs else x :: insertOld e xs
def Core.oldsOf (c : Core) (cycle a : Nat) : List (Nat × Nat × Byte) :=
  let of_ (e : Nat × Window) : Option (Nat × Nat × Byte) :=
    if e.2.live cycle then (e.2.olds.find? fun o => o.1 == a).map fun o => (o.2.1, e.1, o.2.2) else none
  (((List.range c.opens.length).zip c.opens).filterMap of_).foldr insertOld []

/-- A byte from its writes and its contents now: what the latest seen write left, or what was there before the first. -/
def lastSeen (seen : Nat → Bool) : List (Nat × Nat × Byte) → Byte → Byte
  | [], now => now
  | e :: es, now => if (e :: es).any fun w => seen w.2.1 then lastSeen seen es now else e.2.2

/-- The contents of a byte that commands in flight have written, as a core-port access finds it: of each command, its granule is
as before that command's write, or as written (R118). -/
def State.seenLs (s : State) (port a : Nat) : Byte :=
  lastSeen (fun w => s.flip (slotOf 6 port (2 ^ 16 * w + a / 32))) (s.core.oldsOf s.cycle a) (look 0 s.core.ls a)

/-- A byte of the local store as a core-port read issuing now finds it: unspecified inside a write's window (R156),
where a command's source bytes were written meanwhile (R118), and in granules that a rollback left so (R128); of a granule
that a command in flight has written, the contents from before or those written (R118). -/
def State.readLs (s : State) (port a : Nat) : Byte :=
  if s.core.lsPend.any (fun w => w.addr == a && decide (w.issue < s.cycle)) || inRanges (s.core.rowWrites s.cycle) a
      || s.core.opens.any (fun w => (w.live s.cycle && inRanges w.reads a && inRanges w.dirty a) || nearRanges w.vague a) then
    s.free (slotOf 4 port a) 8
  else s.seenLs port a

/-- Consecutive bytes as a core-port read finds them. -/
def State.readLsN (s : State) (port a n : Nat) : List Byte := (List.range n).map fun i => s.readLs port (a + i)

/-- The writes in flight to the byte of one, that one among them: their windows overlap in a chain (R156). -/
def Core.lsRivals (c : Core) (w : LsWrite) : List LsWrite := c.lsPend.filter fun k => k.addr == w.addr

/-- Whether a byte write may prevail: no later one issued after its window had closed (R44, R156). -/
def LsWrite.stands (w : LsWrite) (g : List LsWrite) : Bool := g.all fun k => decide (k.issue < w.due)

/-- Bytes that a core-port write issued now will change: they spoil what a command feeds that reads them, until it has
completed and, for core-port reads, until its push is taken (R118, R129, R230). -/
def State.dirtyLs (s : State) (as : List Nat) : State :=
  let spoil (w : Window) : Window :=
    if w.pushed && w.closed then w
    else { w with dirty := ((as.filter fun a => inRanges w.reads a || (w.queue == 7 && w.closed)).map fun a => (a, a + 1)) ++ w.dirty }
  s.onCore fun c => { c with opens := c.opens.map spoil }

/-- A core-port write of bytes by address, visible from `due` on (R156). -/
def State.writeLsAt (s : State) (due : Nat) (ws : List (Nat × Byte)) : State :=
  (s.dirtyLs (ws.map (·.1))).onCore fun c => { c with lsPend := c.lsPend ++ ws.map fun e => ⟨e.1, e.2, s.cycle, due⟩ }

/-- A byte as a landing core-port write leaves it: of a granule that a command in flight has written, the contents from
before or those written; of one that it has yet to write, the byte lands or does not (R118). -/
def State.landedLs (s : State) (a : Nat) (b : Byte) : Byte :=
  match s.core.oldsOf s.cycle a with
  | _ :: _ => s.seenLs 15 a
  | [] => if s.core.opens.any (fun w => w.live s.cycle && inRanges w.writes a) && s.flip (slotOf 6 15 (a / 32)) then
      look 0 s.core.ls a else b

/-- Pairs of address and byte from an address up. -/
def cellsFrom (a : Nat) (bs : List Byte) : List (Nat × Byte) :=
  (List.range bs.length).zip bs |>.map fun e => (a + e.1, e.2)

/-! ### Watchpoints (R363, R364) -/

/-- Whether a watchpoint watches a byte of a space (1 LS, 2 far). -/
def wpHits (wp : BitVec 128) (space a : Nat) : Bool :=
  decide (bits wp.toNat 75 74 = space) && decide (bits wp.toNat 127 76 = a / 16) && bitOf wp.toNat (a % 16)

/-- Whether a watchpoint's TYPE names an access kind: 0 write, 1 read, 2 atomic. -/
def wpKind (wp : BitVec 128) (kind : Nat) : Bool :=
  kind == 2 || bits wp.toNat 73 72 == kind || bits wp.toNat 73 72 == 2

/-- The lowest-numbered watchpoint that matches an access to bytes, with the watched bytes touched. -/
def Core.watchHit (c : Core) (space kind : Nat) (as : List Nat) : Option (Nat × Nat × Nat) :=
  (List.range 4).findSome? fun n =>
    let wp := look 0 c.wp n
    let hit := (as.filter fun a => wpHits wp space a).map fun a => 2 ^ (a % 16)
    if wpKind wp kind ∧ hit ≠ [] then some (n, kind, (hit.eraseDups.foldl (· + ·) 0)) else none

/-- The watchpoint cause of a core-port access (R364). -/
def State.watchTraps (s : State) (st : Strand) (kind : Nat) (as : List Nat) : List Trap :=
  match s.core.watchHit 1 kind as with
  | some (n, k, hit) => [⟨11, info st.num (2 ^ 58 * n + 2 ^ 56 * k + hit)⟩]
  | none => []

/-! ### Rights over far memory (R93, R99, R100) -/

/-- What an access needs. -/
inductive Right where
  | read
  | write
  | atomic
deriving DecidableEq, Repr

/-- The reason for which a holding refuses a right, if it does (R93, R100). -/
def Holding.refuses (h : Holding) (r : Right) : Option Nat :=
  if h.mode = 0 then
    if h.lent then some 3
    else match r with
      | .read => none
      | .write => if h.shares = 0 then none else some 2
      | .atomic => if h.shares ≠ 0 ∧ h.smode = 1 then some 2 else none
  else if h.mode = 1 then (if r = .read then none else some 1)
  else (if r = .atomic then none else some 1)

/-- The reason for which a team may not make an access to a far byte (R99). -/
def Team.refuses (t : Team) (a : Nat) (r : Right) : Option Nat :=
  match t.holdings.find? fun h => decide (h.base ≤ a) && decide (a < h.base + 2 ^ h.sz) with
  | none => some 0
  | some h => h.refuses r

/-- A team as its accesses in a cycle are checked: what its ownership commands of that cycle change counts from the next
on (R102, R104). -/
def Team.asOf (cycle : Nat) (t : Team) : Team :=
  match t.heldWas with
  | some (c, hs) => if c = cycle then { t with holdings := hs } else t
  | none => t

/-- Keeps the holdings in front of an ownership command's change. -/
def Team.remember (cycle : Nat) (t : Team) : Team :=
  match t.heldWas with
  | some (c, _) => if c = cycle then t else { t with heldWas := some (cycle, t.holdings) }
  | none => { t with heldWas := some (cycle, t.holdings) }

/-- The same for the resident team; no team holds anything. -/
def State.farRefuses (s : State) (a : Nat) (r : Right) : Option Nat :=
  match s.team.map (Team.asOf s.cycle) with
  | none => some 0
  | some t => t.refuses a r

/-- The first byte of a run that the team may not access, with the reason: holding by holding, so `fuel` is at most
one more than their number. -/
def Team.runFail (t : Team) (r : Right) : Nat → Nat → Nat → Option (Nat × Nat)
  | 0, _, _ => none
  | fuel + 1, a, n =>
    if n = 0 then none
    else match t.holdings.find? fun h => decide (h.base ≤ a) && decide (a < h.base + 2 ^ h.sz) with
      | none => some (0, a)
      | some h => match h.refuses r with
        | some q => some (q, a)
        | none => let k := h.base + 2 ^ h.sz - a; t.runFail r fuel (a + k) (n - k)

/-- The same for the resident team. -/
def State.farFail (s : State) (a n : Nat) (r : Right) : Option (Nat × Nat) :=
  match s.team.map (Team.asOf s.cycle) with
  | none => if n = 0 then none else some (0, a)
  | some t => t.runFail r (t.holdings.length + 1) a n

/-! ### Taking a trap and returning from one (R337 to R349, R292) -/

/-- Whether a cause may go to a handler (R342). -/
def handlerCode (code : Nat) : Bool := decide (3 ≤ code) && decide (code ≤ 20)

/-- Whether a cause is imprecise (R342). -/
def impreciseCode (code : Nat) : Bool := decide (16 ≤ code) && decide (code ≤ 20)

/-- Drops captured words (R286). -/
def Thread.dropCaptured (t : Thread) : Thread := { t with loop := t.loop.map fun l => { l with captured := [] } }

/-- TRAPCAUSE (R341). -/
def causeWord (code : Nat) (pend : Bool) : Nat :=
  code + (if impreciseCode code then 2 ^ 8 else 0) + (if pend then 2 ^ 9 else 0)

/-- The strand whose TRAPPC a trap entry of the ring shows (R362). -/
def ringStrand (src : Nat) : Strand :=
  match src with
  | 1 => .v | 2 => .m | 3 => .x | _ => .s

/-- Writes the trap registers, ends an aligned region, abandons a hold, clears the LOST mark of a retention-loss
trap (R345, R60). -/
def State.trapRegs (s : State) (t : Trap) : State :=
  let c := s.core
  let src := t.info.toNat / 2 ^ 60
  let cause := causeWord t.code (c.impr ≠ [])
  let s := s.onCore fun c =>
    let c := c.setCsr 8 (BitVec.ofNat 64 cause)
    let c := c.setCsr 9 t.info
    let c := c.setCsr 0xC (BitVec.ofNat 64 c.thr.s.pc)
    let c := c.setCsr 0xD (BitVec.ofNat 64 c.thr.v.pc)
    let c := c.setCsr 0xE (BitVec.ofNat 64 c.thr.m.pc)
    let c := c.setCsr 0xF (BitVec.ofNat 64 c.thr.x.pc)
    { c with
      region := none
      hold := .none
      tookAt := s.cycle
      lost := if t.code = 5 then c.lost.filter fun d => d != t.info.toNat % 32 else c.lost }
  s.ring 4 src (2 ^ 32 * cause + (s.core.thr.get (ringStrand src)).pc % 2 ^ 18)

/-- The fatal end of a team: its record for the dump, and issue stops on the core (R348, R349). -/
def State.fatal (s : State) (code : Nat) (t : Trap) (cause2 : Nat) : State :=
  let r : FatalRec := ⟨code, s.core.rank, causeWord t.code (s.core.impr ≠ []), cause2, t.info, s.cycle⟩
  let first (f : FatalRec) : FatalRec := if r.tick < f.tick then r else f
  let s := s.onMyTeam fun tm => { tm with fatal := some ((tm.fatal.map first).getD r) }
  s.onCore fun c => { c with stopped := true }

/-- Takes a trap at the boundary in front of this cycle (R345, R348). Inside the landing window of a `csrw` of TRAPVEC the entry is that of
the value before it (DESIGN CHOICE, log 96). -/
def State.takeTrap (s : State) (t : Trap) : State :=
  let old := s.core
  let s := { s.trapRegs t with trapped := some t }
  match old.handler with
  | some h => s.fatal 25 t h.cause
  | none =>
    let entry := (old.csrAt 0xA).toNat % 2 ^ 18
    if handlerCode t.code ∧ entry ≠ 0 then
      s.onCore fun c => { c with
        handler := some ⟨c.thr.mapAll Thread.dropCaptured, t.code⟩
        thr := { c.thr with s := .entry entry } }
    else s.fatal t.code t 0

/-- A trap at the boundary after this cycle (R291, R339). -/
def State.takeTrapNext (s : State) (t : Trap) : State :=
  { ({ s with cycle := s.cycle + 1 }).takeTrap t with cycle := s.cycle }

/-- TRAPPC of a strand as `eret` reads it (R17, R292). -/
def State.trappc (s : State) (n : Nat) : Nat :=
  if s.inFlight (.csr (0xC + n)) then (s.free (slotOf 3 1 (0xC + n)) 32).toNat else (s.core.csrAt (0xC + n)).toNat

/-- The queue that an imprecise trap halted resumes when its handler returns (R126, R144, R365). -/
def State.unhalt (s : State) : State :=
  match s.core.handler with
  | none => s
  | some h =>
    let q := (s.core.csrAt 9).toNat / 2 ^ 60
    if 16 ≤ h.cause ∧ h.cause ≤ 18 ∧ 4 ≤ q ∧ q ≤ 8 then
      s.onCore fun c => c.setQueue q { c.queue q with halted := false }
    else s

/-- Returns from a trap (R292): each strand at its TRAPPC, with the lock membership, loops, repeats and gaps kept
with the trap. -/
def State.returnTrap (s : State) : State :=
  match s.core.handler with
  | none => s
  | some h =>
    let pcs (n : Nat) (t : Thread) : Thread := { t with pc := s.trappc n }
    let thr : Threads := ⟨pcs 0 h.threads.s, pcs 1 h.threads.v, pcs 2 h.threads.m, pcs 3 h.threads.x⟩
    let s := s.unhalt.onCore fun c => { c with handler := none, thr := thr }
    s.ring 5 0 0

/-- Resumes from the last restart point (R290, R292), in Govel code from block entry or from the first effect operation (R375): strands, LOCKMASK, amax registers; the statistic table
becomes the snapshot, and counts of words issued since the mark are void (R181, R213). -/
def State.restart (s : State) : State :=
  let s := s.unhalt.onCore fun c => { c with
    handler := none
    thr := c.restart.threads
    csr := put 0 ((List.range 16).foldl (fun m i => put 0 m (0x40 + i) (look 0 c.restart.amax i)) c.csr) 2
      c.restart.lockmask
    pend := c.pend.filter fun l => decide (l.dest ≠ .csr 2)
    govel := c.govel.map fun g => { g with at_ := 0, wait := false } }
  let s := s.onMyTeam fun t => { t with stats := t.snap, voids := (t.mark, s.cycle) :: t.voids }
  s.ring 5 0 1

/-- Adds an imprecise trap to those pending (R340). -/
def State.raiseLater (s : State) (t : Trap) : State := s.onCore fun c => { c with impr := c.impr ++ [t] }

/-- Records a precise cause that arose after issue; it is raised at the boundary after this cycle (R339). -/
def State.raiseAfter (s : State) (t : Trap) : State := s.onCore fun c => { c with after := c.after ++ [t] }

/-! ### Token channels (R294 to R296) -/

/-- A channel's count. -/
def Core.tokens (c : Core) (k : Nat) : Nat := look 0 c.chan k

/-- Changes a channel's count. -/
def Core.setTokens (c : Core) (k n : Nat) : Core := { c with chan := put 0 c.chan k n }

/-- The place of a push under R296: a group, then an order within it. -/
def pushRank (group order : Nat) : Nat := group * 2 ^ 32 + order

/-- A core acquires: its later reads see every action on far memory performed so far (R261). -/
def Core.acquireAt (actions : Nat) (c : Core) : Core := { c with acq := actions, seen := [] }

/-- A push that arrives in this cycle. -/
def State.push (s : State) (p : Push) : State := s.onCore fun c => { c with arrivals := c.arrivals ++ [p] }

/-- The first window that a test picks changes; it goes where it changes to none. -/
def onFirst (p : Window → Bool) (f : Window → Option Window) : List Window → List Window
  | [] => []
  | w :: ws => if p w then (f w).toList ++ ws else w :: onFirst p f ws

/-- A token of a channel is taken by a `wait.k`: the oldest window that pushed there ends, and with it what commands issued
before leave of its scalar register (R38, R118, R229; which of a channel's tokens is taken is the oldest, log 20). -/
def Core.release (c : Core) (k : Nat) : Core :=
  match c.opens.find? fun w => w.push == k && w.pushed && !w.taken with
  | some w => { c with opens := (c.opens.erase w).filter fun v => !(v.taken && v.sreg == w.sreg && decide (v.issue ≤ w.issue)) }
  | none => c

/-- A token of a channel is popped by a command: the oldest window that pushed there ends, but for its scalar register,
which only a `wait.k` would make readable (R38, R118, R229, log 20). -/
def Core.popped (c : Core) (k : Nat) : Core :=
  let pop (w : Window) : Option Window := if w.sreg = 0 then none else some { w with closed := true, taken := true }
  { c with opens := onFirst (fun w => w.push == k && w.pushed && !w.taken) pop c.opens }

/-- A command that pops a channel issues: the oldest window that waits on the channel closes, but for its scalar
register (R118, R229, log 20). -/
def Core.close (c : Core) (k : Nat) : Core :=
  { c with opens := onFirst (fun w => w.push == k && !w.closed) (fun w => some { w with closed := true }) c.opens }

/-- A push that arrives after this cycle, by the bound of a class (R45, R240). -/
def State.pushLater (s : State) (cls : Nat) (p : Push) : State :=
  s.onCore fun c => { c with gpush := c.gpush ++ [(p, s.cycle, s.cycle + c.bound cls)] }

/-- The rank of a queue's pushes under R296; guarded-off pushes of M and X stand before them, markers after. -/
def queueRank : Nat → Nat
  | 7 => 2 | 4 => 3 | 5 => 4 | 6 => 5 | _ => 6

/-! ### How a word issues (R17, R33, R39, R45, R284 to R288, R337) -/

/-- What a word brings to its issue: its strand, latency class, bytes, lock bit, guard, its push channel if it is
an asynchronous command, whether it may stand in a loop body and be repeated (R285, R287), the slots it takes from here
on (R284), and encoding causes beyond those of its bits, which a guard does not turn off (R45, R51). -/
structure Issue where
  st : Strand
  cls : Nat
  len : Nat := 4
  l : Bool
  g : Option Guard := none
  async : Option Nat := none
  inLoop : Bool := true
  inRpt : Bool := true
  slots : Nat := 1
  enc : List Trap := []

/-- The strands that LOCKMASK names (R39). -/
def Core.inMask (c : Core) (st : Strand) : Bool := (c.csrAt 2).getLsbD st.num

/-- Whether a strand is in the lock after issuing a word with lock bit `l` (R39, R40, R347). -/
def Core.lockAfter (c : Core) (st : Strand) (l : Bool) : Bool :=
  l && c.handler.isNone && ((c.thr.get st).inLock || c.inMask st)

/-- The strand state after one issue slot: repeats and the loop advance, the program counter moves past the word
unless the slot repeats or stays on it (R33, R284, R287, R288). -/
def Thread.advance (t : Thread) (len : Nat) (stay : Bool) : Thread :=
  let t1 := if t.rep > 1 then { t with rep := t.rep - 1 }
    else if stay then t
    else { t with rep := 0, pc := t.pc + len }
  match t1.loop with
  | none => t1
  | some lp =>
    if lp.slot + 1 < lp.n then { t1 with loop := some { lp with slot := lp.slot + 1 } }
    else if lp.trip + 1 < lp.count then
      { t1 with pc := lp.start, loop := some { lp with slot := 0, trip := lp.trip + 1 } }
    else { t1 with loop := none }

/-- Captures the word at the program counter, and its trailing word, in a loop buffer (R284, R286). -/
def Core.capture (c : Core) (t : Thread) (len : Nat) : Thread :=
  match t.loop with
  | none => t
  | some lp =>
    let cap (m : SMap Word32) (off : Nat) : SMap Word32 :=
      if m.any (fun e => e.1 == off / 4) then m
      else (m.takeWhile fun e => decide (e.1 < off / 4)) ++ (off / 4, c.codeAt off)
        :: (m.dropWhile fun e => decide (e.1 < off / 4))
    let m := cap lp.captured t.pc
    let m := if len = 8 then cap m (t.pc + 4) else m
    { t with loop := some { lp with captured := m } }

/-- A word leaves its slot: capture, lock membership, and the next word (R33, R40, R284). -/
def State.advance (s : State) (i : Issue) (stay : Bool := false) : State :=
  s.onCore fun c =>
    let t := c.capture (c.thr.get i.st) i.len
    let t := { t with inLock := c.lockAfter i.st i.l }
    { c with thr := c.thr.set i.st (t.advance i.len stay) }

/-- The causes of a word that depend on where it stands: the loop body rules on the first trip, with the L bit as the
word issues and the body's words counted from its first (R284, R285, R347), and the repeat rule (R287). -/
def State.placeTraps (s : State) (i : Issue) : List Trap :=
  let t := s.core.thr.get i.st
  let inBody := match t.loop with
    | some lp =>
      lp.trip == 0 && (!i.inLoop || lp.l != (i.l && s.core.handler.isNone) || decide (lp.slot + i.slots > lp.n)
        || decide ((t.pc + i.len - lp.start) / 4 > 256))
    | none => false
  if inBody || (decide (t.rep > 0) && !i.inRpt) then [s.operandTrap i.st] else []

/-- The latency-contract cause (R43). -/
def State.contractTraps (s : State) (i : Issue) : List Trap :=
  let b := s.core.bound i.cls
  if b < ownLatency i.cls then [⟨2, info i.st.num (2 ^ 48 * i.cls + 2 ^ 32 * b + ownLatency i.cls)⟩] else []

/-- The cause that comes first in the order of R338: the codes of the causes before issue stand in that order,
and of equal codes the first listed is reported. -/
def firstCause : List Trap → Option Trap
  | [] => none
  | t :: ts => match firstCause ts with
    | some u => if u.code < t.code then some u else some t
    | none => some t

/-- A word at issue. Placement, encoding and contract causes come first; of several illegal-encoding causes of one word
the first in this list is reported (DESIGN CHOICE, log 71). A word whose guard is off does nothing but occupy
its slot and, for an asynchronous command, push later (R45); otherwise its own causes are found, and if there is
none it leaves its slot and has its effect. A cause takes the trap and nothing issues. -/
def State.issue (s : State) (i : Issue) (causes : State → List Trap) (effect : State → State)
    (stay : Bool := false) : Out :=
  let early := s.placeTraps i ++ i.enc ++ s.contractTraps i
  match i.g.map s.guardedOff with
  | some true =>
    match firstCause early with
    | some t => .next (s.takeTrap t)
    | none =>
      let s' := s.advance i
      match i.async with
      | some k => .next (s'.pushLater 15 ⟨pushRank (if i.st = .m then 0 else 1) 0, k, i.st.num, 0xFFFF⟩)
      | none => .next s'
  | _ =>
    match firstCause (early ++ causes s) with
    | some t => .next (s.takeTrap t)
    | none => .next (effect (s.advance i stay))

end Sys2Proof.Machine
end

