-- ==== Sys2Proof/Machine/Codec.lean ====
section
/-! DEFINITION. The crystallizer's codecs and the slot with its chunks (R139 to R145), as functions on bytes. -/

namespace Sys2Proof.Machine

/-! ### CRC-32C (R139) -/

/-- One bit of the reflected code. -/
def crcBit (c : Word32) : Word32 := if c.getLsbD 0 then (c >>> 1) ^^^ 0x82F63B78 else c >>> 1

/-- One byte of the code. -/
def crcByte (c : Word32) (b : Byte) : Word32 :=
  crcBit (crcBit (crcBit (crcBit (crcBit (crcBit (crcBit (crcBit (c ^^^ b.setWidth 32))))))))

/-- CRC-32C. -/
def crc32c (bs : List Byte) : Word32 := ~~~ bs.foldl crcByte 0xFFFFFFFF

/-! ### Slots (R139) -/

/-- The first `n` pieces of `k` bytes. -/
def pieces (k : Nat) : Nat → List Byte → List (List Byte)
  | 0, _ => []
  | n + 1, bs => bs.take k :: pieces k n (bs.drop k)

/-- A slot's capacity. -/
def slotCap (size : Nat) : Nat := size - 4 * ((size + 4095) / 4096)

/-- A slot of a size around a data area: each chunk's bytes and their CRC. -/
def buildSlot (size : Nat) (data : List Byte) : List Byte :=
  let full := data ++ List.replicate (slotCap size - data.length) 0
  ((pieces 4092 ((size + 4095) / 4096) full).map fun p => p ++ toBytes 4 (crc32c p).toNat).flatten

/-- The chunks of a slot. -/
def slotChunks (slot : List Byte) : List (List Byte) := pieces 4096 ((slot.length + 4095) / 4096) slot

/-- A chunk's bytes but for its CRC. -/
def chunkData (c : List Byte) : List Byte := c.take (c.length - 4)

/-- Whether a chunk's CRC does not match. -/
def chunkBad (c : List Byte) : Bool := leNat (c.drop (c.length - 4)) != (crc32c (chunkData c)).toNat

/-- The chunk that holds a byte of the data area. -/
def chunkOf (o : Nat) : Nat := o / 4092

/-! ### Images (R140 to R143) -/

/-- The header of an image of `n` elements (R140). -/
def imageHead (len n : Nat) : List Byte := toBytes 4 len ++ toBytes 4 n

/-- The number whose bit i is the i-th of a list. -/
def maskNat : List Bool → Nat
  | [] => 0
  | b :: bs => (if b then 1 else 0) + 2 * maskNat bs

/-- Whether an element has a bit set. -/
def nonzero (e : List Byte) : Bool := e.any fun b => b != 0

/-- A BMV image (R141). -/
def bmv (es : List (List Byte)) : List Byte :=
  let body := toBytes ((es.length + 7) / 8) (maskNat (es.map nonzero)) ++ (es.filter nonzero).flatten
  imageHead (8 + body.length) es.length ++ body

/-- The bytes after the first of a literal run: up to two zeros in a row (R142). -/
def litTail : Nat → List Byte → Nat
  | 0, _ => 0
  | _, [] => 0
  | k + 1, b :: bs => if b = 0 ∧ bs.head? = some 0 then 0 else 1 + litTail k bs

/-- The canonical encoding of a plane (R142); `fuel` is at least its length. -/
def encPlane : Nat → List Byte → List Byte
  | 0, _ => []
  | _, [] => []
  | fuel + 1, b :: bs =>
    let z := min 128 ((b :: bs).takeWhile fun x => x == 0).length
    if z ≥ 2 then BitVec.ofNat 8 (0x80 + z - 1) :: encPlane fuel ((b :: bs).drop z)
    else
      let n := 1 + litTail 127 bs
      BitVec.ofNat 8 (n - 1) :: (b :: bs).take n ++ encPlane fuel ((b :: bs).drop n)

/-- A PLANE-RUN image (R142) of elements of `k` bytes. -/
def planeRun (k : Nat) (es : List (List Byte)) : List Byte :=
  let plane (b : Nat) : List Byte := es.map fun e => e.getD b 0
  let body := ((List.range k).map fun b => encPlane es.length (plane b)).flatten
  imageHead (8 + body.length) es.length ++ body

/-- The image of elements of `k` bytes under a codec: 0 BMV, 1 PLANE-RUN, 2 RAW. -/
def imageOf (codec k : Nat) (es : List (List Byte)) : List Byte :=
  match codec with
  | 0 => bmv es
  | 1 => planeRun k es
  | _ => es.flatten

/-! ### Decoding (R145) -/

/-- Decodes run tokens: `bs` the bytes left before PLEN, `pos` their place in the data area, `need` bytes left of
the plane, `planes` the planes after it. It gives the planes' bytes, or the place of the damage. -/
def decPlanes (n plen : Nat) : Nat → List Byte → Nat → Nat → Nat → List Byte → Except Nat (List Byte)
  | 0, _, pos, _, _, _ => .error pos
  | fuel + 1, bs, pos, need, planes, acc =>
    if need = 0 then
      if planes = 0 then (if bs = [] then .ok acc else .error pos)
      else decPlanes n plen fuel bs pos n (planes - 1) acc
    else match bs with
      | [] => .error (plen - 1)
      | c :: rest =>
        let run := c.toNat % 128 + 1
        if run > need then .error pos
        else if c.toNat ≥ 128 then
          decPlanes n plen fuel rest (pos + 1) (need - run) planes (acc ++ List.replicate run 0)
        else if rest.length < run then .error (plen - 1)
        else decPlanes n plen fuel (rest.drop run) (pos + 1 + run) (need - run) planes (acc ++ rest.take run)

/-- The elements of a BMV image from its mask and values. -/
def spread (k : Nat) : List Bool → List Byte → List Byte
  | [], _ => []
  | true :: ms, vs => vs.take k ++ spread k ms (vs.drop k)
  | false :: ms, vs => List.replicate k 0 ++ spread k ms vs

/-- A data area without bad chunks, decoded: the element bytes, or the kind and chunk of the list entry. -/
def decodeImage (codec k n cap : Nat) (data : List Byte) : Except (Nat × Nat) (List Byte) :=
  let plen := leNat (data.take 4)
  if leNat ((data.drop 4).take 4) ≠ n ∨ plen < 8 ∨ plen > cap then .error (0, 1)
  else
    let body := (data.take plen).drop 8
    if codec = 0 then
      let mb := (n + 7) / 8
      let mask := leNat ((data.drop 8).take mb)
      let ms := (List.range n).map fun i => bitOf mask i
      if mask ≥ 2 ^ n ∨ plen ≠ 8 + mb + k * (ms.filter id).length then .error (0, 2)
      else .ok (spread k ms (body.drop mb))
    else match decPlanes n plen (plen + k + 1) body 8 n (k - 1) [] with
      | .error o => .error (chunkOf o, 2)
      | .ok ps => .ok ((List.range n).flatMap fun i => (List.range k).map fun b => ps.getD (b * n + i) 0)

/-- A slot unpacked: the element bytes, and the list entries as chunk and kind, in chunk order (R145). -/
def unpackSlot (codec k n : Nat) (slot : List Byte) : List Byte × List (Nat × Nat) :=
  let cs := slotChunks slot
  let bad := (List.range cs.length).filter fun j => chunkBad (cs.getD j [])
  let listed := bad.map fun j => (j, 0)
  let cap := slotCap slot.length
  let data := (cs.map chunkData).flatten
  let zeros := List.replicate (n * k) (0 : Byte)
  if codec = 2 then
    if n * k > cap then (zeros, [(0, 1)])
    else
      let elem (i : Nat) : List Byte :=
        let os := (List.range k).map fun b => k * i + b
        if os.any fun o => bad.contains (chunkOf o) then List.replicate k 0 else os.map fun o => data.getD o 0
      ((List.range n).flatMap elem, listed)
  else if bad ≠ [] then (zeros, listed)
  else match decodeImage codec k n cap data with
    | .ok bs => (bs, [])
    | .error e => (zeros, [e])

end Sys2Proof.Machine
end

