-- ==== Sys2Proof/Machine/Flags.lean ====
section
/-! DEFINITION. Number formats, exact arithmetic and the events it counts (R10, R164 to R173): the D24 has no
flag register; what other machines put in flags are the statistic events computed here. -/

namespace Sys2Proof.Machine

/-- The event of a result: at most one, with the priority NaN, saturation, flush (R169, R178). -/
inductive Ev where
  | none
  | flush
  | sat
  | nan
deriving DecidableEq, Repr

/-- An event's priority. -/
def Ev.rank : Ev → Nat
  | .none => 0 | .flush => 1 | .sat => 2 | .nan => 3

/-- The event of a result with several roundings (R178). -/
def Ev.join (a b : Ev) : Ev := if a.rank < b.rank then b else a

/-- How many of a list of events are of one kind. -/
def countEv (e : Ev) (es : List Ev) : Nat := (es.filter fun x => decide (x = e)).length

/-- A floating-point format (R166). -/
structure Fmt where
  exp : Nat
  frac : Nat
  bias : Nat
deriving DecidableEq, Repr

def fp32 : Fmt := ⟨8, 23, 127⟩
def fp16 : Fmt := ⟨5, 10, 15⟩
def bf16 : Fmt := ⟨8, 7, 127⟩

/-- An exact value: NaN, an infinity, a signed zero, or a non-zero rational `num / den` with `den` positive. -/
inductive FVal where
  | nan
  | inf (neg : Bool)
  | zero (neg : Bool)
  | fin (num : Int) (den : Nat)
deriving DecidableEq, Repr

/-- The exact value of a quotient; an exact zero is +0. -/
def FVal.ofFrac (num : Int) (den : Nat) : FVal := if num = 0 then .zero false else .fin num den

/-- `x * 2^k` of a non-zero number. -/
def scale2 (x : Int) (k : Int) : FVal :=
  if 0 ≤ k then .ofFrac (x * 2 ^ k.toNat) 1 else .ofFrac x (2 ^ (-k).toNat)

/-- The sign bit's factor. -/
def signed (neg : Bool) (x : Nat) : Int := if neg then -(x : Int) else x

/-- VAL(b, F) (R166, R168). -/
def Fmt.val (f : Fmt) (b : Nat) : FVal :=
  let neg := bitOf b (f.exp + f.frac)
  let e := b / 2 ^ f.frac % 2 ^ f.exp
  let m := b % 2 ^ f.frac
  if e = 2 ^ f.exp - 1 then (if m = 0 then .inf neg else .nan)
  else if e = 0 then
    (if m = 0 then .zero neg else scale2 (signed neg m) (1 - (f.bias : Int) - f.frac))
  else scale2 (signed neg (2 ^ f.frac + m)) ((e : Int) - f.bias - f.frac)

/-- The canonical NaN, an infinity, the largest finite value, a zero (R166, R167). -/
def Fmt.nan (f : Fmt) : Nat := (2 ^ f.exp - 1) * 2 ^ f.frac + 2 ^ (f.frac - 1)
def Fmt.sign (f : Fmt) (neg : Bool) : Nat := if neg then 2 ^ (f.exp + f.frac) else 0
def Fmt.inf (f : Fmt) (neg : Bool) : Nat := f.sign neg + (2 ^ f.exp - 1) * 2 ^ f.frac
def Fmt.maxFin (f : Fmt) (neg : Bool) : Nat := f.inf neg - 1

/-- The exponent of a positive quotient: the floor of its base-2 logarithm. -/
def log2Frac (n d : Nat) : Int :=
  let e : Int := (Nat.log2 n : Int) - Nat.log2 d
  let lt := if 0 ≤ e then decide (n < d * 2 ^ e.toNat) else decide (n * 2 ^ (-e).toNat < d)
  if lt then e - 1 else e

/-- A positive quotient rounded to an integer: to nearest with ties to even (0), or toward zero (1). -/
def roundNat (mode n d : Nat) : Nat :=
  let q := n / d
  let r := n % d
  if mode = 1 then q
  else if 2 * r < d then q else if 2 * r > d then q + 1 else if q % 2 = 0 then q else q + 1

/-- A non-zero magnitude `n / d` rounded to a format (R10, R168, R169): the pattern and the event. -/
def Fmt.roundMag (f : Fmt) (mode : Nat) (neg : Bool) (n d : Nat) : Nat × Ev :=
  let e := max (log2Frac n d) (1 - (f.bias : Int))
  let k := e - f.frac
  let q := if 0 ≤ k then roundNat mode n (d * 2 ^ k.toNat) else roundNat mode (n * 2 ^ (-k).toNat) d
  let (e, q) := if q = 2 ^ (f.frac + 1) then (e + 1, 2 ^ f.frac) else (e, q)
  if e > f.bias then (if mode = 1 then f.maxFin neg else f.inf neg, .sat)
  else if q = 0 then (f.sign neg, .flush)
  else if q < 2 ^ f.frac then (f.sign neg + q, .none)
  else (f.sign neg + (e + f.bias).toNat * 2 ^ f.frac + (q - 2 ^ f.frac), .none)

/-- RND(x, F, m) with its event (R168, R169): an infinite or zero value counts none. -/
def Fmt.rnd (f : Fmt) (mode : Nat) : FVal → Nat × Ev
  | .nan => (f.nan, .nan)
  | .inf neg => (f.inf neg, .none)
  | .zero neg => (f.sign neg, .none)
  | .fin num den => f.roundMag mode (decide (num < 0)) num.natAbs den

/-- RNE32 (R10). -/
def rne32 (x : FVal) : Nat × Ev := fp32.rnd 0 x

/-- Whether a value is negative, by its sign. -/
def FVal.neg : FVal → Bool
  | .nan => false
  | .inf n => n
  | .zero n => n
  | .fin num _ => decide (num < 0)

/-- The value with the other sign. -/
def FVal.negate : FVal → FVal
  | .nan => .nan
  | .inf n => .inf !n
  | .zero n => .zero !n
  | .fin num den => .fin (-num) den

/-- Exact sum: IEEE infinities; zeros of one sign keep it, an exact zero of opposite signs is +0 (R167, R208). -/
def FVal.add : FVal → FVal → FVal
  | .nan, _ => .nan
  | _, .nan => .nan
  | .inf a, .inf b => if a = b then .inf a else .nan
  | .inf a, _ => .inf a
  | _, .inf b => .inf b
  | .zero a, .zero b => .zero (a && b)
  | .zero _, y => y
  | x, .zero _ => x
  | .fin a b, .fin c d => .ofFrac (a * d + c * b) (b * d)

/-- Exact product (R208). -/
def FVal.mul : FVal → FVal → FVal
  | .nan, _ => .nan
  | _, .nan => .nan
  | .inf a, .zero _ => let _ := a; .nan
  | .zero _, .inf _ => .nan
  | .inf a, y => .inf (a != y.neg)
  | x, .inf b => .inf (x.neg != b)
  | .zero a, y => .zero (a != y.neg)
  | x, .zero b => .zero (x.neg != b)
  | .fin a b, .fin c d => .ofFrac (a * c) (b * d)

/-- Exact quotient (R215, R217): IEEE 754 for zeros and infinities. -/
def FVal.div : FVal → FVal → FVal
  | .nan, _ => .nan
  | _, .nan => .nan
  | .inf _, .inf _ => .nan
  | .zero _, .zero _ => .nan
  | .inf a, y => .inf (a != y.neg)
  | x, .inf b => .zero (x.neg != b)
  | .zero a, y => .zero (a != y.neg)
  | x, .zero b => .inf (x.neg != b)
  | .fin a b, .fin c d => .ofFrac (if c < 0 then -(a * d) else a * d) (b * c.natAbs)

/-- IEEE comparison by value: less than, equal; both false for a NaN (R196). -/
def FVal.lt : FVal → FVal → Bool
  | .nan, _ => false
  | _, .nan => false
  | .inf a, .inf b => a && !b
  | .inf a, _ => a
  | _, .inf b => !b
  | .zero _, .zero _ => false
  | .zero _, .fin c _ => decide (0 < c)
  | .fin a _, .zero _ => decide (a < 0)
  | .fin a b, .fin c d => decide (a * d < c * b)

def FVal.eqv : FVal → FVal → Bool
  | .nan, _ => false
  | _, .nan => false
  | .inf a, .inf b => a == b
  | .zero _, .zero _ => true
  | .fin a b, .fin c d => a * d == c * b
  | _, _ => false

/-- CVI(x, lo, hi, m) with its event (R168, R169). -/
def cvi (x : FVal) (lo hi : Int) (mode : Nat) : Int × Ev :=
  match x with
  | .nan => (0, .nan)
  | .inf neg => (if neg then lo else hi, .sat)
  | .zero _ => if lo > 0 then (lo, .sat) else (0, .none)
  | .fin num den =>
    let r := signed (decide (num < 0)) (roundNat mode num.natAbs den)
    if r < lo then (lo, .sat) else if r > hi then (hi, .sat) else (r, if r = 0 then .flush else .none)

/-- SAT with the event of a clamp (R10, R165). -/
def satInt (x lo hi : Int) : Int × Ev := if x < lo then (lo, .sat) else if x > hi then (hi, .sat) else (x, .none)

/-! ### MX codes (R170 to R173) -/

/-- The FMT codes: 0 MXINT8, 1 MXINT6, 2 MXINT4, 3 HS4; the code's width. -/
def mxWidth (fmt : Nat) : Nat := if fmt = 0 then 8 else if fmt = 1 then 6 else 4

/-- The element value of a code (R171), as a numerator over 64. -/
def mxValue64 (fmt code : Nat) : Int :=
  match fmt with
  | 0 => sext code 8
  | 1 => sext code 6 * 4
  | 2 => sext code 4 * 16
  | _ => (2 * sext code 4 + 1) * 8

/-- An exact value times a power of two. -/
def FVal.scale (x : FVal) (k : Int) : FVal :=
  match x with
  | .fin num den => if 0 ≤ k then .fin (num * 2 ^ k.toNat) den else .fin num (den * 2 ^ (-k).toNat)
  | y => y

/-- Drops the flush event, which HS4 never has (R169). -/
def Ev.noFlush (e : Ev) : Ev := if e = .flush then .none else e

/-- Conversion of `y = x / s` to a code with its event (R173). -/
def mxCode (fmt mode : Nat) (y : FVal) : Int × Ev :=
  match fmt with
  | 0 => cvi (y.scale 6) (-127) 127 mode
  | 1 => cvi (y.scale 4) (-31) 31 mode
  | 2 => cvi (y.scale 2) (-7) 7 mode
  | _ =>
    if mode = 0 then
      let r := cvi ((y.scale 2).add (.fin (-1) 2)) (-8) 7 0
      (r.1, r.2.noFlush)
    else
      match y with
      | .nan => (0, .nan)
      | .inf neg => (if neg then -8 else 7, .sat)
      | .zero _ => (0, .none)
      | .fin num den =>
        -- the largest |value| (2m + 1) / 8 not above |y|; below 1/8 the code of the smallest value of that sign
        let m := if num.natAbs * 8 < den then 0 else (num.natAbs * 8 / den - 1) / 2
        let e : Ev := if num.natAbs * 8 ≥ 17 * den then .sat else .none
        let m := min m 7
        (if num < 0 then -(m : Int) - 1 else m, e)

/-! ### Correctly rounded special functions (R214)

A value that is not rational is rounded from a lower bound less than 2^-300 below it. No FP32 operand has its value within
2^-60 of a rounding boundary of a format, relative to the value, but for values just above or below an exact one, which
the bounds tell from it (log 21): value and bound round alike. -/

/-- Fraction bits of the bounds. -/
def fixP : Nat := 320

/-- A lower bound of twice the sum of `z^(2i+1) / (2i+1)` over `n` terms, with `z = a / b`, in units of 2^-320:
each term's error is below one unit. -/
def atanhLow (a b : Nat) : Nat → Nat
  | 0 => 0
  | n + 1 => 2 * (a ^ (2 * n + 1) * 2 ^ fixP / (b ^ (2 * n + 1) * (2 * n + 1))) + atanhLow a b n

/-- ln 2 in units of 2^-320: between this and this plus 500. -/
def ln2Low : Nat := atanhLow 1 3 110

/-- The terms of the exponential series in units of 2^-320, each rounded down, from term `i`. -/
def expTerms (r : Nat) : Nat → Nat → Nat → Nat
  | 0, _, t => t
  | n + 1, i, t => t + expTerms r n (i + 1) (t * r / (i * 2 ^ fixP))

/-- A lower bound of e^r, for `r` in units of 2^-320 below 1. -/
def expLow (r : Nat) : Nat := expTerms r 110 1 (2 ^ fixP)

/-- The value of a bound in units of 2^-320, times 2^k. -/
def fixVal (x : Nat) (k : Int) : FVal := scale2 x (k - fixP)

/-- 2^x for a non-zero rational (R214). -/
def exp2Round (f : Fmt) (mode : Nat) (num : Int) (den : Nat) : Nat × Ev :=
  let k := num / den
  let fr := (num % den).toNat
  if k ≥ 200 then f.rnd mode (scale2 1 200)
  else if k < -400 then f.rnd mode (scale2 1 (-400))
  else if fr = 0 then f.rnd mode (scale2 1 k)
  else f.rnd mode (fixVal (expLow (fr * ln2Low / den)) k)

/-- log2 of a positive rational (R214). -/
def log2Round (f : Fmt) (mode : Nat) (n d : Nat) : Nat × Ev :=
  let e := log2Frac n d
  let (a, b) := if 0 ≤ e then (n, d * 2 ^ e.toNat) else (n * 2 ^ (-e).toNat, d)
  if a = b then f.rnd mode (scale2 e 0)
  else
    let low : Int := atanhLow (a - b) (a + b) 110 * 2 ^ fixP / (ln2Low + 500)
    f.rnd mode (scale2 (e * 2 ^ fixP + low) (-fixP))

/-- The integer square root, bit by bit from bit `k - 1` down. -/
def isqrtFrom (n : Nat) : Nat → Nat → Nat
  | 0, r => r
  | k + 1, r => isqrtFrom n k (if (r + 2 ^ k) ^ 2 ≤ n then r + 2 ^ k else r)

/-- 1 / sqrt of a positive rational (R214). No rounding boundary lies strictly between two units of 2^-320, so the
midpoint stands for an inexact root. -/
def rsqrtRound (f : Fmt) (mode : Nat) (n d : Nat) : Nat × Ev :=
  let y := d * 2 ^ (2 * fixP) / n
  let q := isqrtFrom y (Nat.log2 y / 2 + 1) 0
  if q * q * n = d * 2 ^ (2 * fixP) then f.rnd mode (fixVal q 0)
  else f.rnd mode (.fin (2 * q + 1) (2 ^ (fixP + 1)))

/-- tanh of a non-zero rational (R214). -/
def tanhRound (f : Fmt) (mode : Nat) (num : Int) (den : Nat) : Nat × Ev :=
  let neg := decide (num < 0)
  let n := num.natAbs
  let low : FVal :=
    if n ≥ 64 * den then .fin (2 ^ 101 - 1) (2 ^ 101)
    else if n * 2 ^ 20 < den then .fin (3 * (n : Int) * den ^ 2 - (n : Int) ^ 3) (3 * den ^ 3) -- x - x^3/3
    else
      let y := 2 * n * 2 ^ fixP
      let k := y / (den * ln2Low)
      let b := expLow (y / den - k * (ln2Low + 500)) * 2 ^ k
      .fin ((b : Int) - 2 ^ fixP) (b + 2 ^ fixP)
  f.rnd mode (if neg then low.negate else low)

end Sys2Proof.Machine
end

