-- ==== Sys2Proof/Machine/Operands.lean ====
section
/-! DEFINITION. The operand forms of the V strand (R36, R159, R164, R183 to R189): the shape word, lanes, groups of
registers, and how a vector result is put together from its lanes. -/

namespace Sys2Proof.Machine

/-- VSHAPE as a V instruction uses it (R183), with its guard predicate read at issue (R185). -/
structure Shape where
  ty : Nat
  merge : Bool
  rnd : Nat
  sat : Bool
  tid : Nat
  guard : Nat

/-- Lane width in bits by TYPE (R184); 0 for a reserved code. -/
def laneWidth (ty : Nat) : Nat :=
  match ty with
  | 0 => 8 | 1 => 8 | 2 => 16 | 3 => 16 | 4 => 32 | 5 => 32 | 6 => 4 | 7 => 4 | 8 => 32 | 9 => 16 | 10 => 16 | _ => 0

/-- Lane count (R164). -/
def laneCount (ty : Nat) : Nat := if laneWidth ty = 0 then 0 else 4096 / laneWidth ty

/-- Whether a TYPE is an integer type, a signed one, a floating one (R184). -/
def isInt (ty : Nat) : Bool := decide (ty ≤ 7)
def isSigned (ty : Nat) : Bool := isInt ty && ty % 2 == 0
def isFp (ty : Nat) : Bool := decide (8 ≤ ty) && decide (ty ≤ 10)

/-- The format of a floating type. -/
def fmtOf (ty : Nat) : Fmt := if ty = 8 then fp32 else if ty = 9 then fp16 else bf16

/-- The bounds of an integer type (R164). -/
def tyLo (ty : Nat) : Int := if isSigned ty then -(2 ^ (laneWidth ty - 1)) else 0
def tyHi (ty : Nat) : Int := if isSigned ty then 2 ^ (laneWidth ty - 1) - 1 else 2 ^ laneWidth ty - 1

/-- A lane read as its type has it: SEXT or ZEXT (R192). -/
def laneInt (ty b : Nat) : Int := if isSigned ty then sext b (laneWidth ty) else (b % 2 ^ laneWidth ty : Nat)

/-- The shape in force for a word issuing now. -/
def State.shape (s : State) : Shape :=
  let w := s.vshape
  { ty := bits w 3 0
    merge := bitOf w 8
    rnd := bits w 10 9
    sat := bitOf w 11
    tid := bits w 23 12
    guard := (s.readP 14 (bits w 7 4)).toNat }

/-- Whether a lane is enabled (R185). -/
def Shape.on (h : Shape) (l : Nat) : Bool := bitOf h.guard l

/-- Lane `l` of width `w` of a register pattern (R164): the 4-bit lanes fall in nibble order. -/
def laneAt (w v l : Nat) : Nat := v / 2 ^ (w * l) % 2 ^ w

/-- A pattern from its lanes, lane 0 lowest. -/
def packFrom (w : Nat) (f : Nat → Nat) : Nat → Nat → Nat
  | 0, _ => 0
  | n + 1, l => f l % 2 ^ w + 2 ^ w * packFrom w f n (l + 1)
def packLanes (w n : Nat) (f : Nat → Nat) : Nat := packFrom w f n 0

/-- The names of a group (R188, R189). -/
def groupOf (base k : Nat) : List Nat := (List.range k).map (base + ·)

/-- The issue of a V word: never guarded off as a whole (R36). -/
def vi (cls : Nat) (l : Bool) : Issue := { st := .v, cls := cls, l := l }

/-- The causes of a V word: its type (COND 6), a group beyond v255 (COND 7), the rounding mode and other operand
conditions (COND 9), then the domains it uses and those of each physical register it names (R51, R61, R168,
R191, R207). -/
def State.vTrapsIn (s : State) (okType okOper : Bool) (doms names : List Nat) : List Trap :=
  (if okType then [] else [s.illegal .v 6])
  ++ (if names.all (fun n => decide (n < 256)) then [] else [s.illegal .v 7])
  ++ (if okOper then [] else [s.operandTrap .v])
  ++ s.useDoms .v (doms ++ names.map fun n => vbDom (s.phys n))

/-- The same for a word whose only other domain is its unit. -/
def State.vTraps (s : State) (okType okOper : Bool) (unit : Nat) (names : List Nat) : List Trap :=
  s.vTrapsIn okType okOper [unit] names

/-- Element `l` of a group of registers with elements of `w` bits (R188), each register as read at issue. -/
def State.groupLane (s : State) (port base w l : Nat) : Nat :=
  let per := 4096 / w
  laneAt w (s.readV port (s.phys (base + l / per))).toNat (l % per)

/-- A register of a result: enabled lanes take theirs, disabled lanes keep or are zeroed (R185, R188). -/
def State.resultReg (s : State) (h : Shape) (base w j : Nat) (f : Nat → Nat) : Nat :=
  let per := 4096 / w
  let old := if h.merge then (s.readV 13 (s.phys (base + j))).toNat else 0
  packLanes w per fun k =>
    let l := j * per + k
    if h.on l then f l else laneAt w old k

/-- The events of the enabled lanes. -/
def Shape.events (h : Shape) (n : Nat) (f : Nat → Ev) : List Ev :=
  ((List.range n).filter fun l => h.on l).map f

/-- Counts events under the shape's tensor id, at the landing (R178, R179). -/
def State.countEvs (s : State) (tid : Nat) (es : List Ev) (due : Nat) : State :=
  s.countAt tid (countEv .sat es) (countEv .flush es) (countEv .nan es) due

/-- Writes a vector result of `n` elements of `w` bits to the group at a name, and counts its events. `s` is the
state at issue, `s'` the state that takes the effect. -/
def State.putLanes (s' s : State) (cls : Nat) (h : Shape) (base w n : Nat) (f : Nat → Nat × Ev) : State :=
  let regs := n * w / 4096
  let s' := (List.range regs).foldl
    (fun s' j => s'.landV cls (s.phys (base + j)) (s.resultReg h base w j fun l => (f l).1)) s'
  s'.countEvs h.tid (h.events n fun l => (f l).2) (s.cycle + s.core.bound cls)

/-- An integer result delivered under SAT: wrapped, or clamped with an event (R165). -/
def deliver (h : Shape) (ty : Nat) (x : Int) : Nat × Ev :=
  if h.sat then
    let r := satInt x (tyLo ty) (tyHi ty)
    (patOf (laneWidth ty) r.1, r.2)
  else (patOf (laneWidth ty) x, .none)

end Sys2Proof.Machine
end

