-- ==== Sys2Proof/WellFormed.lean ====
section
/-! DEFINITION. Which instructions are well formed: every field within the width its format gives it
(R35 to R38), and every value one its entry permits (R46 to R51). Steps without a word are well formed
when they name a die, a pan, a domain, an AQI that exists. -/

namespace Sys2Proof

/-- A guard names p0 to p7 (R35). -/
def Guard.wf (g : Guard) : Bool := decide (g.p < 8)

/-- A token word's fields are channels, 15 in a pop field naming none (R38). -/
def Tok.wf (t : Tok) : Bool :=
  decide (t.push < 16) && decide (t.popA < 16) && decide (t.popB < 16) && decide (t.popC < 16)

/-- The token word of `replay` names no pop channel (R136). -/
def Tok.wfReplay (t : Tok) : Bool :=
  decide (t.push < 16) && decide (t.popA = 15) && decide (t.popB = 15) && decide (t.popC = 15)

/-- The selectors of the control register map (R161). -/
def csrKnown (sel : Nat) : Bool :=
  decide (sel ≤ 4) || decide (sel = 8) || decide (sel = 9) || decide (sel = 10)
    || (decide (12 ≤ sel) && decide (sel ≤ 0x23)) || (decide (0x28 ≤ sel) && decide (sel ≤ 0x2B))
    || decide (sel = 0x30) || (decide (0x40 ≤ sel) && decide (sel ≤ 0x4F))

/-- The selectors whose write has a row of its own: LOCKMASK, TRAPVEC, VWB, TWIST, VSHAPE, CZLIST, AMAX. -/
def csrOwnRow (sel : Nat) : Bool :=
  decide (sel = 2) || decide (sel = 10) || (decide (0x28 ≤ sel) && decide (sel ≤ 0x2A))
    || decide (sel = 0x30) || (decide (0x40 ≤ sel) && decide (sel ≤ 0x4F))

/-- The selectors of the row CSRW: known, and without a row of their own. -/
def csrPlain (sel : Nat) : Bool := csrKnown sel && !csrOwnRow sel

/-- A management write is to an AQI's page; a packet of a request's row names that request or none that R382 lists. -/
def mgmtOk (m : Mgmt) (row : Nat) : Bool := decide (m.aqi < 4096) && (decide (m.bytes ≠ 64) || m.mop == row || !mopListed m.mop)

/-- LEN of a flit is its payload's (R388). -/
def flitOk (f : Flit) : Bool := f.payload.length == 8 * f.len

/-- Every field within its format, every value permitted by its entry. -/
def Instr.wf : Instr → Bool
  | .add _ sd sa sb g => decide (sd < 64) && decide (sa < 64) && decide (sb < 64) && g.wf
  | .sub _ sd sa sb g => decide (sd < 64) && decide (sa < 64) && decide (sb < 64) && g.wf
  | .and _ sd sa sb g => decide (sd < 64) && decide (sa < 64) && decide (sb < 64) && g.wf
  | .or _ sd sa sb g => decide (sd < 64) && decide (sa < 64) && decide (sb < 64) && g.wf
  | .xor _ sd sa sb g => decide (sd < 64) && decide (sa < 64) && decide (sb < 64) && g.wf
  | .andn _ sd sa sb g => decide (sd < 64) && decide (sa < 64) && decide (sb < 64) && g.wf
  | .shl _ sd sa sb g => decide (sd < 64) && decide (sa < 64) && decide (sb < 64) && g.wf
  | .shr _ sd sa sb g => decide (sd < 64) && decide (sa < 64) && decide (sb < 64) && g.wf
  | .sar _ sd sa sb g => decide (sd < 64) && decide (sa < 64) && decide (sb < 64) && g.wf
  | .min _ sd sa sb g => decide (sd < 64) && decide (sa < 64) && decide (sb < 64) && g.wf
  | .max _ sd sa sb g => decide (sd < 64) && decide (sa < 64) && decide (sb < 64) && g.wf
  | .minu _ sd sa sb g => decide (sd < 64) && decide (sa < 64) && decide (sb < 64) && g.wf
  | .maxu _ sd sa sb g => decide (sd < 64) && decide (sa < 64) && decide (sb < 64) && g.wf
  | .clz _ sd sa g => decide (sd < 64) && decide (sa < 64) && g.wf
  | .ctz _ sd sa g => decide (sd < 64) && decide (sa < 64) && g.wf
  | .popc _ sd sa g => decide (sd < 64) && decide (sa < 64) && g.wf
  | .mul _ sd sa sb g => decide (sd < 64) && decide (sa < 64) && decide (sb < 64) && g.wf
  | .mulh _ sd sa sb g => decide (sd < 64) && decide (sa < 64) && decide (sb < 64) && g.wf
  | .mulhu _ sd sa sb g => decide (sd < 64) && decide (sa < 64) && decide (sb < 64) && g.wf
  | .div _ sd sa sb g => decide (sd < 64) && decide (sa < 64) && decide (sb < 64) && g.wf
  | .divu _ sd sa sb g => decide (sd < 64) && decide (sa < 64) && decide (sb < 64) && g.wf
  | .rem _ sd sa sb g => decide (sd < 64) && decide (sa < 64) && decide (sb < 64) && g.wf
  | .remu _ sd sa sb g => decide (sd < 64) && decide (sa < 64) && decide (sb < 64) && g.wf
  | .cmpEq _ pd sa sb g => decide (pd < 16) && decide (sa < 64) && decide (sb < 64) && g.wf
  | .cmpNe _ pd sa sb g => decide (pd < 16) && decide (sa < 64) && decide (sb < 64) && g.wf
  | .cmpLt _ pd sa sb g => decide (pd < 16) && decide (sa < 64) && decide (sb < 64) && g.wf
  | .cmpLtu _ pd sa sb g => decide (pd < 16) && decide (sa < 64) && decide (sb < 64) && g.wf
  | .cmpLe _ pd sa sb g => decide (pd < 16) && decide (sa < 64) && decide (sb < 64) && g.wf
  | .cmpLeu _ pd sa sb g => decide (pd < 16) && decide (sa < 64) && decide (sb < 64) && g.wf
  | .pand _ pd pa pb g => decide (pd < 16) && decide (pa < 16) && decide (pb < 16) && g.wf
  | .por _ pd pa pb g => decide (pd < 16) && decide (pa < 16) && decide (pb < 16) && g.wf
  | .pxor _ pd pa pb g => decide (pd < 16) && decide (pa < 16) && decide (pb < 16) && g.wf
  | .pnot _ pd pa g => decide (pd < 16) && decide (pa < 16) && g.wf
  | .sel _ sd sa sb g => decide (sd < 64) && decide (sa < 64) && decide (sb < 64) && g.wf
  | .wake _ sa g => decide (sa < 64) && g.wf
  | .sleep _ sa g => decide (sa < 64) && g.wf
  | .retain _ sa g => decide (sa < 64) && g.wf
  | .pwait _ sa g => decide (sa < 64) && g.wf
  | .addi _ sd sa imm => decide (sd < 64) && decide (sa < 64) && decide (imm < 8192)
  | .andi _ sd sa imm => decide (sd < 64) && decide (sa < 64) && decide (imm < 8192)
  | .ori _ sd sa imm => decide (sd < 64) && decide (sa < 64) && decide (imm < 8192)
  | .xori _ sd sa imm => decide (sd < 64) && decide (sa < 64) && decide (imm < 8192)
  | .shli _ sd sa k => decide (sd < 64) && decide (sa < 64) && decide (k < 64)
  | .shri _ sd sa k => decide (sd < 64) && decide (sa < 64) && decide (k < 64)
  | .sari _ sd sa k => decide (sd < 64) && decide (sa < 64) && decide (k < 64)
  | .lea _ sd sa imm => decide (sd < 64) && decide (sa < 64) && decide (imm < 8192)
  | .ldB _ sd sa imm => decide (sd < 64) && decide (sa < 64) && decide (imm < 8192)
  | .ldH _ sd sa imm => decide (sd < 64) && decide (sa < 64) && decide (imm < 8192)
  | .ldW _ sd sa imm => decide (sd < 64) && decide (sa < 64) && decide (imm < 8192)
  | .ldD _ sd sa imm => decide (sd < 64) && decide (sa < 64) && decide (imm < 8192)
  | .stB _ sd sa imm => decide (sd < 64) && decide (sa < 64) && decide (imm < 8192)
  | .stH _ sd sa imm => decide (sd < 64) && decide (sa < 64) && decide (imm < 8192)
  | .stW _ sd sa imm => decide (sd < 64) && decide (sa < 64) && decide (imm < 8192)
  | .stD _ sd sa imm => decide (sd < 64) && decide (sa < 64) && decide (imm < 8192)
  | .lit _ sd g v32 => decide (sd < 64) && g.wf && decide (v32 < 4294967296)
  | .litHi _ sd sa g v32 => decide (sd < 64) && decide (sa < 64) && g.wf && decide (v32 < 4294967296)
  | .br _ p _ off => decide (p < 16) && decide (off < 1048576)
  | .jmp _ off => decide (off < 1048576)
  | .call _ off => decide (off < 1048576)
  | .loop _ countM1 nM1 => decide (countM1 < 4096) && decide (nM1 < 256)
  | .rpt _ countM1 => decide (countM1 < 4096)
  | .gap _ countM1 => decide (countM1 < 4096)
  | .trap _ code => decide (code < 8192)
  | .csrr _ sd csr => decide (sd < 64) && csrKnown csr
  | .csrw _ sa csr => decide (sa < 64) && csrPlain csr
  | .csrwLockmask _ sa => decide (sa < 64)
  | .csrwTrapvec _ sa => decide (sa < 64)
  | .csrwVwb _ sa => decide (sa < 64)
  | .csrwTwist _ sa => decide (sa < 64)
  | .csrwVshape _ sa => decide (sa < 64)
  | .csrwCzlist _ sa => decide (sa < 64)
  | .csrwAmax _ sa m => decide (sa < 64) && decide (m < 16)
  | .ret _ => true
  | .markR _ => true
  | .eret _ => true
  | .eretR _ => true
  | .done _ => true
  | .waitK _ k => decide (k < 16)
  | .qmark _ => true
  | .pmark _ sa => decide (sa < 64)
  | .realign _ n => decide (n < 17)
  | .unalign _ => true
  | .barArr _ sa => decide (sa < 64)
  | .barWait _ sa => decide (sa < 64)
  | .vadd _ vd va vb => decide (vd < 256) && decide (va < 256) && decide (vb < 256)
  | .vsub _ vd va vb => decide (vd < 256) && decide (va < 256) && decide (vb < 256)
  | .vmul _ vd va vb => decide (vd < 256) && decide (va < 256) && decide (vb < 256)
  | .vmulh _ vd va vb => decide (vd < 256) && decide (va < 256) && decide (vb < 256)
  | .vmulhu _ vd va vb => decide (vd < 256) && decide (va < 256) && decide (vb < 256)
  | .vmla _ vd va vb => decide (vd < 256) && decide (va < 256) && decide (vb < 256)
  | .vmin _ vd va vb => decide (vd < 256) && decide (va < 256) && decide (vb < 256)
  | .vmax _ vd va vb => decide (vd < 256) && decide (va < 256) && decide (vb < 256)
  | .vabs _ vd va => decide (vd < 256) && decide (va < 256)
  | .vneg _ vd va => decide (vd < 256) && decide (va < 256)
  | .vand _ vd va vb => decide (vd < 256) && decide (va < 256) && decide (vb < 256)
  | .vor _ vd va vb => decide (vd < 256) && decide (va < 256) && decide (vb < 256)
  | .vxor _ vd va vb => decide (vd < 256) && decide (va < 256) && decide (vb < 256)
  | .vandn _ vd va vb => decide (vd < 256) && decide (va < 256) && decide (vb < 256)
  | .vpopc _ vd va => decide (vd < 256) && decide (va < 256)
  | .vshl _ vd va vb => decide (vd < 256) && decide (va < 256) && decide (vb < 256)
  | .vshr _ vd va vb => decide (vd < 256) && decide (va < 256) && decide (vb < 256)
  | .vsar _ vd va vb => decide (vd < 256) && decide (va < 256) && decide (vb < 256)
  | .vsel _ vd va vb => decide (vd < 256) && decide (va < 256) && decide (vb < 256)
  | .vmov _ vd va => decide (vd < 256) && decide (va < 256)
  | .vbcast _ vd sa => decide (vd < 256) && decide (sa < 64)
  | .vperm _ vd va vb => decide (vd < 256) && decide (va < 256) && decide (vb < 256)
  | .vli _ vd imm => decide (vd < 256) && decide (imm < 256)
  | .vcmpEq _ pd va vb => decide (pd < 16) && decide (va < 256) && decide (vb < 256)
  | .vcmpNe _ pd va vb => decide (pd < 16) && decide (va < 256) && decide (vb < 256)
  | .vcmpLt _ pd va vb => decide (pd < 16) && decide (va < 256) && decide (vb < 256)
  | .vcmpLtu _ pd va vb => decide (pd < 16) && decide (va < 256) && decide (vb < 256)
  | .vcmpLe _ pd va vb => decide (pd < 16) && decide (va < 256) && decide (vb < 256)
  | .vcmpLeu _ pd va vb => decide (pd < 16) && decide (va < 256) && decide (vb < 256)
  | .vredAdd _ vd va => decide (vd < 256) && decide (va < 256)
  | .vredMax _ vd va => decide (vd < 256) && decide (va < 256)
  | .vredMin _ vd va => decide (vd < 256) && decide (va < 256)
  | .vwmul _ vd va vb => decide (vd < 256) && decide (va < 256) && decide (vb < 256)
  | .vwadd _ vd va vb => decide (vd < 256) && decide (va < 256) && decide (vb < 256)
  | .vnarrow _ vd va => decide (vd < 256) && decide (va < 256)
  | .vld _ v sa imm => decide (v < 256) && decide (sa < 64) && decide (imm < 1024)
  | .vst _ v sa imm => decide (v < 256) && decide (sa < 64) && decide (imm < 1024)
  | .vldx _ vd va => decide (vd < 256) && decide (va < 256)
  | .vstx _ vd va => decide (vd < 256) && decide (va < 256)
  | .vamoOr _ vd va vb => decide (vd < 256) && decide (va < 256) && decide (vb < 256)
  | .vamoAdd _ vd va vb => decide (vd < 256) && decide (va < 256) && decide (vb < 256)
  | .vamoMin _ vd va vb => decide (vd < 256) && decide (va < 256) && decide (vb < 256)
  | .vamoMax _ vd va vb => decide (vd < 256) && decide (va < 256) && decide (vb < 256)
  | .vshape _ sa => decide (sa < 64)
  | .vwin _ sa imm => decide (sa < 64) && decide (imm < 1024)
  | .vrot _ => true
  | .vfadd _ vd va vb => decide (vd < 256) && decide (va < 256) && decide (vb < 256)
  | .vfsub _ vd va vb => decide (vd < 256) && decide (va < 256) && decide (vb < 256)
  | .vfmul _ vd va vb => decide (vd < 256) && decide (va < 256) && decide (vb < 256)
  | .vfma _ vd va vb => decide (vd < 256) && decide (va < 256) && decide (vb < 256)
  | .vfmin _ vd va vb => decide (vd < 256) && decide (va < 256) && decide (vb < 256)
  | .vfmax _ vd va vb => decide (vd < 256) && decide (va < 256) && decide (vb < 256)
  | .vcvt _ vd va t => decide (vd < 256) && decide (va < 256) && decide (t < 16)
  | .vcvtMx _ vd va h amx fmt => decide (vd < 256) && decide (va < 256) && decide (h < 2) && decide (amx < 16) && decide (fmt < 4)
  | .vexp2 _ vd va => decide (vd < 256) && decide (va < 256)
  | .vlog2 _ vd va => decide (vd < 256) && decide (va < 256)
  | .vrcp _ vd va => decide (vd < 256) && decide (va < 256)
  | .vrsqrt _ vd va => decide (vd < 256) && decide (va < 256)
  | .vtanh _ vd va => decide (vd < 256) && decide (va < 256)
  | .vwfUpd _ vd va vb => decide (vd < 256) && decide (va < 256) && decide (vb < 256)
  | .vwfMrg _ vd va vb => decide (vd < 256) && decide (va < 256) && decide (vb < 256)
  | .rowmax _ v sa => decide (v < 256) && decide (sa < 64)
  | .rowexp _ v sa vc => decide (v < 256) && decide (sa < 64) && decide (vc < 256)
  | .rowscl _ v sa => decide (v < 256) && decide (sa < 64)
  | .mcfg _ sa g => decide (sa < 64) && g.wf
  | .mstream _ q sa g => decide (q < 16) && decide (sa < 64) && g.wf
  | .mnest _ n sa g => decide (n < 7) && decide (sa < 64) && g.wf
  | .mgo _ g t => g.wf && t.wf
  | .mdrain _ g => g.wf
  | .mzero _ tile g => decide (tile < 8) && g.wf
  | .mgang _ mode g => decide (mode < 4) && g.wf
  | .mstat _ c sa sb g => decide (c < 3) && decide (sa < 64) && decide (sb < 64) && g.wf
  | .gset _ sa g => decide (sa < 64) && g.wf
  | .gev _ sa g => decide (sa < 64) && g.wf
  | .gout _ sa sb g => decide (sa < 64) && decide (sb < 64) && g.wf
  | .gstat _ c sb g => decide (c < 4) && decide (sb < 64) && g.wf
  | .xcopy _ xa xb xc g t => decide (xa < 64) && decide (xb < 64) && decide (xc < 64) && g.wf && t.wf
  | .xblk _ xa xb xc g t => decide (xa < 64) && decide (xb < 64) && decide (xc < 64) && g.wf && t.wf
  | .xpak _ xa xb xc g t => decide (xa < 64) && decide (xb < 64) && decide (xc < 64) && g.wf && t.wf
  | .xunp _ xa xb xc g t => decide (xa < 64) && decide (xb < 64) && decide (xc < 64) && g.wf && t.wf
  | .xfld _ xa xb w g t => decide (xa < 64) && decide (xb < 64) && decide (w < 4) && g.wf && t.wf
  | .xfst _ xa xb w g t => decide (xa < 64) && decide (xb < 64) && decide (w < 4) && g.wf && t.wf
  | .xamoAdd _ xa xb xc g t => decide (xa < 64) && decide (xb < 64) && decide (xc < 64) && g.wf && t.wf
  | .xamoAnd _ xa xb xc g t => decide (xa < 64) && decide (xb < 64) && decide (xc < 64) && g.wf && t.wf
  | .xamoOr _ xa xb xc g t => decide (xa < 64) && decide (xb < 64) && decide (xc < 64) && g.wf && t.wf
  | .xamoXor _ xa xb xc g t => decide (xa < 64) && decide (xb < 64) && decide (xc < 64) && g.wf && t.wf
  | .xamoMin _ xa xb xc g t => decide (xa < 64) && decide (xb < 64) && decide (xc < 64) && g.wf && t.wf
  | .xamoMax _ xa xb xc g t => decide (xa < 64) && decide (xb < 64) && decide (xc < 64) && g.wf && t.wf
  | .xamoMinu _ xa xb xc g t => decide (xa < 64) && decide (xb < 64) && decide (xc < 64) && g.wf && t.wf
  | .xamoMaxu _ xa xb xc g t => decide (xa < 64) && decide (xb < 64) && decide (xc < 64) && g.wf && t.wf
  | .xvamoOr _ v xa xb g t => decide (v < 256) && decide (xa < 64) && decide (xb < 64) && g.wf && t.wf
  | .xvamoAdd _ v xa xb g t => decide (v < 256) && decide (xa < 64) && decide (xb < 64) && g.wf && t.wf
  | .xvamoMin _ v xa xb g t => decide (v < 256) && decide (xa < 64) && decide (xb < 64) && g.wf && t.wf
  | .xvamoMax _ v xa xb g t => decide (v < 256) && decide (xa < 64) && decide (xb < 64) && g.wf && t.wf
  | .ownLend _ xa xb xc g t => decide (xa < 64) && decide (xb < 64) && decide (xc < 64) && g.wf && t.wf
  | .ownRet _ xa g t => decide (xa < 64) && g.wf && t.wf
  | .ownSplit _ xa g t => decide (xa < 64) && g.wf && t.wf
  | .ownJoin _ xa g t => decide (xa < 64) && g.wf && t.wf
  | .ownQuery _ xa xb g t => decide (xa < 64) && decide (xb < 64) && g.wf && t.wf
  | .ownReclaim _ xa xb g t => decide (xa < 64) && decide (xb < 64) && g.wf && t.wf
  | .send _ tag xa xb g => decide (tag < 256) && decide (xa < 64) && decide (xb < 64) && g.wf
  | .recv _ tag xa xb g => decide (tag < 256) && decide (xa < 64) && decide (xb < 64) && g.wf
  | .ovl _ xa xb xc g t => decide (xa < 64) && decide (xb < 64) && decide (xc < 64) && g.wf && t.wf
  | .replay _ g t => g.wf && t.wfReplay
  | .resultLanding _ => true
  | .lockEntryRelease => true
  | .domainWakeComplete d _ => decide (d < 26)
  | .domainGating d => decide (d < 26)
  | .inrushRefill => true
  | .queueCommandBegin _ => true
  | .farAccessAtHome _ _ _ => true
  | .commandCompletion _ => true
  | .guardedOffPush _ => true
  | .waitKTokenTake => true
  | .ownershipQueueExecute => true
  | .crystallizerDispatch => true
  | .czIdleOff die pan => decide (die < 24) && decide (pan < 8)
  | .vaultSubbankWake die pan bank _ => decide (die < 24) && decide (pan < 8) && decide (bank < 8)
  | .vaultSubbankSleep die pan bank _ => decide (die < 24) && decide (pan < 8) && decide (bank < 8)
  | .backgroundScrub _ => true
  | .nestStart => true
  | .nestCompletion => true
  | .grammarRuleEvaluation => true
  | .gevCompletion => true
  | .rowPassCompletion _ => true
  | .phaseEnd _ => true
  | .alignedRegionBegin => true
  | .alignedRegionTimeout => true
  | .sendDelivery => true
  | .barrierEpisodeComplete _ _ => true
  | .sluiceResume => true
  | .impreciseTrapTaken => true
  | .watchdogExpiry => true
  | .dumpWrite _ => true
  | .teamRetire _ => true
  | .preemption _ _ => true
  | .contextSave _ => true
  | .contextRestore _ _ => true
  | .requestSubmit aqi _ _ _ => decide (aqi < 4096)
  | .launchStart _ => true
  | .cohortStart _ => true
  | .transferNodeStart _ => true
  | .transformNodeStart _ => true
  | .signalNode _ => true
  | .waitNodeCheck _ => true
  | .nodeCompletion _ => true
  | .linkFailure die => decide (die < 24)
  | .weftUnreachable _ => true
  | .regionMove _ _ => true
  | .islandFrequencyChange die _ => decide (die < 24)
  | .invalidationComplete => true
  | .cxlMemAccess window _ _ => decide (window < 8)
  | .eventWrite aqi => decide (aqi < 4096)
  | .evtailWrite aqi _ => decide (aqi < 4096)
  | .regionCreate m => mgmtOk m 1
  | .regionDestroy m => mgmtOk m 2
  | .inval m => mgmtOk m 3
  | .dumpreg m => mgmtOk m 4
  | .counters m => mgmtOk m 5
  | .lend m => mgmtOk m 6
  | .hostReturn m => mgmtOk m 7
  | .imgExport m => mgmtOk m 8
  | .imgImport m => mgmtOk m 9
  | .watch m => mgmtOk m 10
  | .attest m => mgmtOk m 11
  | .aqiBind m => mgmtOk m 32
  | .aqiUnbind m => mgmtOk m 33
  | .pasidSet m => mgmtOk m 34
  | .pasidRevoke m => mgmtOk m 35
  | .irqSet m => mgmtOk m 36
  | .hdmBind m => mgmtOk m 37
  | .devdump m => mgmtOk m 38
  | .power m => mgmtOk m 39
  | .weftId m => mgmtOk m 40
  | .deviceWideDump => true
  | .weftRead f => flitOk f
  | .weftReadData f => flitOk f
  | .weftWrite f => flitOk f
  | .weftWriteAcknowledge f => flitOk f
  | .weftAtomic f => flitOk f
  | .weftAtomicResult f => flitOk f
  | .weftOwnership f => flitOk f
  | .weftBarrier f => flitOk f
  | .weftPause f => flitOk f
  | .weftPauseExpiry lane => decide (lane < 8)
  | .weftLoomControl f => flitOk f
  | .weftFlitDiscard f => flitOk f
  | .deviceReset _ => true
  | .selvedgeFirmwareStage _ => true
  | .loomSelfTest _ => true
  | .linkTraining _ => true
  | .aqi0Enable => true
  | .hostReset aqi => decide (aqi < 4096)
  | .debuggerHalt _ => true
  | .debuggerRelease _ => true

end Sys2Proof
end

