-- ==== Sys2Proof/Decode.lean ====
section
/-! DEFINITION. Reading instruction words (R33 to R51) and writing them. A word is read for the strand that
fetches it: the four strands have opcode maps of their own (R46 to R49). Reading is total, and refuses every
reserved encoding by the condition that R344 gives it. -/

namespace Sys2Proof

/-- Why a word is no instruction, as R344 numbers the conditions: the COND of illegal-encoding. -/
inductive DecErr where
  /-- COND 0: a reserved opcode. -/
  | opcode
  /-- COND 1: a reserved fn, selector or sub-function value. -/
  | subfn
  /-- COND 2: a non-zero bit in a field that must be zero. -/
  | reserved
  /-- COND 3: a token word outside its format. -/
  | token
  /-- COND 4: a selector that names no control register. -/
  | csr
  /-- COND 5: `realign` with n above 16. -/
  | realign
  /-- COND 9: an operand condition that the word alone decides (R216, `rowexp`). -/
  | operand
  /-- Fewer bytes than the instruction has. -/
  | short
deriving DecidableEq, Repr

/-- The bits `lo + n - 1` to `lo` of a word, as an unsigned number (R9). -/
def fld (w lo n : Nat) : Nat := w / 2 ^ lo % 2 ^ n

/-- One bit of a word. -/
def bit (w i : Nat) : Bool := w / 2 ^ i % 2 == 1

/-- Refuses with `e` unless the condition holds. -/
def need (c : Bool) (e : DecErr) (k : Except DecErr Instr) : Except DecErr Instr :=
  if c then k else .error e

/-- The guard fields with the predicate at `lo` and the negate bit at `nb`. -/
def guardAt (w lo nb : Nat) : Guard := ⟨fld w lo 3, bit w nb⟩

/-- The fields of a token word (R38). -/
def tokOf (w1 : Nat) : Tok := ⟨fld w1 28 4, fld w1 24 4, fld w1 20 4, fld w1 16 4⟩

/-- The X opcodes of the asynchronous commands (R49). -/
def trailX (op : Nat) : Bool :=
  (decide (1 ≤ op) && decide (op ≤ 0x0B)) || (decide (0x10 ≤ op) && decide (op ≤ 0x15)) || op == 0x1A || op == 0x1B

/-- Whether the word of a strand carries a trailing word (R33): the S.L formats and the asynchronous commands. -/
def hasTrail : Strand → Nat → Bool
  | .s, w => fld w 25 6 == 0x18
  | .v, _ => false
  | .m, w => fld w 26 5 == 0x04
  | .x, w => trailX (fld w 25 6)

/-- The S.R groups (R46): majors 0x01 to 0x06 by fn. -/
def decodeSR (op fn : Nat) (w : Nat) : Except DecErr Instr :=
  let l := bit w 31
  let d := fld w 19 6
  let a := fld w 13 6
  let b := fld w 7 6
  let g := guardAt w 4 3
  match op, fn with
  | 0x01, 0 => .ok (.add l d a b g)
  | 0x01, 1 => .ok (.sub l d a b g)
  | 0x01, 2 => .ok (.and l d a b g)
  | 0x01, 3 => .ok (.or l d a b g)
  | 0x01, 4 => .ok (.xor l d a b g)
  | 0x01, 5 => .ok (.andn l d a b g)
  | 0x01, 6 => .ok (.shl l d a b g)
  | 0x01, 7 => .ok (.shr l d a b g)
  | 0x02, 0 => .ok (.sar l d a b g)
  | 0x02, 1 => .ok (.min l d a b g)
  | 0x02, 2 => .ok (.max l d a b g)
  | 0x02, 3 => .ok (.minu l d a b g)
  | 0x02, 4 => .ok (.maxu l d a b g)
  | 0x02, 5 => need (b == 0) .reserved (.ok (.clz l d a g))
  | 0x02, 6 => need (b == 0) .reserved (.ok (.ctz l d a g))
  | 0x02, 7 => need (b == 0) .reserved (.ok (.popc l d a g))
  | 0x03, 0 => .ok (.mul l d a b g)
  | 0x03, 1 => .ok (.mulh l d a b g)
  | 0x03, 2 => .ok (.mulhu l d a b g)
  | 0x03, 3 => .ok (.div l d a b g)
  | 0x03, 4 => .ok (.divu l d a b g)
  | 0x03, 5 => .ok (.rem l d a b g)
  | 0x03, 6 => .ok (.remu l d a b g)
  | 0x04, 0 => need (decide (d < 16)) .reserved (.ok (.cmpEq l d a b g))
  | 0x04, 1 => need (decide (d < 16)) .reserved (.ok (.cmpNe l d a b g))
  | 0x04, 2 => need (decide (d < 16)) .reserved (.ok (.cmpLt l d a b g))
  | 0x04, 3 => need (decide (d < 16)) .reserved (.ok (.cmpLtu l d a b g))
  | 0x04, 4 => need (decide (d < 16)) .reserved (.ok (.cmpLe l d a b g))
  | 0x04, 5 => need (decide (d < 16)) .reserved (.ok (.cmpLeu l d a b g))
  | 0x05, 0 => need (decide (d < 16) && decide (a < 16) && decide (b < 16)) .reserved (.ok (.pand l d a b g))
  | 0x05, 1 => need (decide (d < 16) && decide (a < 16) && decide (b < 16)) .reserved (.ok (.por l d a b g))
  | 0x05, 2 => need (decide (d < 16) && decide (a < 16) && decide (b < 16)) .reserved (.ok (.pxor l d a b g))
  | 0x05, 3 => need (decide (d < 16) && decide (a < 16) && b == 0) .reserved (.ok (.pnot l d a g))
  | 0x05, 4 => .ok (.sel l d a b g)
  | 0x06, 0 => need (d == 0 && b == 0) .reserved (.ok (.wake l a g))
  | 0x06, 1 => need (d == 0 && b == 0) .reserved (.ok (.sleep l a g))
  | 0x06, 2 => need (d == 0 && b == 0) .reserved (.ok (.retain l a g))
  | 0x06, 3 => need (d == 0 && b == 0) .reserved (.ok (.pwait l a g))
  | _, _ => .error .subfn

/-- `csrw` by selector (R161): one row for each register whose write has a rule of its own. -/
def decodeCsrw (l : Bool) (a sel : Nat) : Except DecErr Instr :=
  if sel = 0x02 then .ok (.csrwLockmask l a)
  else if sel = 0x0A then .ok (.csrwTrapvec l a)
  else if sel = 0x28 then .ok (.csrwVwb l a)
  else if sel = 0x29 then .ok (.csrwTwist l a)
  else if sel = 0x2A then .ok (.csrwVshape l a)
  else if sel = 0x30 then .ok (.csrwCzlist l a)
  else if 0x40 ≤ sel ∧ sel ≤ 0x4F then .ok (.csrwAmax l a (sel - 0x40))
  else need (csrPlain sel) .csr (.ok (.csrw l a sel))

/-- The sys major 0x22 by selector (R46). -/
def decodeSys (l : Bool) (a sel : Nat) : Except DecErr Instr :=
  match sel with
  | 0 => need (a == 0) .reserved (.ok (.ret l))
  | 1 => need (a == 0) .reserved (.ok (.markR l))
  | 2 => need (a == 0) .reserved (.ok (.eret l))
  | 3 => need (a == 0) .reserved (.ok (.eretR l))
  | 4 => need (a == 0) .reserved (.ok (.done l))
  | _ => .error .subfn

/-- The sync major 0x23 by selector bits [12:9] and [8:0] (R46). -/
def decodeSync (l : Bool) (a hi lo : Nat) : Except DecErr Instr :=
  match hi with
  | 0 => need (a == 0 && decide (lo < 16)) .reserved (.ok (.waitK l lo))
  | 1 => need (a == 0 && lo == 0) .reserved (.ok (.qmark l))
  | 2 => need (lo == 0) .reserved (.ok (.pmark l a))
  | 3 => need (decide (lo ≤ 16)) .realign (need (a == 0) .reserved (.ok (.realign l lo)))
  | 4 => need (a == 0 && lo == 0) .reserved (.ok (.unalign l))
  | 5 => need (lo == 0) .reserved (.ok (.barArr l a))
  | 6 => need (lo == 0) .reserved (.ok (.barWait l a))
  | _ => .error .subfn

/-- An S-strand instruction from its word and its trailing word (R46). -/
def decodeS (w w1 : Nat) : Except DecErr Instr :=
  let op := fld w 25 6
  let l := bit w 31
  let d := fld w 19 6
  let a := fld w 13 6
  let i := fld w 0 13
  let off := fld w 0 20
  let c := fld w 13 12
  match op with
  | 0x01 => decodeSR 0x01 (fld w 0 3) w
  | 0x02 => decodeSR 0x02 (fld w 0 3) w
  | 0x03 => decodeSR 0x03 (fld w 0 3) w
  | 0x04 => decodeSR 0x04 (fld w 0 3) w
  | 0x05 => decodeSR 0x05 (fld w 0 3) w
  | 0x06 => decodeSR 0x06 (fld w 0 3) w
  | 0x08 => .ok (.addi l d a i)
  | 0x09 => .ok (.andi l d a i)
  | 0x0A => .ok (.ori l d a i)
  | 0x0B => .ok (.xori l d a i)
  | 0x0C => need (decide (i < 64)) .reserved (.ok (.shli l d a i))
  | 0x0D => need (decide (i < 64)) .reserved (.ok (.shri l d a i))
  | 0x0E => need (decide (i < 64)) .reserved (.ok (.sari l d a i))
  | 0x0F => .ok (.lea l d a i)
  | 0x10 => .ok (.ldB l d a i)
  | 0x11 => .ok (.ldH l d a i)
  | 0x12 => .ok (.ldW l d a i)
  | 0x13 => .ok (.ldD l d a i)
  | 0x14 => .ok (.stB l d a i)
  | 0x15 => .ok (.stH l d a i)
  | 0x16 => .ok (.stW l d a i)
  | 0x17 => .ok (.stD l d a i)
  | 0x18 =>
    match fld w 0 9 with
    | 0 => need (a == 0) .reserved (.ok (.lit l d (guardAt w 10 9) w1))
    | 1 => .ok (.litHi l d a (guardAt w 10 9) w1)
    | _ => .error .subfn
  | 0x19 => .ok (.br l (fld w 21 4) (bit w 20) off)
  | 0x1A => need (fld w 20 5 == 0) .reserved (.ok (.jmp l off))
  | 0x1B => need (fld w 20 5 == 0) .reserved (.ok (.call l off))
  | 0x1C => need (fld w 8 5 == 0) .reserved (.ok (.loop l c (fld w 0 8)))
  | 0x1D => need (i == 0) .reserved (.ok (.rpt l c))
  | 0x1E => need (i == 0) .reserved (.ok (.gap l c))
  | 0x1F => need (d == 0 && a == 0) .reserved (.ok (.trap l i))
  | 0x20 => need (csrKnown i) .csr (need (a == 0) .reserved (.ok (.csrr l d i)))
  | 0x21 => need (d == 0) .reserved (decodeCsrw l a i)
  | 0x22 => need (d == 0) .reserved (decodeSys l a i)
  | 0x23 => need (d == 0) .reserved (decodeSync l a (fld w 9 4) (fld w 0 9))
  | _ => .error .opcode

/-- A V-strand instruction from its word (R47). -/
def decodeV (w : Nat) : Except DecErr Instr :=
  let l := bit w 31
  let d := fld w 16 8
  let a := fld w 8 8
  let b := fld w 0 8
  let sa := fld w 10 6
  let i := fld w 0 10
  match fld w 24 7 with
  | 0x01 => .ok (.vadd l d a b)
  | 0x02 => .ok (.vsub l d a b)
  | 0x03 => .ok (.vmul l d a b)
  | 0x04 => .ok (.vmulh l d a b)
  | 0x05 => .ok (.vmulhu l d a b)
  | 0x06 => .ok (.vmla l d a b)
  | 0x07 => .ok (.vmin l d a b)
  | 0x08 => .ok (.vmax l d a b)
  | 0x09 => need (b == 0) .reserved (.ok (.vabs l d a))
  | 0x0A => need (b == 0) .reserved (.ok (.vneg l d a))
  | 0x0B => .ok (.vand l d a b)
  | 0x0C => .ok (.vor l d a b)
  | 0x0D => .ok (.vxor l d a b)
  | 0x0E => .ok (.vandn l d a b)
  | 0x0F => need (b == 0) .reserved (.ok (.vpopc l d a))
  | 0x10 => .ok (.vshl l d a b)
  | 0x11 => .ok (.vshr l d a b)
  | 0x12 => .ok (.vsar l d a b)
  | 0x13 => .ok (.vsel l d a b)
  | 0x14 => need (b == 0) .reserved (.ok (.vmov l d a))
  | 0x15 => need (i == 0) .reserved (.ok (.vbcast l d sa))
  | 0x16 => .ok (.vperm l d a b)
  | 0x17 => need (a == 0) .reserved (.ok (.vli l d b))
  | 0x18 => need (decide (d < 16)) .reserved (.ok (.vcmpEq l d a b))
  | 0x19 => need (decide (d < 16)) .reserved (.ok (.vcmpNe l d a b))
  | 0x1A => need (decide (d < 16)) .reserved (.ok (.vcmpLt l d a b))
  | 0x1B => need (decide (d < 16)) .reserved (.ok (.vcmpLtu l d a b))
  | 0x1C => need (decide (d < 16)) .reserved (.ok (.vcmpLe l d a b))
  | 0x1D => need (decide (d < 16)) .reserved (.ok (.vcmpLeu l d a b))
  | 0x20 => need (b == 0) .reserved (.ok (.vredAdd l d a))
  | 0x21 => need (b == 0) .reserved (.ok (.vredMax l d a))
  | 0x22 => need (b == 0) .reserved (.ok (.vredMin l d a))
  | 0x23 => .ok (.vwmul l d a b)
  | 0x24 => .ok (.vwadd l d a b)
  | 0x25 => need (b == 0) .reserved (.ok (.vnarrow l d a))
  | 0x28 => .ok (.vld l d sa i)
  | 0x29 => .ok (.vst l d sa i)
  | 0x2A => need (b == 0) .reserved (.ok (.vldx l d a))
  | 0x2B => need (b == 0) .reserved (.ok (.vstx l d a))
  | 0x2C => .ok (.vamoOr l d a b)
  | 0x2D => .ok (.vamoAdd l d a b)
  | 0x2E => .ok (.vamoMin l d a b)
  | 0x2F => .ok (.vamoMax l d a b)
  | 0x30 => need (d == 0 && i == 0) .reserved (.ok (.vshape l sa))
  | 0x31 => need (d == 0) .reserved (.ok (.vwin l sa i))
  | 0x32 => need (d == 0 && a == 0 && b == 0) .reserved (.ok (.vrot l))
  | 0x38 => .ok (.vfadd l d a b)
  | 0x39 => .ok (.vfsub l d a b)
  | 0x3A => .ok (.vfmul l d a b)
  | 0x3B => .ok (.vfma l d a b)
  | 0x3C => .ok (.vfmin l d a b)
  | 0x3D => .ok (.vfmax l d a b)
  | 0x3E => need (decide (b < 16)) .reserved (.ok (.vcvt l d a b))
  | 0x3F => need (decide (b < 128)) .reserved (.ok (.vcvtMx l d a (fld w 6 1) (fld w 2 4) (fld w 0 2)))
  | 0x40 => need (b == 0) .reserved (.ok (.vexp2 l d a))
  | 0x41 => need (b == 0) .reserved (.ok (.vlog2 l d a))
  | 0x42 => need (b == 0) .reserved (.ok (.vrcp l d a))
  | 0x43 => need (b == 0) .reserved (.ok (.vrsqrt l d a))
  | 0x44 => need (b == 0) .reserved (.ok (.vtanh l d a))
  | 0x45 => .ok (.vwfUpd l d a b)
  | 0x46 => .ok (.vwfMrg l d a b)
  | 0x48 => need (i == 0) .reserved (.ok (.rowmax l d sa))
  | 0x49 => need (decide (i < 256)) .operand (.ok (.rowexp l d sa i))
  | 0x4A => need (i == 0) .reserved (.ok (.rowscl l d sa))
  | _ => .error .opcode

/-- An M-strand instruction from its word and its token word (R48). Bits [5:0] are reserved. -/
def decodeM (w w1 : Nat) : Except DecErr Instr :=
  let l := bit w 31
  let a := fld w 22 4
  let sa := fld w 16 6
  let sb := fld w 10 6
  let g := guardAt w 7 6
  let z := fld w 0 6 == 0
  match fld w 26 5 with
  | 0x01 => need (z && a == 0 && sb == 0) .reserved (.ok (.mcfg l sa g))
  | 0x02 => need (z && sb == 0) .reserved (.ok (.mstream l a sa g))
  | 0x03 => need (decide (a < 7)) .subfn (need (z && sb == 0) .reserved (.ok (.mnest l a sa g)))
  | 0x04 => need (z && a == 0 && sa == 0 && sb == 0) .reserved
      (need (fld w1 0 16 == 0) .token (.ok (.mgo l g (tokOf w1))))
  | 0x05 => need (z && a == 0 && sa == 0 && sb == 0) .reserved (.ok (.mdrain l g))
  | 0x06 => need (decide (a < 8)) .subfn (need (z && sa == 0 && sb == 0) .reserved (.ok (.mzero l a g)))
  | 0x07 => need (decide (a < 4)) .subfn (need (z && sa == 0 && sb == 0) .reserved (.ok (.mgang l a g)))
  | 0x08 => need (decide (a < 3)) .subfn (need z .reserved (.ok (.mstat l a sa sb g)))
  | 0x09 => need (z && a == 0 && sb == 0) .reserved (.ok (.gset l sa g))
  | 0x0A => need (z && a == 0 && sb == 0) .reserved (.ok (.gev l sa g))
  | 0x0B => need (z && a == 0) .reserved (.ok (.gout l sa sb g))
  | 0x0C => need (decide (a < 4)) .subfn (need (z && sa == 0) .reserved (.ok (.gstat l a sb g)))
  | _ => .error .opcode

/-- An X-strand instruction from its word and its token word (R49). -/
def decodeX (w w1 : Nat) : Except DecErr Instr :=
  let l := bit w 31
  let a := fld w 19 6
  let b := fld w 13 6
  let c := fld w 7 6
  let g := guardAt w 4 3
  let fn := fld w 0 3
  let f0 := fn == 0
  let v := fld w 17 8
  let va := fld w 11 6
  let vb := fld w 5 6
  let vg := guardAt w 2 1
  let v0 := !bit w 0
  let t := tokOf w1
  let tk := fld w1 0 16 == 0
  match fld w 25 6 with
  | 0x01 => need f0 .subfn (need tk .token (.ok (.xcopy l a b c g t)))
  | 0x02 => need f0 .subfn (need tk .token (.ok (.xblk l a b c g t)))
  | 0x03 => need f0 .subfn (need tk .token (.ok (.xpak l a b c g t)))
  | 0x04 => need f0 .subfn (need tk .token (.ok (.xunp l a b c g t)))
  | 0x05 => need (f0 && decide (c < 4)) .subfn (need tk .token (.ok (.xfld l a b c g t)))
  | 0x06 => need (f0 && decide (c < 4)) .subfn (need tk .token (.ok (.xfst l a b c g t)))
  | 0x07 =>
    need tk .token (match fn with
      | 0 => .ok (.xamoAdd l a b c g t)
      | 1 => .ok (.xamoAnd l a b c g t)
      | 2 => .ok (.xamoOr l a b c g t)
      | 3 => .ok (.xamoXor l a b c g t)
      | 4 => .ok (.xamoMin l a b c g t)
      | 5 => .ok (.xamoMax l a b c g t)
      | 6 => .ok (.xamoMinu l a b c g t)
      | _ => .ok (.xamoMaxu l a b c g t))
  | 0x08 => need v0 .reserved (need tk .token (.ok (.xvamoOr l v va vb vg t)))
  | 0x09 => need v0 .reserved (need tk .token (.ok (.xvamoAdd l v va vb vg t)))
  | 0x0A => need v0 .reserved (need tk .token (.ok (.xvamoMin l v va vb vg t)))
  | 0x0B => need v0 .reserved (need tk .token (.ok (.xvamoMax l v va vb vg t)))
  | 0x10 => need f0 .subfn (need tk .token (.ok (.ownLend l a b c g t)))
  | 0x11 => need f0 .subfn (need (b == 0 && c == 0) .reserved (need tk .token (.ok (.ownRet l a g t))))
  | 0x12 => need f0 .subfn (need (b == 0 && c == 0) .reserved (need tk .token (.ok (.ownSplit l a g t))))
  | 0x13 => need f0 .subfn (need (b == 0 && c == 0) .reserved (need tk .token (.ok (.ownJoin l a g t))))
  | 0x14 => need f0 .subfn (need (c == 0) .reserved (need tk .token (.ok (.ownQuery l a b g t))))
  | 0x15 => need f0 .subfn (need (c == 0) .reserved (need tk .token (.ok (.ownReclaim l a b g t))))
  | 0x18 => need v0 .reserved (.ok (.send l v va vb vg))
  | 0x19 => need v0 .reserved (.ok (.recv l v va vb vg))
  | 0x1A => need f0 .subfn (need tk .token (.ok (.ovl l a b c g t)))
  | 0x1B => need f0 .subfn (need (a == 0 && b == 0 && c == 0) .reserved
      (need (tk && fld w1 16 12 == 0xFFF) .token (.ok (.replay l g t))))
  | _ => .error .opcode

/-- An instruction of a strand from its word and its trailing word; where there is none, `w1` is not read. -/
def decodeWords (st : Strand) (w w1 : Nat) : Except DecErr Instr :=
  match st with
  | .s => decodeS w w1
  | .v => decodeV w
  | .m => decodeM w w1
  | .x => decodeX w w1

/-- The number in four bytes, lowest address first (R6). -/
def leWord (b0 b1 b2 b3 : Byte) : Nat :=
  b0.toNat + 2 ^ 8 * b1.toNat + 2 ^ 16 * b2.toNat + 2 ^ 24 * b3.toNat

/-- The four bytes of a word, lowest address first (R6). -/
def wordBytes (w : Nat) : List Byte :=
  [BitVec.ofNat 8 w, BitVec.ofNat 8 (w / 2 ^ 8), BitVec.ofNat 8 (w / 2 ^ 16), BitVec.ofNat 8 (w / 2 ^ 24)]

/-- Reads one instruction of a strand from a list of bytes, and gives the rest of the list. -/
def decode (st : Strand) : List Byte → Except DecErr (Instr × List Byte)
  | b0 :: b1 :: b2 :: b3 :: rest =>
    let w := leWord b0 b1 b2 b3
    if hasTrail st w then
      match rest with
      | c0 :: c1 :: c2 :: c3 :: rest' => (decodeWords st w (leWord c0 c1 c2 c3)).map (·, rest')
      | _ => .error .short
    else (decodeWords st w 0).map (·, rest)
  | _ => .error .short

/-- An S.R word (R35). -/
def encSR (l : Bool) (op sd sa sb : Nat) (g : Guard) (fn : Nat) : Nat :=
  2 ^ 31 * l.toNat + 2 ^ 25 * op + 2 ^ 19 * sd + 2 ^ 13 * sa + 2 ^ 7 * sb + 2 ^ 4 * g.p + 2 ^ 3 * g.neg.toNat + fn

/-- An S.I or S.C word (R35). -/
def encSI (l : Bool) (op sd sa imm : Nat) : Nat :=
  2 ^ 31 * l.toNat + 2 ^ 25 * op + 2 ^ 19 * sd + 2 ^ 13 * sa + imm

/-- An S.B word (R35). -/
def encSB (l : Bool) (op p : Nat) (neg : Bool) (off : Nat) : Nat :=
  2 ^ 31 * l.toNat + 2 ^ 25 * op + 2 ^ 21 * p + 2 ^ 20 * neg.toNat + off

/-- An S.L word (R35). -/
def encSL (l : Bool) (sd sa : Nat) (g : Guard) (fn : Nat) : Nat :=
  2 ^ 31 * l.toNat + 2 ^ 25 * 0x18 + 2 ^ 19 * sd + 2 ^ 13 * sa + 2 ^ 10 * g.p + 2 ^ 9 * g.neg.toNat + fn

/-- An S.N word (R35). -/
def encSN (l : Bool) (op countM1 n : Nat) : Nat := 2 ^ 31 * l.toNat + 2 ^ 25 * op + 2 ^ 13 * countM1 + n

/-- A V.R or V.I word (R36). -/
def encVR (l : Bool) (op d a b : Nat) : Nat := 2 ^ 31 * l.toNat + 2 ^ 24 * op + 2 ^ 16 * d + 2 ^ 8 * a + b

/-- A V.M word (R36). -/
def encVM (l : Bool) (op v sa imm : Nat) : Nat := 2 ^ 31 * l.toNat + 2 ^ 24 * op + 2 ^ 16 * v + 2 ^ 10 * sa + imm

/-- An M.R word (R37). -/
def encMR (l : Bool) (op a sa sb : Nat) (g : Guard) : Nat :=
  2 ^ 31 * l.toNat + 2 ^ 26 * op + 2 ^ 22 * a + 2 ^ 16 * sa + 2 ^ 10 * sb + 2 ^ 7 * g.p + 2 ^ 6 * g.neg.toNat

/-- An X.V word (R37). -/
def encXV (l : Bool) (op v xa xb : Nat) (g : Guard) : Nat :=
  2 ^ 31 * l.toNat + 2 ^ 25 * op + 2 ^ 17 * v + 2 ^ 11 * xa + 2 ^ 5 * xb + 2 ^ 2 * g.p + 2 ^ 1 * g.neg.toNat

/-- A token word (R38). -/
def encTok (t : Tok) : Nat := 2 ^ 28 * t.push + 2 ^ 24 * t.popA + 2 ^ 20 * t.popB + 2 ^ 16 * t.popC

/-- The words of an instruction, from the encodings of R46 to R49; a step that no word encodes has none. -/
def encode : Instr → List Nat
  | .add l d a b g => [encSR l 0x01 d a b g 0]
  | .sub l d a b g => [encSR l 0x01 d a b g 1]
  | .and l d a b g => [encSR l 0x01 d a b g 2]
  | .or l d a b g => [encSR l 0x01 d a b g 3]
  | .xor l d a b g => [encSR l 0x01 d a b g 4]
  | .andn l d a b g => [encSR l 0x01 d a b g 5]
  | .shl l d a b g => [encSR l 0x01 d a b g 6]
  | .shr l d a b g => [encSR l 0x01 d a b g 7]
  | .sar l d a b g => [encSR l 0x02 d a b g 0]
  | .min l d a b g => [encSR l 0x02 d a b g 1]
  | .max l d a b g => [encSR l 0x02 d a b g 2]
  | .minu l d a b g => [encSR l 0x02 d a b g 3]
  | .maxu l d a b g => [encSR l 0x02 d a b g 4]
  | .clz l d a g => [encSR l 0x02 d a 0 g 5]
  | .ctz l d a g => [encSR l 0x02 d a 0 g 6]
  | .popc l d a g => [encSR l 0x02 d a 0 g 7]
  | .mul l d a b g => [encSR l 0x03 d a b g 0]
  | .mulh l d a b g => [encSR l 0x03 d a b g 1]
  | .mulhu l d a b g => [encSR l 0x03 d a b g 2]
  | .div l d a b g => [encSR l 0x03 d a b g 3]
  | .divu l d a b g => [encSR l 0x03 d a b g 4]
  | .rem l d a b g => [encSR l 0x03 d a b g 5]
  | .remu l d a b g => [encSR l 0x03 d a b g 6]
  | .cmpEq l d a b g => [encSR l 0x04 d a b g 0]
  | .cmpNe l d a b g => [encSR l 0x04 d a b g 1]
  | .cmpLt l d a b g => [encSR l 0x04 d a b g 2]
  | .cmpLtu l d a b g => [encSR l 0x04 d a b g 3]
  | .cmpLe l d a b g => [encSR l 0x04 d a b g 4]
  | .cmpLeu l d a b g => [encSR l 0x04 d a b g 5]
  | .pand l d a b g => [encSR l 0x05 d a b g 0]
  | .por l d a b g => [encSR l 0x05 d a b g 1]
  | .pxor l d a b g => [encSR l 0x05 d a b g 2]
  | .pnot l d a g => [encSR l 0x05 d a 0 g 3]
  | .sel l d a b g => [encSR l 0x05 d a b g 4]
  | .wake l a g => [encSR l 0x06 0 a 0 g 0]
  | .sleep l a g => [encSR l 0x06 0 a 0 g 1]
  | .retain l a g => [encSR l 0x06 0 a 0 g 2]
  | .pwait l a g => [encSR l 0x06 0 a 0 g 3]
  | .addi l d a i => [encSI l 0x08 d a i]
  | .andi l d a i => [encSI l 0x09 d a i]
  | .ori l d a i => [encSI l 0x0a d a i]
  | .xori l d a i => [encSI l 0x0b d a i]
  | .shli l d a i => [encSI l 0x0c d a i]
  | .shri l d a i => [encSI l 0x0d d a i]
  | .sari l d a i => [encSI l 0x0e d a i]
  | .lea l d a i => [encSI l 0x0f d a i]
  | .ldB l d a i => [encSI l 0x10 d a i]
  | .ldH l d a i => [encSI l 0x11 d a i]
  | .ldW l d a i => [encSI l 0x12 d a i]
  | .ldD l d a i => [encSI l 0x13 d a i]
  | .stB l d a i => [encSI l 0x14 d a i]
  | .stH l d a i => [encSI l 0x15 d a i]
  | .stW l d a i => [encSI l 0x16 d a i]
  | .stD l d a i => [encSI l 0x17 d a i]
  | .lit l d g v => [encSL l d 0 g 0, v]
  | .litHi l d a g v => [encSL l d a g 1, v]
  | .br l p n off => [encSB l 0x19 p n off]
  | .jmp l off => [encSB l 0x1a 0 false off]
  | .call l off => [encSB l 0x1b 0 false off]
  | .loop l c m => [encSN l 0x1c c m]
  | .rpt l c => [encSN l 0x1d c 0]
  | .gap l c => [encSN l 0x1e c 0]
  | .trap l c => [encSI l 0x1f 0 0 c]
  | .csrr l d s => [encSI l 0x20 d 0 s]
  | .csrw l a s => [encSI l 0x21 0 a s]
  | .csrwLockmask l a => [encSI l 0x21 0 a 0x02]
  | .csrwTrapvec l a => [encSI l 0x21 0 a 0x0a]
  | .csrwVwb l a => [encSI l 0x21 0 a 0x28]
  | .csrwTwist l a => [encSI l 0x21 0 a 0x29]
  | .csrwVshape l a => [encSI l 0x21 0 a 0x2a]
  | .csrwCzlist l a => [encSI l 0x21 0 a 0x30]
  | .csrwAmax l a m => [encSI l 0x21 0 a (0x40 + m)]
  | .ret l => [encSI l 0x22 0 0 0]
  | .markR l => [encSI l 0x22 0 0 1]
  | .eret l => [encSI l 0x22 0 0 2]
  | .eretR l => [encSI l 0x22 0 0 3]
  | .done l => [encSI l 0x22 0 0 4]
  | .waitK l k => [encSI l 0x23 0 0 k]
  | .qmark l => [encSI l 0x23 0 0 0x200]
  | .pmark l a => [encSI l 0x23 0 a 0x400]
  | .realign l n => [encSI l 0x23 0 0 (0x600 + n)]
  | .unalign l => [encSI l 0x23 0 0 0x800]
  | .barArr l a => [encSI l 0x23 0 a 0xa00]
  | .barWait l a => [encSI l 0x23 0 a 0xc00]
  | .vadd l d a b => [encVR l 0x01 d a b]
  | .vsub l d a b => [encVR l 0x02 d a b]
  | .vmul l d a b => [encVR l 0x03 d a b]
  | .vmulh l d a b => [encVR l 0x04 d a b]
  | .vmulhu l d a b => [encVR l 0x05 d a b]
  | .vmla l d a b => [encVR l 0x06 d a b]
  | .vmin l d a b => [encVR l 0x07 d a b]
  | .vmax l d a b => [encVR l 0x08 d a b]
  | .vabs l d a => [encVR l 0x09 d a 0]
  | .vneg l d a => [encVR l 0x0a d a 0]
  | .vand l d a b => [encVR l 0x0b d a b]
  | .vor l d a b => [encVR l 0x0c d a b]
  | .vxor l d a b => [encVR l 0x0d d a b]
  | .vandn l d a b => [encVR l 0x0e d a b]
  | .vpopc l d a => [encVR l 0x0f d a 0]
  | .vshl l d a b => [encVR l 0x10 d a b]
  | .vshr l d a b => [encVR l 0x11 d a b]
  | .vsar l d a b => [encVR l 0x12 d a b]
  | .vsel l d a b => [encVR l 0x13 d a b]
  | .vmov l d a => [encVR l 0x14 d a 0]
  | .vbcast l d sa => [encVM l 0x15 d sa 0]
  | .vperm l d a b => [encVR l 0x16 d a b]
  | .vli l d i => [encVR l 0x17 d 0 i]
  | .vcmpEq l d a b => [encVR l 0x18 d a b]
  | .vcmpNe l d a b => [encVR l 0x19 d a b]
  | .vcmpLt l d a b => [encVR l 0x1a d a b]
  | .vcmpLtu l d a b => [encVR l 0x1b d a b]
  | .vcmpLe l d a b => [encVR l 0x1c d a b]
  | .vcmpLeu l d a b => [encVR l 0x1d d a b]
  | .vredAdd l d a => [encVR l 0x20 d a 0]
  | .vredMax l d a => [encVR l 0x21 d a 0]
  | .vredMin l d a => [encVR l 0x22 d a 0]
  | .vwmul l d a b => [encVR l 0x23 d a b]
  | .vwadd l d a b => [encVR l 0x24 d a b]
  | .vnarrow l d a => [encVR l 0x25 d a 0]
  | .vld l v sa i => [encVM l 0x28 v sa i]
  | .vst l v sa i => [encVM l 0x29 v sa i]
  | .vldx l d a => [encVR l 0x2a d a 0]
  | .vstx l d a => [encVR l 0x2b d a 0]
  | .vamoOr l d a b => [encVR l 0x2c d a b]
  | .vamoAdd l d a b => [encVR l 0x2d d a b]
  | .vamoMin l d a b => [encVR l 0x2e d a b]
  | .vamoMax l d a b => [encVR l 0x2f d a b]
  | .vshape l sa => [encVM l 0x30 0 sa 0]
  | .vwin l sa i => [encVM l 0x31 0 sa i]
  | .vrot l => [encVR l 0x32 0 0 0]
  | .vfadd l d a b => [encVR l 0x38 d a b]
  | .vfsub l d a b => [encVR l 0x39 d a b]
  | .vfmul l d a b => [encVR l 0x3a d a b]
  | .vfma l d a b => [encVR l 0x3b d a b]
  | .vfmin l d a b => [encVR l 0x3c d a b]
  | .vfmax l d a b => [encVR l 0x3d d a b]
  | .vcvt l d a t => [encVR l 0x3e d a t]
  | .vcvtMx l d a h m f => [encVR l 0x3f d a (2 ^ 6 * h + 2 ^ 2 * m + f)]
  | .vexp2 l d a => [encVR l 0x40 d a 0]
  | .vlog2 l d a => [encVR l 0x41 d a 0]
  | .vrcp l d a => [encVR l 0x42 d a 0]
  | .vrsqrt l d a => [encVR l 0x43 d a 0]
  | .vtanh l d a => [encVR l 0x44 d a 0]
  | .vwfUpd l d a b => [encVR l 0x45 d a b]
  | .vwfMrg l d a b => [encVR l 0x46 d a b]
  | .rowmax l v sa => [encVM l 0x48 v sa 0]
  | .rowexp l v sa c => [encVM l 0x49 v sa c]
  | .rowscl l v sa => [encVM l 0x4a v sa 0]
  | .mcfg l sa g => [encMR l 0x01 0 sa 0 g]
  | .mstream l q sa g => [encMR l 0x02 q sa 0 g]
  | .mnest l n sa g => [encMR l 0x03 n sa 0 g]
  | .mgo l g t => [encMR l 0x04 0 0 0 g, encTok t]
  | .mdrain l g => [encMR l 0x05 0 0 0 g]
  | .mzero l t g => [encMR l 0x06 t 0 0 g]
  | .mgang l m g => [encMR l 0x07 m 0 0 g]
  | .mstat l c sa sb g => [encMR l 0x08 c sa sb g]
  | .gset l sa g => [encMR l 0x09 0 sa 0 g]
  | .gev l sa g => [encMR l 0x0a 0 sa 0 g]
  | .gout l sa sb g => [encMR l 0x0b 0 sa sb g]
  | .gstat l c sb g => [encMR l 0x0c c 0 sb g]
  | .xcopy l a b c g t => [encSR l 0x01 a b c g 0, encTok t]
  | .xblk l a b c g t => [encSR l 0x02 a b c g 0, encTok t]
  | .xpak l a b c g t => [encSR l 0x03 a b c g 0, encTok t]
  | .xunp l a b c g t => [encSR l 0x04 a b c g 0, encTok t]
  | .xfld l a b c g t => [encSR l 0x05 a b c g 0, encTok t]
  | .xfst l a b c g t => [encSR l 0x06 a b c g 0, encTok t]
  | .xamoAdd l a b c g t => [encSR l 0x07 a b c g 0, encTok t]
  | .xamoAnd l a b c g t => [encSR l 0x07 a b c g 1, encTok t]
  | .xamoOr l a b c g t => [encSR l 0x07 a b c g 2, encTok t]
  | .xamoXor l a b c g t => [encSR l 0x07 a b c g 3, encTok t]
  | .xamoMin l a b c g t => [encSR l 0x07 a b c g 4, encTok t]
  | .xamoMax l a b c g t => [encSR l 0x07 a b c g 5, encTok t]
  | .xamoMinu l a b c g t => [encSR l 0x07 a b c g 6, encTok t]
  | .xamoMaxu l a b c g t => [encSR l 0x07 a b c g 7, encTok t]
  | .xvamoOr l v a b g t => [encXV l 0x08 v a b g, encTok t]
  | .xvamoAdd l v a b g t => [encXV l 0x09 v a b g, encTok t]
  | .xvamoMin l v a b g t => [encXV l 0x0a v a b g, encTok t]
  | .xvamoMax l v a b g t => [encXV l 0x0b v a b g, encTok t]
  | .ownLend l a b c g t => [encSR l 0x10 a b c g 0, encTok t]
  | .ownRet l a g t => [encSR l 0x11 a 0 0 g 0, encTok t]
  | .ownSplit l a g t => [encSR l 0x12 a 0 0 g 0, encTok t]
  | .ownJoin l a g t => [encSR l 0x13 a 0 0 g 0, encTok t]
  | .ownQuery l a b g t => [encSR l 0x14 a b 0 g 0, encTok t]
  | .ownReclaim l a b g t => [encSR l 0x15 a b 0 g 0, encTok t]
  | .send l t a b g => [encXV l 0x18 t a b g]
  | .recv l t a b g => [encXV l 0x19 t a b g]
  | .ovl l a b c g t => [encSR l 0x1a a b c g 0, encTok t]
  | .replay l g t => [encSR l 0x1b 0 0 0 g 0, encTok t]
  | .resultLanding _ => []
  | .lockEntryRelease => []
  | .domainWakeComplete _ _ => []
  | .domainGating _ => []
  | .inrushRefill => []
  | .queueCommandBegin _ => []
  | .farAccessAtHome _ _ _ => []
  | .commandCompletion _ => []
  | .guardedOffPush _ => []
  | .waitKTokenTake => []
  | .ownershipQueueExecute => []
  | .crystallizerDispatch => []
  | .czIdleOff _ _ => []
  | .vaultSubbankWake _ _ _ _ => []
  | .vaultSubbankSleep _ _ _ _ => []
  | .backgroundScrub _ => []
  | .nestStart => []
  | .nestCompletion => []
  | .grammarRuleEvaluation => []
  | .gevCompletion => []
  | .rowPassCompletion _ => []
  | .phaseEnd _ => []
  | .alignedRegionBegin => []
  | .alignedRegionTimeout => []
  | .sendDelivery => []
  | .barrierEpisodeComplete _ _ => []
  | .sluiceResume => []
  | .impreciseTrapTaken => []
  | .watchdogExpiry => []
  | .dumpWrite _ => []
  | .teamRetire _ => []
  | .preemption _ _ => []
  | .contextSave _ => []
  | .contextRestore _ _ => []
  | .requestSubmit _ _ _ _ => []
  | .launchStart _ => []
  | .cohortStart _ => []
  | .transferNodeStart _ => []
  | .transformNodeStart _ => []
  | .signalNode _ => []
  | .waitNodeCheck _ => []
  | .nodeCompletion _ => []
  | .linkFailure _ => []
  | .weftUnreachable _ => []
  | .regionMove _ _ => []
  | .islandFrequencyChange _ _ => []
  | .invalidationComplete => []
  | .cxlMemAccess _ _ _ => []
  | .eventWrite _ => []
  | .evtailWrite _ _ => []
  | .regionCreate _ => []
  | .regionDestroy _ => []
  | .inval _ => []
  | .dumpreg _ => []
  | .counters _ => []
  | .lend _ => []
  | .hostReturn _ => []
  | .imgExport _ => []
  | .imgImport _ => []
  | .watch _ => []
  | .attest _ => []
  | .aqiBind _ => []
  | .aqiUnbind _ => []
  | .pasidSet _ => []
  | .pasidRevoke _ => []
  | .irqSet _ => []
  | .hdmBind _ => []
  | .devdump _ => []
  | .power _ => []
  | .weftId _ => []
  | .deviceWideDump => []
  | .weftRead _ => []
  | .weftReadData _ => []
  | .weftWrite _ => []
  | .weftWriteAcknowledge _ => []
  | .weftAtomic _ => []
  | .weftAtomicResult _ => []
  | .weftOwnership _ => []
  | .weftBarrier _ => []
  | .weftPause _ => []
  | .weftPauseExpiry _ => []
  | .weftLoomControl _ => []
  | .weftFlitDiscard _ => []
  | .deviceReset _ => []
  | .selvedgeFirmwareStage _ => []
  | .loomSelfTest _ => []
  | .linkTraining _ => []
  | .aqi0Enable => []
  | .hostReset _ => []
  | .debuggerHalt _ => []
  | .debuggerRelease _ => []

/-- The strand that issues an instruction; none for a step that no word encodes. -/
def Instr.strand : Instr → Option Strand
  | .add _ _ _ _ _ => some .s
  | .sub _ _ _ _ _ => some .s
  | .and _ _ _ _ _ => some .s
  | .or _ _ _ _ _ => some .s
  | .xor _ _ _ _ _ => some .s
  | .andn _ _ _ _ _ => some .s
  | .shl _ _ _ _ _ => some .s
  | .shr _ _ _ _ _ => some .s
  | .sar _ _ _ _ _ => some .s
  | .min _ _ _ _ _ => some .s
  | .max _ _ _ _ _ => some .s
  | .minu _ _ _ _ _ => some .s
  | .maxu _ _ _ _ _ => some .s
  | .clz _ _ _ _ => some .s
  | .ctz _ _ _ _ => some .s
  | .popc _ _ _ _ => some .s
  | .mul _ _ _ _ _ => some .s
  | .mulh _ _ _ _ _ => some .s
  | .mulhu _ _ _ _ _ => some .s
  | .div _ _ _ _ _ => some .s
  | .divu _ _ _ _ _ => some .s
  | .rem _ _ _ _ _ => some .s
  | .remu _ _ _ _ _ => some .s
  | .cmpEq _ _ _ _ _ => some .s
  | .cmpNe _ _ _ _ _ => some .s
  | .cmpLt _ _ _ _ _ => some .s
  | .cmpLtu _ _ _ _ _ => some .s
  | .cmpLe _ _ _ _ _ => some .s
  | .cmpLeu _ _ _ _ _ => some .s
  | .pand _ _ _ _ _ => some .s
  | .por _ _ _ _ _ => some .s
  | .pxor _ _ _ _ _ => some .s
  | .pnot _ _ _ _ => some .s
  | .sel _ _ _ _ _ => some .s
  | .wake _ _ _ => some .s
  | .sleep _ _ _ => some .s
  | .retain _ _ _ => some .s
  | .pwait _ _ _ => some .s
  | .addi _ _ _ _ => some .s
  | .andi _ _ _ _ => some .s
  | .ori _ _ _ _ => some .s
  | .xori _ _ _ _ => some .s
  | .shli _ _ _ _ => some .s
  | .shri _ _ _ _ => some .s
  | .sari _ _ _ _ => some .s
  | .lea _ _ _ _ => some .s
  | .ldB _ _ _ _ => some .s
  | .ldH _ _ _ _ => some .s
  | .ldW _ _ _ _ => some .s
  | .ldD _ _ _ _ => some .s
  | .stB _ _ _ _ => some .s
  | .stH _ _ _ _ => some .s
  | .stW _ _ _ _ => some .s
  | .stD _ _ _ _ => some .s
  | .lit _ _ _ _ => some .s
  | .litHi _ _ _ _ _ => some .s
  | .br _ _ _ _ => some .s
  | .jmp _ _ => some .s
  | .call _ _ => some .s
  | .loop _ _ _ => some .s
  | .rpt _ _ => some .s
  | .gap _ _ => some .s
  | .trap _ _ => some .s
  | .csrr _ _ _ => some .s
  | .csrw _ _ _ => some .s
  | .csrwLockmask _ _ => some .s
  | .csrwTrapvec _ _ => some .s
  | .csrwVwb _ _ => some .s
  | .csrwTwist _ _ => some .s
  | .csrwVshape _ _ => some .s
  | .csrwCzlist _ _ => some .s
  | .csrwAmax _ _ _ => some .s
  | .ret _ => some .s
  | .markR _ => some .s
  | .eret _ => some .s
  | .eretR _ => some .s
  | .done _ => some .s
  | .waitK _ _ => some .s
  | .qmark _ => some .s
  | .pmark _ _ => some .s
  | .realign _ _ => some .s
  | .unalign _ => some .s
  | .barArr _ _ => some .s
  | .barWait _ _ => some .s
  | .vadd _ _ _ _ => some .v
  | .vsub _ _ _ _ => some .v
  | .vmul _ _ _ _ => some .v
  | .vmulh _ _ _ _ => some .v
  | .vmulhu _ _ _ _ => some .v
  | .vmla _ _ _ _ => some .v
  | .vmin _ _ _ _ => some .v
  | .vmax _ _ _ _ => some .v
  | .vabs _ _ _ => some .v
  | .vneg _ _ _ => some .v
  | .vand _ _ _ _ => some .v
  | .vor _ _ _ _ => some .v
  | .vxor _ _ _ _ => some .v
  | .vandn _ _ _ _ => some .v
  | .vpopc _ _ _ => some .v
  | .vshl _ _ _ _ => some .v
  | .vshr _ _ _ _ => some .v
  | .vsar _ _ _ _ => some .v
  | .vsel _ _ _ _ => some .v
  | .vmov _ _ _ => some .v
  | .vbcast _ _ _ => some .v
  | .vperm _ _ _ _ => some .v
  | .vli _ _ _ => some .v
  | .vcmpEq _ _ _ _ => some .v
  | .vcmpNe _ _ _ _ => some .v
  | .vcmpLt _ _ _ _ => some .v
  | .vcmpLtu _ _ _ _ => some .v
  | .vcmpLe _ _ _ _ => some .v
  | .vcmpLeu _ _ _ _ => some .v
  | .vredAdd _ _ _ => some .v
  | .vredMax _ _ _ => some .v
  | .vredMin _ _ _ => some .v
  | .vwmul _ _ _ _ => some .v
  | .vwadd _ _ _ _ => some .v
  | .vnarrow _ _ _ => some .v
  | .vld _ _ _ _ => some .v
  | .vst _ _ _ _ => some .v
  | .vldx _ _ _ => some .v
  | .vstx _ _ _ => some .v
  | .vamoOr _ _ _ _ => some .v
  | .vamoAdd _ _ _ _ => some .v
  | .vamoMin _ _ _ _ => some .v
  | .vamoMax _ _ _ _ => some .v
  | .vshape _ _ => some .v
  | .vwin _ _ _ => some .v
  | .vrot _ => some .v
  | .vfadd _ _ _ _ => some .v
  | .vfsub _ _ _ _ => some .v
  | .vfmul _ _ _ _ => some .v
  | .vfma _ _ _ _ => some .v
  | .vfmin _ _ _ _ => some .v
  | .vfmax _ _ _ _ => some .v
  | .vcvt _ _ _ _ => some .v
  | .vcvtMx _ _ _ _ _ _ => some .v
  | .vexp2 _ _ _ => some .v
  | .vlog2 _ _ _ => some .v
  | .vrcp _ _ _ => some .v
  | .vrsqrt _ _ _ => some .v
  | .vtanh _ _ _ => some .v
  | .vwfUpd _ _ _ _ => some .v
  | .vwfMrg _ _ _ _ => some .v
  | .rowmax _ _ _ => some .v
  | .rowexp _ _ _ _ => some .v
  | .rowscl _ _ _ => some .v
  | .mcfg _ _ _ => some .m
  | .mstream _ _ _ _ => some .m
  | .mnest _ _ _ _ => some .m
  | .mgo _ _ _ => some .m
  | .mdrain _ _ => some .m
  | .mzero _ _ _ => some .m
  | .mgang _ _ _ => some .m
  | .mstat _ _ _ _ _ => some .m
  | .gset _ _ _ => some .m
  | .gev _ _ _ => some .m
  | .gout _ _ _ _ => some .m
  | .gstat _ _ _ _ => some .m
  | .xcopy _ _ _ _ _ _ => some .x
  | .xblk _ _ _ _ _ _ => some .x
  | .xpak _ _ _ _ _ _ => some .x
  | .xunp _ _ _ _ _ _ => some .x
  | .xfld _ _ _ _ _ _ => some .x
  | .xfst _ _ _ _ _ _ => some .x
  | .xamoAdd _ _ _ _ _ _ => some .x
  | .xamoAnd _ _ _ _ _ _ => some .x
  | .xamoOr _ _ _ _ _ _ => some .x
  | .xamoXor _ _ _ _ _ _ => some .x
  | .xamoMin _ _ _ _ _ _ => some .x
  | .xamoMax _ _ _ _ _ _ => some .x
  | .xamoMinu _ _ _ _ _ _ => some .x
  | .xamoMaxu _ _ _ _ _ _ => some .x
  | .xvamoOr _ _ _ _ _ _ => some .x
  | .xvamoAdd _ _ _ _ _ _ => some .x
  | .xvamoMin _ _ _ _ _ _ => some .x
  | .xvamoMax _ _ _ _ _ _ => some .x
  | .ownLend _ _ _ _ _ _ => some .x
  | .ownRet _ _ _ _ => some .x
  | .ownSplit _ _ _ _ => some .x
  | .ownJoin _ _ _ _ => some .x
  | .ownQuery _ _ _ _ _ => some .x
  | .ownReclaim _ _ _ _ _ => some .x
  | .send _ _ _ _ _ => some .x
  | .recv _ _ _ _ _ => some .x
  | .ovl _ _ _ _ _ _ => some .x
  | .replay _ _ _ => some .x
  | .resultLanding _ => none
  | .lockEntryRelease => none
  | .domainWakeComplete _ _ => none
  | .domainGating _ => none
  | .inrushRefill => none
  | .queueCommandBegin _ => none
  | .farAccessAtHome _ _ _ => none
  | .commandCompletion _ => none
  | .guardedOffPush _ => none
  | .waitKTokenTake => none
  | .ownershipQueueExecute => none
  | .crystallizerDispatch => none
  | .czIdleOff _ _ => none
  | .vaultSubbankWake _ _ _ _ => none
  | .vaultSubbankSleep _ _ _ _ => none
  | .backgroundScrub _ => none
  | .nestStart => none
  | .nestCompletion => none
  | .grammarRuleEvaluation => none
  | .gevCompletion => none
  | .rowPassCompletion _ => none
  | .phaseEnd _ => none
  | .alignedRegionBegin => none
  | .alignedRegionTimeout => none
  | .sendDelivery => none
  | .barrierEpisodeComplete _ _ => none
  | .sluiceResume => none
  | .impreciseTrapTaken => none
  | .watchdogExpiry => none
  | .dumpWrite _ => none
  | .teamRetire _ => none
  | .preemption _ _ => none
  | .contextSave _ => none
  | .contextRestore _ _ => none
  | .requestSubmit _ _ _ _ => none
  | .launchStart _ => none
  | .cohortStart _ => none
  | .transferNodeStart _ => none
  | .transformNodeStart _ => none
  | .signalNode _ => none
  | .waitNodeCheck _ => none
  | .nodeCompletion _ => none
  | .linkFailure _ => none
  | .weftUnreachable _ => none
  | .regionMove _ _ => none
  | .islandFrequencyChange _ _ => none
  | .invalidationComplete => none
  | .cxlMemAccess _ _ _ => none
  | .eventWrite _ => none
  | .evtailWrite _ _ => none
  | .regionCreate _ => none
  | .regionDestroy _ => none
  | .inval _ => none
  | .dumpreg _ => none
  | .counters _ => none
  | .lend _ => none
  | .hostReturn _ => none
  | .imgExport _ => none
  | .imgImport _ => none
  | .watch _ => none
  | .attest _ => none
  | .aqiBind _ => none
  | .aqiUnbind _ => none
  | .pasidSet _ => none
  | .pasidRevoke _ => none
  | .irqSet _ => none
  | .hdmBind _ => none
  | .devdump _ => none
  | .power _ => none
  | .weftId _ => none
  | .deviceWideDump => none
  | .weftRead _ => none
  | .weftReadData _ => none
  | .weftWrite _ => none
  | .weftWriteAcknowledge _ => none
  | .weftAtomic _ => none
  | .weftAtomicResult _ => none
  | .weftOwnership _ => none
  | .weftBarrier _ => none
  | .weftPause _ => none
  | .weftPauseExpiry _ => none
  | .weftLoomControl _ => none
  | .weftFlitDiscard _ => none
  | .deviceReset _ => none
  | .selvedgeFirmwareStage _ => none
  | .loomSelfTest _ => none
  | .linkTraining _ => none
  | .aqi0Enable => none
  | .hostReset _ => none
  | .debuggerHalt _ => none
  | .debuggerRelease _ => none

/-- Decoding an encoded instruction on the strand that issues it. -/
def decodeEncoded (i : Instr) : Except DecErr Instr :=
  match i.strand, encode i with
  | some st, [w] => decodeWords st w 0
  | some st, [w, w1] => decodeWords st w w1
  | _, _ => .error .short

/-- The bytes of a table word: `nbits` bits of `w`, the first word at the lowest address, and zeros after
them up to the longest instruction, eight bytes (R33). -/
def tableBytes (nbits w : Nat) : List Byte :=
  let v := w % 2 ^ nbits
  wordBytes v ++ wordBytes (v / 2 ^ 32)

/-- The strand a table word is read for. The table's words do not name their strand, and the four opcode
maps overlap (R46 to R49): the first strand in the order S, V, M, X whose decoder accepts the word. -/
def tableStrand (nbits w : Nat) : Option Strand :=
  [Strand.s, .v, .m, .x].find? fun st => (decode st (tableBytes nbits w)).toBool

/-- The instruction the decoder reads from a word of the table. -/
def decodeTableWord (nbits w : Nat) : Option Instr :=
  match tableStrand nbits w with
  | some st => ((decode st (tableBytes nbits w)).toOption).map (·.1)
  | none => none

end Sys2Proof
end

