-- ==== Sys2Proof/Machine/Far.lean ====
section
/-! DEFINITION. Far memory: the division of the DPA space, the two-stage translation, the actions at a granule's
home, machine checks and far watchpoints (R71 to R91, R259, R363 to R366). -/

namespace Sys2Proof.Machine

/-! ### The DPA space (R76, R77) -/

/-- What a DPA names. -/
inductive Target where
  | dram (stack : Nat)
  | vault (die pan bank : Nat)
  | control
  | remote (dev : Nat)
  | unassigned
deriving DecidableEq, Repr

/-- The target of a DPA (R76). -/
def targetOf (d : Nat) : Target :=
  if bitOf d 51 then .remote (bits d 50 43)
  else if d ≥ 0x80000000000 then (if d ≤ 0xFFFFFFFFFFF then .control else .unassigned)
  else if d ≥ 0x40000000000 then
    let o := d - 0x40000000000
    let die := o / 0x40000000
    let pan := o % 0x40000000 / 0x4000000
    let off := o % 0x4000000
    if die < 24 ∧ pan < 8 ∧ off < 0x3000000 then .vault die pan (off / 0x600000) else .unassigned
  else
    if d / 0x1000000000 < 24 ∧ d % 0x1000000000 < 0x800000000 then .dram (d / 0x1000000000) else .unassigned

/-- Whether a DPA lies on a die: its stack or its vaults. -/
def onDie (die d : Nat) : Bool :=
  match targetOf d with
  | .dram k => k == die
  | .vault k _ _ => k == die
  | _ => false

/-- A remote DPA that names this device is served locally (R77). -/
def State.localDpa (s : State) (d : Nat) : Nat :=
  if bitOf d 51 ∧ bits d 50 43 = s.dev.weftId then d % 2 ^ 43 else d

/-! ### Translation (R78 to R82) -/

/-- One table entry at a DPA: tables in DRAM and vaults are memory; the loom's tables in control space are not
given by the manual. -/
def State.tableEntry (s : State) (dpa : Nat) : Nat :=
  match targetOf dpa with
  | .dram _ => leNat (s.mem.readAll dpa 8)
  | .vault _ _ _ => leNat (s.mem.readAll dpa 8)
  | _ => (Config.hostTable dpa).toNat

/-- The levels of a walk: the lowest bit of the index, its entries, whether a leaf may stand there (R79, R80). -/
def walkLevels : List (Nat × Nat × Bool) := [(48, 256, false), (39, 512, false), (30, 512, true), (21, 512, true), (16, 32, true)]

/-- A translation in a stage: the page's base and size, and whether an entry on the way was malformed (kind 7). -/
abbrev Walked := (Nat × Nat) × Bool

/-- A stage's walk from a table address: `read` gives an entry or fails, `kV` and `kW` are the stage's kinds for an
invalid entry, or one at level 4 that is no leaf, and for a write through a read-only leaf. A malformed entry is followed to its
end, since every check of kinds 3 to 6 comes before that of kind 7 (R82). -/
def walk (read : Nat → Except Nat (Nat × Bool)) (kV kW : Nat) (write : Bool) (addr : Nat) (bad : Bool) :
    List (Nat × Nat × Bool) → Nat → Except Nat Walked
  | [], _ => .error kV
  | (lo, n, leafOk) :: ls, table =>
    match read (table + 8 * (addr / 2 ^ lo % n)) with
    | .error k => .error k
    | .ok (e, b) =>
      let leaf := bitOf e 1
      let target := 2 ^ 12 * bits e 51 12
      let bad := bad || b || decide (bits e 63 52 ≠ 0 ∨ bits e 11 3 ≠ 0) || (leaf && (!leafOk || decide (target % 2 ^ lo ≠ 0)))
      if !bitOf e 0 || (ls.isEmpty && !leaf) then .error kV
      else if leaf && write && !bitOf e 2 then .error kW
      else if leaf then .ok ((target, 2 ^ lo), bad)
      else walk read kV kW write addr bad ls target

/-- Whether no region's storage overlaps a run of DPAs (R92). -/
def State.unbacked (s : State) (a n : Nat) : Bool :=
  s.dev.homed.all fun h => h.store.all fun b => decide (b + 2 ^ h.blk ≤ a ∨ a + n ≤ b)

/-- A host-stage table entry: only the loom writes those tables, so none lies in a region's storage (R79, R80, R92). -/
def State.hostEntry (s : State) (dpa : Nat) : Nat :=
  if s.unbacked dpa 8 then s.tableEntry dpa else (Config.hostTable dpa).toNat

/-- The host stage: an IA to a DPA page (R79): by a leaf that the loom wrote for a homed region, else by the tables as they
stood before; both permit what R80 has them say, the loom's leaves writes as well (log 74). No other entry than its own leaf
gives a region's storage (R92). -/
def State.hostStage (s : State) (hroot : Nat) (write : Bool) (ia : Nat) : Except Nat Walked :=
  match s.dev.leaves.find? fun l => l.root == hroot && l.ia == ia / 2 ^ l.log with
  | some l => .ok ((l.dpa, 2 ^ l.log), false)
  | none => match walk (fun a => .ok (s.hostEntry (s.localDpa a), false)) 5 6 write ia false walkLevels hroot with
    | .error k => .error k
    | .ok w => if s.unbacked w.1.1 w.1.2 then .ok w else .error 5

/-- The address within a page. -/
def inPage (p : Nat × Nat) (a : Nat) : Nat := p.1 + a % p.2

/-- Whether accesses under a PASID may be to a region: its own PASID, or that of an AQI or a team of its context. -/
def State.translates (s : State) (pasid : Nat) (r : Region) : Bool :=
  r.pasid == pasid || s.dev.aqis.any (fun q => q.2.bound && q.2.pasid == pasid && q.2.ctx == r.ctx)
    || s.teams.any fun t => t.pasid == pasid && t.ctx == r.ctx

/-- Whether the path to an address's home is lost: its device, the die of its memory, or its region's home die (R91,
R110). -/
def State.pathLost (s : State) (pasid va dpa : Nat) : Bool :=
  (match targetOf dpa with
   | .remote d => s.dev.unreachable.contains d
   | .dram d => s.dev.lostDies.contains d
   | .vault d _ _ => s.dev.lostDies.contains d
   | _ => false)
  || s.dev.regions.any fun r =>
    s.translates pasid r && decide (r.base ≤ va) && decide (va < r.base + 2 ^ r.sz) && s.dev.lostDies.contains r.home

/-- HROOT and CROOT of a PASID entry, as addresses (R78). -/
def hrootOf (e : Nat) : Nat := 2 ^ 12 * bits e 115 76
def crootOf (e : Nat) : Nat := 2 ^ 12 * bits e 51 12

/-- The context stage of a PASID entry: a virtual address to an IA page, each table access by the host stage (R79). -/
def State.ctxStage (s : State) (e : Nat) (write : Bool) (va : Nat) : Except Nat Walked :=
  let read (ia : Nat) : Except Nat (Nat × Bool) :=
    match s.hostStage (hrootOf e) false ia with
    | .error k => .error k
    | .ok p => .ok (s.tableEntry (s.localDpa (inPage p.1 ia)), p.2)
  walk read 3 4 write va false walkLevels (crootOf e)

/-- The translation of a far virtual address under a PASID: the effective page or the kind of R82. -/
def State.walkVa (s : State) (pasid va : Nat) (write : Bool) : Except Nat Pin :=
  let e := (look 0 s.dev.pasids pasid).toNat
  if va ≥ 2 ^ 56 then .error 0
  else if !bitOf e 0 then .error 1
  else if bitOf e 1 then .error 2
  else
    match s.ctxStage e write va with
    | .error k => .error k
    | .ok cp =>
      match s.hostStage (hrootOf e) write (inPage cp.1 va) with
      | .error k => .error k
      | .ok hp =>
        let size := min cp.1.2 hp.1.2
        let dpa := s.localDpa (inPage hp.1 (inPage cp.1 va))
        let page : Except Nat Pin :=
          if s.pathLost pasid va dpa then .error 10 else .ok ⟨va - va % size, dpa - dpa % size, size, write⟩
        if cp.2 || hp.2 then .error 7
        else match targetOf dpa with
        | .remote d => if d ≥ 192 then .error 9 else page
        | .dram _ => page
        | .vault _ _ _ => page
        | _ => .error 8

/-- Whether a page holds an address and serves an access. -/
def Pin.serves (p : Pin) (va : Nat) (write : Bool) : Bool :=
  decide (p.va ≤ va) && decide (va < p.va + p.size) && (p.w || !write)

/-- A translation as the device makes it: the tables', or one cached before a change that no invalidation has
covered yet, the same for the whole page (R83); a revoked PASID (R386) and a lost path fail either way (R82). -/
def State.xlate (s : State) (pasid va : Nat) (write : Bool) : Except Nat Pin :=
  match s.dev.tlb.find? fun e => e.1 == pasid && e.2.serves va write with
  | some e =>
    if bitOf (look 0 s.dev.pasids pasid).toNat 1 || !s.flip (slotOf 12 0 e.2.va) then s.walkVa pasid va write
    else if s.pathLost pasid va (e.2.dpa + (va - e.2.va)) then .error 10
    else .ok e.2
  | none => s.walkVa pasid va write

/-- A translation made is cached (R83). -/
def State.cacheXlate (s : State) (pasid : Nat) (p : Pin) : State :=
  if s.dev.tlb.contains (pasid, p) then s else s.onDev fun d => { d with tlb := (pasid, p) :: d.tlb }

/-- The DPA of an address under pinned pages. -/
def pinnedDpa (pins : List Pin) (va : Nat) : Nat :=
  match pins.find? fun p => p.serves va false with
  | some p => p.dpa + (va - p.va)
  | none => 0

/-! ### Events of an AQI (R383) -/

/-- An event joins those that wait: at most 256 do; one that finds no room joins them once there is (R383, log 103). -/
def Aqi.addEvent (q : Aqi) (e : BitVec 128) : Aqi :=
  if q.waiting.length < 256 ∧ q.held = [] then { q with waiting := q.waiting ++ [e] } else { q with held := q.held ++ [e] }

/-- The first waiting event goes, and one that found no room takes its place. -/
def Aqi.dropEvent (q : Aqi) : Aqi := { q with waiting := q.waiting.drop 1 ++ q.held.take 1, held := q.held.drop 1 }

/-- An event waits to be written to an AQI's ring. -/
def State.event (s : State) (aqi tag evt code data : Nat) : State :=
  s.onDev fun d => { d with aqis := d.aqis.map fun e =>
    if e.1 = aqi then
      (e.1, e.2.addEvent (BitVec.ofNat 128 (2 ^ 96 * tag + 2 ^ 84 * aqi + 2 ^ 80 * evt + 2 ^ 72 * code + data % 2 ^ 64)))
    else e }

/-- The AQI of a context: the lowest-numbered that is bound to it. -/
def State.aqiOf (s : State) (ctx : Nat) : Option Nat :=
  (s.dev.aqis.find? fun e => e.2.bound && e.2.ctx == ctx).map (·.1)

/-! ### Storage of regions (R29, R92) -/

/-- Where the i-th part of 64 KiB of a region's storage begins. -/
def Homed.part (h : Homed) (i : Nat) : Nat := h.store.getD (i / 2 ^ (h.blk - 16)) 0 + i % 2 ^ (h.blk - 16) * 0x10000

/-- The 64 KiB parts of a region: virtual address and DPA, in order. -/
def State.regionParts (s : State) (r : Region) : List (Nat × Nat) :=
  match s.dev.homed.find? fun h => h.ctx == r.ctx && decide (h.base ≤ r.base) && decide (r.base + 2 ^ r.sz ≤ h.base + 2 ^ h.sz) with
  | none => []
  | some h => (List.range (2 ^ (r.sz - 16))).map fun i => (r.base + 0x10000 * i, h.part ((r.base - h.base) / 0x10000 + i))

/-- Whether a token of a region is lent: its WRITE token is not with its first holder, or shares are out (R30, R85). -/
def Region.lentOut (r : Region) : Bool := r.owner != r.lender || r.shares != 0

/-! ### Machine checks (R87, R88) -/

/-- The region of a context that holds an address. -/
def State.regionOf (s : State) (ctx va : Nat) : Option Region :=
  s.dev.regions.find? fun r => r.ctx == ctx && decide (r.base ≤ va) && decide (va < r.base + 2 ^ r.sz)

/-- Raises an imprecise trap on every core of a resident team: R88 does not say which cores of a gang take its machine check
(DESIGN CHOICE, log 75). -/
def State.raiseTeam (s : State) (id : TeamId) (t : Trap) : State :=
  s.onCores fun c => if c.team = some id then { c with impr := c.impr ++ [t] } else c

/-- A machine check for a granule of a context's address (R88): to every resident team that holds a token of the
region; else to the context's next completion record and its AQI; outside every region to the device owner. -/
def State.machineCheck (s : State) (ctx va finder : Nat) : State :=
  match s.regionOf ctx va with
  | none => s.onDev fun d => { d with ownerReports := d.ownerReports + 1 }
  | some r =>
    let hit := s.teams.filter fun t => (decide (t.status = .resident) || decide (t.status = .draining)) && t.ctx == ctx
      && t.holdings.any fun h => decide (h.base ≤ va) && decide (va < h.base + 2 ^ h.sz)
    if hit ≠ [] then
      hit.foldl (fun s t => s.raiseTeam t.id ⟨20, info 12 (2 ^ 56 * finder + va / 32 % 2 ^ 51)⟩) s
    else
      let s := s.onDev fun d => { d with mchecks := d.mchecks ++ [⟨ctx, r.base, va / 32 * 32 - r.base, finder⟩] }
      match s.aqiOf ctx with
      | some a => s.event a 0 3 0 r.base
      | none => s

/-! ### Actions at a granule's home (R72, R87, R259) -/

/-- What a granule holds before the action that comes is kept, as a reader that nothing orders after that action may still see it
(R259, R263). -/
def State.keepPast (s : State) (dpa : Nat) : State :=
  s.onDev fun d => { d with
    actions := d.actions + 1
    past := ⟨dpa / 32, d.actions + 1, s.mem.readAll (dpa / 32 * 32) 32⟩ :: d.past }

/-- Zero-fills the granule of a DPA. -/
def State.fillGranule (s : State) (dpa : Nat) : State :=
  { s.keepPast dpa with mem := s.mem.writeAll (dpa / 32 * 32) (List.replicate 32 0) }

/-- Whether a granule is one that a rolled-back command leaves unspecified (R128). -/
def State.vagueAt (s : State) (dpa : Nat) : Bool := s.dev.vague.any fun v => v.granule == dpa / 32

/-- An access that reads a granule may find an error that ECC corrects: nothing shows it but a count that the device owner
reads (R86). -/
def State.eccCount (s : State) (dpa : Nat) : State :=
  s.onDev fun d => { d with corrected := d.corrected + if s.flip (slotOf 14 3 (dpa / 32)) then 1 else 0 }

/-- A read of bytes of one granule: an uncorrectable error fills it with zeros and raises the machine check. -/
def State.homeRead (s : State) (ctx va dpa n : Nat) (ecc : Bool) : State × List Byte :=
  if ecc then ((s.fillGranule dpa).machineCheck ctx va 0, List.replicate n 0)
  else (s.eccCount dpa, if s.vagueAt dpa then (List.range n).map fun i => s.free (slotOf 14 5 (dpa + i)) 8
    else s.mem.readAll dpa n)

/-- A write of bytes of one granule, given by DPA: one that covers the granule reads nothing, any other merges and
may find an error. -/
def State.homeWrite (s : State) (ctx va : Nat) (cells : List (Nat × Byte)) (ecc : Bool) : State :=
  match cells with
  | [] => s
  | (d, _) :: _ =>
    let s := if decide (cells.length < 32) then (if ecc then (s.fillGranule d).machineCheck ctx va 1 else s.eccCount d) else s
    let s := s.keepPast d
    { s with mem := cells.foldl (fun m e => m.write e.1 e.2) s.mem }

/-! ### What the focus core may see of other agents' actions (R261 to R263, R268) -/

/-- The earlier contents of a granule that no edge of R261 hides from the focus core: those before an action that came after
its last acquire and after its own last access there. -/
def State.earlier (s : State) (dpa : Nat) : List (List Byte) :=
  (s.dev.past.filter fun e => e.granule == dpa / 32 && decide (max s.core.acq (look 0 s.core.seen (dpa / 32)) < e.stamp)).map (·.bytes)

/-- Bytes of one granule as a read of the focus core sees them, `now` being what the granule holds: those, or earlier ones, as
though the read came before the actions since (R263). -/
def State.asSeen (s : State) (dpa n : Nat) (now : List Byte) : List Byte :=
  let old := s.earlier dpa
  match old[s.pick (slotOf 14 7 (dpa / 32)) old.length]? with
  | some bs => (bs.drop (dpa % 32)).take n
  | none => now

/-- The focus core has made an access to a granule: its later ones there see no less (R263). -/
def State.sawGranule (s : State) (dpa : Nat) : State :=
  s.onCore fun c => { c with seen := put 0 c.seen (dpa / 32) s.dev.actions }

/-- Every core of a team acquires, saved ones too: a token has come to its holdings (R103, R261). -/
def State.acquireTeam (s : State) (id : TeamId) : State :=
  let f (c : Core) : Core := if c.team = some id then c.acquireAt s.dev.actions else c
  { s.onCores f with teams := s.teams.map fun t => if t.id = id then { t with image := t.image.map (Core.acquireAt s.dev.actions) } else t }

/-! ### Watchpoints on far bytes (R365, R366) -/

/-- The match of one of the team's own commands, kept until it completes: the lowest-numbered watchpoint, its bytes
gathered. -/
def mergeWatch (a b : Option (Nat × Nat × Nat)) : Option (Nat × Nat × Nat) :=
  match a, b with
  | none, x => x
  | x, none => x
  | some (n, k, h), some (m, j, g) =>
    if n < m then some (n, k, h) else if m < n then some (m, j, g) else some (n, k, h ||| g)

/-- An atomic performed at home on bytes of a context, by the agent of a team or another: CODE 19 on each core of the
context's other teams whose watchpoint it matches. -/
def State.atomicWatch (s : State) (ctx : Nat) (by_ : Option TeamId) (vas : List Nat) : State :=
  let others := s.teams.filter fun t => t.ctx == ctx && decide (some t.id ≠ by_)
  let hitCore (c : Core) : Core :=
    match c.watchHit 2 2 vas with
    | some (n, k, h) => { c with impr := c.impr ++ [⟨19, info 12 (2 ^ 58 * n + 2 ^ 56 * k + h)⟩] }
    | none => c
  let s := s.onCores fun c => if others.any fun t => decide (c.team = some t.id) then hitCore c else c
  others.foldl (fun s t => s.onTeam t.id fun t => { t with image := t.image.map hitCore }) s

end Sys2Proof.Machine
end

