-- ==== Sys2Proof/Machine/Lanes.lean ====
section
/-! DEFINITION. The weft's lanes (R387 to R390): flits that go out, and those that a pause or the loss of every port holds back. -/

namespace Sys2Proof.Machine

/-- Whether a lane may send: it is not paused, and some port is there (R389, R390). -/
def State.laneOpen (s : State) (vl : Nat) : Bool := look 0 s.dev.paused vl == 0 && decide (s.dev.lostPorts.length < 144)

/-- A flit goes out: its lane's sequence number advances (R388). -/
def State.emit (s : State) (dst vl type xid : Nat) (payload : List Byte) : State :=
  let n := look 0 s.dev.weftSeq vl
  s.onDev fun d => { d with
    weftSeq := put 0 d.weftSeq vl ((n + 1) % 2 ^ 16)
    weftOut := d.weftOut ++ [Flit.of dst d.weftId vl type n xid payload] }

/-- A flit from this device: it goes out, or waits behind others of its lane or for a pause to end (R388, R389). -/
def State.sendFlit (s : State) (dst vl type xid : Nat) (payload : List Byte) : State :=
  if s.laneOpen vl ∧ s.dev.weftHeld.all (fun e => e.2.vl != vl) then s.emit dst vl type xid payload
  else s.onDev fun d => { d with weftHeld := d.weftHeld ++ [(s.cycle, Flit.of dst d.weftId vl type 0 xid payload)] }

/-- The flits that no pause holds back any more go out, in order (R389). -/
def State.flushFlits (s : State) : State :=
  let held := s.dev.weftHeld
  let out (e : Nat × Flit) : Bool := s.laneOpen e.2.vl
  let s := s.onDev fun d => { d with weftHeld := held.filter fun e => !out e }
  (held.filter out).foldl (fun s e => s.emit e.2.dst e.2.vl e.2.type e.2.xid e.2.payload) s

end Sys2Proof.Machine
end

