-- ==== Sys2Proof/Machine/SAlu.lean ====
section
/-! DEFINITION. The S strand's integer arithmetic, compares, predicates, select, immediates, literals and `lea`
(R273 to R281). -/

namespace Sys2Proof.Machine

/-- The issue of an S.R word. -/
def sr (cls : Nat) (l : Bool) (g : Guard) : Issue := { st := .s, cls := cls, l := l, g := some g }

/-- The issue of an S word without a guard. -/
def si (cls : Nat) (l : Bool) : Issue := { st := .s, cls := cls, l := l }

/-- A two-source integer instruction: both operands are read at issue, the result lands in `sd` (R273, R275). -/
def sBin (cls : Nat) (l : Bool) (sd sa sb : Nat) (g : Guard) (f : Word → Word → Word) (s : State) : Out :=
  s.issue (sr cls l g) (fun _ => []) fun s' => s'.land cls (.s sd) (f (s.readS 0 sa) (s.readS 1 sb)).toNat

/-- A one-source integer instruction. -/
def sUn (l : Bool) (sd sa : Nat) (g : Guard) (f : Word → Word) (s : State) : Out :=
  s.issue (sr 0 l g) (fun _ => []) fun s' => s'.land 0 (.s sd) (f (s.readS 0 sa)).toNat

/-- Shifts by the whole second operand (R275). -/
def shlW (a : Word) (k : Nat) : Word := if k < 64 then a <<< k else 0
def shrW (a : Word) (k : Nat) : Word := if k < 64 then a >>> k else 0
def sarW (a : Word) (k : Nat) : Word := a.sshiftRight (min k 63)

/-- Leading and trailing zero bits, and one bits, of a 64-bit pattern (R275). -/
def clzW (a : Word) : Word := BitVec.ofNat 64 (((List.range 64).find? fun i => a.getLsbD (63 - i)).getD 64)
def ctzW (a : Word) : Word := BitVec.ofNat 64 (((List.range 64).find? fun i => a.getLsbD i).getD 64)
def popcW (a : Word) : Word := BitVec.ofNat 64 ((List.range 64).filter fun i => a.getLsbD i).length

/-- Products (R275). -/
def mulhW (a b : Word) : Word := BitVec.ofInt 64 (a.toInt * b.toInt / 2 ^ 64)
def mulhuW (a b : Word) : Word := BitVec.ofNat 64 (a.toNat * b.toNat / 2 ^ 64)

/-- Division and remainder; a zero divisor gives all ones and the dividend (R275). -/
def divW (a b : Word) : Word := if b = 0 then BitVec.allOnes 64 else BitVec.ofInt 64 (a.toInt.tdiv b.toInt)
def divuW (a b : Word) : Word := if b = 0 then BitVec.allOnes 64 else BitVec.ofNat 64 (a.toNat / b.toNat)
def remW (a b : Word) : Word :=
  if b = 0 then a else BitVec.ofInt 64 (a.toInt - b.toInt * a.toInt.tdiv b.toInt)
def remuW (a b : Word) : Word := if b = 0 then a else BitVec.ofNat 64 (a.toNat % b.toNat)

/-- ADD (R275). -/
def execAdd (l : Bool) (sd sa sb : Nat) (g : Guard) (s : State) : Out := sBin 0 l sd sa sb g (fun a b => a + b) s
/-- SUB (R275). -/
def execSub (l : Bool) (sd sa sb : Nat) (g : Guard) (s : State) : Out := sBin 0 l sd sa sb g (fun a b => a - b) s
/-- AND (R275). -/
def execAnd (l : Bool) (sd sa sb : Nat) (g : Guard) (s : State) : Out := sBin 0 l sd sa sb g (fun a b => a &&& b) s
/-- OR (R275). -/
def execOr (l : Bool) (sd sa sb : Nat) (g : Guard) (s : State) : Out := sBin 0 l sd sa sb g (fun a b => a ||| b) s
/-- XOR (R275). -/
def execXor (l : Bool) (sd sa sb : Nat) (g : Guard) (s : State) : Out := sBin 0 l sd sa sb g (fun a b => a ^^^ b) s
/-- ANDN (R275). -/
def execAndn (l : Bool) (sd sa sb : Nat) (g : Guard) (s : State) : Out :=
  sBin 0 l sd sa sb g (fun a b => a &&& ~~~b) s
/-- SHL (R275). -/
def execShl (l : Bool) (sd sa sb : Nat) (g : Guard) (s : State) : Out :=
  sBin 0 l sd sa sb g (fun a b => shlW a b.toNat) s
/-- SHR (R275). -/
def execShr (l : Bool) (sd sa sb : Nat) (g : Guard) (s : State) : Out :=
  sBin 0 l sd sa sb g (fun a b => shrW a b.toNat) s
/-- SAR (R275). -/
def execSar (l : Bool) (sd sa sb : Nat) (g : Guard) (s : State) : Out :=
  sBin 0 l sd sa sb g (fun a b => sarW a b.toNat) s
/-- MIN (R275). -/
def execMin (l : Bool) (sd sa sb : Nat) (g : Guard) (s : State) : Out :=
  sBin 0 l sd sa sb g (fun a b => if a.toInt ≤ b.toInt then a else b) s
/-- MAX (R275). -/
def execMax (l : Bool) (sd sa sb : Nat) (g : Guard) (s : State) : Out :=
  sBin 0 l sd sa sb g (fun a b => if a.toInt ≤ b.toInt then b else a) s
/-- MINU (R275). -/
def execMinu (l : Bool) (sd sa sb : Nat) (g : Guard) (s : State) : Out :=
  sBin 0 l sd sa sb g (fun a b => if a.toNat ≤ b.toNat then a else b) s
/-- MAXU (R275). -/
def execMaxu (l : Bool) (sd sa sb : Nat) (g : Guard) (s : State) : Out :=
  sBin 0 l sd sa sb g (fun a b => if a.toNat ≤ b.toNat then b else a) s
/-- CLZ (R275). -/
def execClz (l : Bool) (sd sa : Nat) (g : Guard) (s : State) : Out := sUn l sd sa g clzW s
/-- CTZ (R275). -/
def execCtz (l : Bool) (sd sa : Nat) (g : Guard) (s : State) : Out := sUn l sd sa g ctzW s
/-- POPC (R275). -/
def execPopc (l : Bool) (sd sa : Nat) (g : Guard) (s : State) : Out := sUn l sd sa g popcW s
/-- MUL (R275). -/
def execMul (l : Bool) (sd sa sb : Nat) (g : Guard) (s : State) : Out := sBin 1 l sd sa sb g (fun a b => a * b) s
/-- MULH (R275). -/
def execMulh (l : Bool) (sd sa sb : Nat) (g : Guard) (s : State) : Out := sBin 1 l sd sa sb g mulhW s
/-- MULHU (R275). -/
def execMulhu (l : Bool) (sd sa sb : Nat) (g : Guard) (s : State) : Out := sBin 1 l sd sa sb g mulhuW s
/-- DIV (R275). -/
def execDiv (l : Bool) (sd sa sb : Nat) (g : Guard) (s : State) : Out := sBin 2 l sd sa sb g divW s
/-- DIVU (R275). -/
def execDivu (l : Bool) (sd sa sb : Nat) (g : Guard) (s : State) : Out := sBin 2 l sd sa sb g divuW s
/-- REM (R275). -/
def execRem (l : Bool) (sd sa sb : Nat) (g : Guard) (s : State) : Out := sBin 2 l sd sa sb g remW s
/-- REMU (R275). -/
def execRemu (l : Bool) (sd sa sb : Nat) (g : Guard) (s : State) : Out := sBin 2 l sd sa sb g remuW s

/-- All 1,024 bits of a predicate set to one bit (R158). -/
def allBits (b : Bool) : Nat := if b then 2 ^ 1024 - 1 else 0

/-- A compare: one bit to every bit of `pd` (R276). -/
def sCmp (l : Bool) (pd sa sb : Nat) (g : Guard) (f : Word → Word → Bool) (s : State) : Out :=
  s.issue (sr 0 l g) (fun _ => []) fun s' => s'.land 0 (.p pd) (allBits (f (s.readS 0 sa) (s.readS 1 sb)))

/-- CMP_EQ (R276). -/
def execCmpEq (l : Bool) (pd sa sb : Nat) (g : Guard) (s : State) : Out := sCmp l pd sa sb g (fun a b => a == b) s
/-- CMP_NE (R276). -/
def execCmpNe (l : Bool) (pd sa sb : Nat) (g : Guard) (s : State) : Out := sCmp l pd sa sb g (fun a b => a != b) s
/-- CMP_LT (R276). -/
def execCmpLt (l : Bool) (pd sa sb : Nat) (g : Guard) (s : State) : Out :=
  sCmp l pd sa sb g (fun a b => decide (a.toInt < b.toInt)) s
/-- CMP_LTU (R276). -/
def execCmpLtu (l : Bool) (pd sa sb : Nat) (g : Guard) (s : State) : Out :=
  sCmp l pd sa sb g (fun a b => decide (a.toNat < b.toNat)) s
/-- CMP_LE (R276). -/
def execCmpLe (l : Bool) (pd sa sb : Nat) (g : Guard) (s : State) : Out :=
  sCmp l pd sa sb g (fun a b => decide (a.toInt ≤ b.toInt)) s
/-- CMP_LEU (R276). -/
def execCmpLeu (l : Bool) (pd sa sb : Nat) (g : Guard) (s : State) : Out :=
  sCmp l pd sa sb g (fun a b => decide (a.toNat ≤ b.toNat)) s

/-- A predicate operation on the bits 0 of two predicates (R277). -/
def sPred (l : Bool) (pd pa pb : Nat) (g : Guard) (f : Bool → Bool → Bool) (s : State) : Out :=
  s.issue (sr 0 l g) (fun _ => []) fun s' => s'.land 0 (.p pd) (allBits (f (s.readP0 0 pa) (s.readP0 1 pb)))

/-- PAND (R277). -/
def execPand (l : Bool) (pd pa pb : Nat) (g : Guard) (s : State) : Out := sPred l pd pa pb g (fun a b => a && b) s
/-- POR (R277). -/
def execPor (l : Bool) (pd pa pb : Nat) (g : Guard) (s : State) : Out := sPred l pd pa pb g (fun a b => a || b) s
/-- PXOR (R277). -/
def execPxor (l : Bool) (pd pa pb : Nat) (g : Guard) (s : State) : Out := sPred l pd pa pb g (fun a b => a != b) s
/-- PNOT (R277). -/
def execPnot (l : Bool) (pd pa : Nat) (g : Guard) (s : State) : Out := sPred l pd pa 0 g (fun a _ => !a) s

/-- SEL: the guard chooses the source, and never turns the word off (R278). -/
def execSel (l : Bool) (sd sa sb : Nat) (g : Guard) (s : State) : Out :=
  s.issue (si 0 l) (fun _ => []) fun s' =>
    s'.land 0 (.s sd) (if s.readP0 15 g.p != g.neg then s.readS 0 sa else s.readS 1 sb).toNat

/-- An immediate instruction (R279). -/
def sImm (l : Bool) (sd sa : Nat) (f : Word → Word) (s : State) : Out :=
  s.issue (si 0 l) (fun _ => []) fun s' => s'.land 0 (.s sd) (f (s.readS 0 sa)).toNat

/-- The sign-extended 13-bit immediate (R279). -/
def imm13 (imm : Nat) : Word := BitVec.ofInt 64 (sext imm 13)

/-- ADDI (R279). -/
def execAddi (l : Bool) (sd sa imm : Nat) (s : State) : Out := sImm l sd sa (fun a => a + imm13 imm) s
/-- ANDI (R279). -/
def execAndi (l : Bool) (sd sa imm : Nat) (s : State) : Out := sImm l sd sa (fun a => a &&& imm13 imm) s
/-- ORI (R279). -/
def execOri (l : Bool) (sd sa imm : Nat) (s : State) : Out := sImm l sd sa (fun a => a ||| imm13 imm) s
/-- XORI (R279). -/
def execXori (l : Bool) (sd sa imm : Nat) (s : State) : Out := sImm l sd sa (fun a => a ^^^ imm13 imm) s
/-- SHLI (R279). -/
def execShli (l : Bool) (sd sa k : Nat) (s : State) : Out := sImm l sd sa (fun a => shlW a k) s
/-- SHRI (R279). -/
def execShri (l : Bool) (sd sa k : Nat) (s : State) : Out := sImm l sd sa (fun a => shrW a k) s
/-- SARI (R279). -/
def execSari (l : Bool) (sd sa k : Nat) (s : State) : Out := sImm l sd sa (fun a => sarW a k) s

/-- LEA: the offset of the word itself, plus four times the immediate, plus the source (R281). -/
def execLea (l : Bool) (sd sa imm : Nat) (s : State) : Out :=
  sImm l sd sa (fun a => BitVec.ofInt 64 (s.core.thr.s.pc + 4 * sext imm 13 + a.toNat)) s

/-- The issue of an S.L word: eight bytes, its literal behind it (R33, R280). -/
def sl (l : Bool) (g : Guard) : Issue := { st := .s, cls := 0, len := 8, l := l, g := some g }

/-- LIT (R280). -/
def execLit (l : Bool) (sd : Nat) (g : Guard) (v32 : Nat) (s : State) : Out :=
  s.issue (sl l g) (fun _ => []) fun s' => s'.land 0 (.s sd) (v32 % 2 ^ 32)

/-- LIT_HI (R280). -/
def execLitHi (l : Bool) (sd sa : Nat) (g : Guard) (v32 : Nat) (s : State) : Out :=
  s.issue (sl l g) (fun _ => []) fun s' =>
    s'.land 0 (.s sd) (v32 % 2 ^ 32 * 2 ^ 32 + (s.readS 0 sa).toNat % 2 ^ 32)

end Sys2Proof.Machine
end

