-- ==== Sys2Proof/Machine/Power.lean ====
section
/-! DEFINITION. Power domains (R53 to R66): `wake`, `sleep`, `retain`, `pwait`, and the views of the power
state. -/

namespace Sys2Proof.Machine

/-- Inrush cost of a domain (R53). -/
def inrushCost (d : Nat) : Nat :=
  if d < 18 then 4 else if d = 18 then 8 else if d = 19 then 6 else if d < 24 then 16 else if d = 24 then 8 else 2

/-- Wake latency from OFF (R53). -/
def latOff (d : Nat) : Nat :=
  if d < 8 then 40 else if d < 18 then 48 else if d = 18 then 24 else if d = 19 then 32 else if d < 24 then 96
  else if d = 24 then 64 else 16

/-- Wake latency from RET (R53). -/
def latRet (d : Nat) : Nat := if d < 8 then 40 else 64

/-- Whether a domain keeps state (R53). -/
def stateful (d : Nat) : Bool := decide (d < 18) || decide (d = 24)

/-- The domains a mask names, lowest first (R53). -/
def maskDoms (m : Nat) : List Nat := (List.range 26).filter fun d => bitOf m d

/-- Zeroes the contents of a domain (R56, R246). -/
def Core.zeroDomain (c : Core) (d : Nat) : Core :=
  if d < 8 then { c with ls := c.ls.filter fun e => lsDom e.1 != d }
  else if d < 18 then { c with v := c.v.filter fun e => vbDom e.1 != d }
  else if d = 24 then { c with gcfg := 0, gvalid := false, rvf := [], gstat := [] }
  else c

/-- Whether a result in flight goes to a domain. -/
def Dest.inDom (d : Nat) : Dest → Bool
  | .v n => vbDom n == d
  | .gcfg => d == 24
  | _ => false

/-- What a slept domain holds for the work accepted before the sleep, its results in flight landed (R62). -/
def Core.ghost (c : Core) (cycle d : Nat) : Ghost where
  dom := d
  at_ := cycle
  ls := (c.lsPend.filter fun w => lsDom w.addr == d).foldl (fun m w => put 0 m w.addr w.value)
    (c.ls.filter fun e => lsDom e.1 == d)
  v := c.pend.foldl (fun m l => match l.dest with
    | .v n => if vbDom n = d then put 0 m n (BitVec.ofNat 4096 l.value) else m
    | _ => m) (c.v.filter fun e => vbDom e.1 == d)
  rvf := if d = 24 then c.rvf else []

/-- A domain that was slept is zero when it is woken again; work accepted before keeps the contents it was accepted
against, and what it still writes there is gone (R56, R62). -/
def Core.anew (c : Core) (cycle d : Nat) : Core :=
  let c := { c with ghosts := c.ghosts ++ [c.ghost cycle d] }
  { (c.zeroDomain d) with
    pend := c.pend.filter fun l => !l.dest.inDom d
    lsPend := c.lsPend.filter fun w => lsDom w.addr != d }

/-- The contents of a domain that work accepted at a cycle sees, where it has been slept and woken since (R62). -/
def Core.ghostOf (c : Core) (d accepted : Nat) : Option Ghost :=
  c.ghosts.find? fun g => g.dom == d && decide (accepted < g.at_)

/-- Updates those contents. -/
def Core.onGhost (c : Core) (d accepted : Nat) (f : Ghost → Ghost) : Core :=
  match c.ghosts.findIdx? fun g => g.dom == d && decide (accepted < g.at_) with
  | some k => { c with ghosts := c.ghosts.modify k f }
  | none => c

/-- An LS byte, a physical register, the rule values, for work accepted at a cycle (R62). -/
def Core.lsOf (c : Core) (accepted a : Nat) : Byte :=
  match c.ghostOf (lsDom a) accepted with
  | some g => look 0 g.ls a
  | none => look 0 c.ls a
def Core.vOf (c : Core) (accepted n : Nat) : VReg :=
  match c.ghostOf (vbDom n) accepted with
  | some g => look 0 g.v n
  | none => look 0 c.v n
def Core.rvfOf (c : Core) (accepted : Nat) : SMap Rv :=
  match c.ghostOf 24 accepted with
  | some g => g.rvf
  | none => c.rvf

/-- Writes of that work (R62). -/
def Core.putLsOf (c : Core) (accepted a : Nat) (b : Byte) : Core :=
  match c.ghostOf (lsDom a) accepted with
  | some _ => c.onGhost (lsDom a) accepted fun g => { g with ls := put 0 g.ls a b }
  | none => { c with ls := put 0 c.ls a b }
def Core.putVOf (c : Core) (accepted n : Nat) (x : VReg) : Core :=
  match c.ghostOf (vbDom n) accepted with
  | some _ => c.onGhost (vbDom n) accepted fun g => { g with v := put 0 g.v n x }
  | none => { c with v := put 0 c.v n x }
def Core.putRvfOf (c : Core) (accepted : Nat) (m : SMap Rv) : Core :=
  match c.ghostOf 24 accepted with
  | some _ => c.onGhost 24 accepted fun g => { g with rvf := m }
  | none => { c with rvf := m }

/-- Contents that no work in flight sees any more are forgotten. -/
def Core.dropGhosts (c : Core) : Core :=
  let live (g : Ghost) : Bool :=
    [4, 5, 6, 7, 8].any (fun q => (c.queue q).cmds.any fun x => decide (x.accepted < g.at_))
    || (c.gev.toList ++ c.gevEnds).any (fun x => decide (x.issue < g.at_))
    || c.rows.any fun x => decide (x.issue < g.at_)
  if c.ghosts = [] then c else { c with ghosts := c.ghosts.filter live }

/-- The cost of a wake: the domains of its mask that are OFF or RET (R59). -/
def Core.wakeCost (c : Core) (m : Nat) : Nat :=
  ((maskDoms m).map fun d => match c.domAt d with
    | .off => inrushCost d
    | .ret => inrushCost d
    | _ => 0).foldl (· + ·) 0

/-- One domain under `wake` at a cycle (R57, R63). -/
def Core.wakeOne (cycle : Nat) (c : Core) (d : Nat) : Core :=
  match c.domAt d with
  | .off => { c with dom := put .off c.dom d (.waking (cycle + latOff d) false) }
  | .ret => { c with dom := put .off c.dom d (.waking (cycle + latRet d) true) }
  | _ => c

/-- A domain enters OFF: it loses its LOST mark (R57); its contents are zero when it is next ON (R56). -/
def Core.domOff (c : Core) (d : Nat) : Core :=
  { c with dom := put .off c.dom d .off, lost := c.lost.filter fun x => x != d }

/-- One domain under `retain` at a cycle (R57). -/
def Core.retainOne (cycle : Nat) (c : Core) (d : Nat) : Core :=
  match c.domAt d with
  | .off => c
  | .ret => c
  | .on => if stateful d then { c with dom := put .off c.dom d .ret } else c.domOff d
  | .waking _ fromRet =>
    if !stateful d then c.domOff d
    else
      let c := if fromRet then c else c.anew cycle d
      { c with dom := put .off c.dom d .ret }

/-- A mask with a bit above the 26 domains (R63, R64). -/
def State.maskTraps (s : State) (m : Word) : List Trap := if m.toNat ≥ 2 ^ 26 then [s.operandTrap .s] else []

/-- WAKE (R59, R63). -/
def execWake (l : Bool) (sa : Nat) (g : Guard) (s : State) : Out :=
  let m := s.readS 0 sa
  let cost := s.core.wakeCost m.toNat
  s.issue (sr 0 l g)
    (fun s => s.maskTraps m ++
      if cost > s.core.bal then [⟨6, info 0 (2 ^ 8 * s.core.bal + cost)⟩] else [])
    fun s' => s'.onCore fun c =>
      let c := (maskDoms m.toNat).foldl (Core.wakeOne s.cycle) c
      { c with bal := c.bal - cost, refill := if cost > 0 then 0 else c.refill }

/-- SLEEP (R57, R62, R63). -/
def execSleep (l : Bool) (sa : Nat) (g : Guard) (s : State) : Out :=
  let m := s.readS 0 sa
  s.issue (sr 0 l g) (fun s => s.maskTraps m)
    fun s' => s'.onCore fun c => (maskDoms m.toNat).foldl Core.domOff c

/-- RETAIN (R57, R60, R62, R63). -/
def execRetain (l : Bool) (sa : Nat) (g : Guard) (s : State) : Out :=
  let m := s.readS 0 sa
  s.issue (sr 0 l g) (fun s => s.maskTraps m)
    fun s' => s'.onCore fun c => (maskDoms m.toNat).foldl (Core.retainOne s.cycle) c

/-- Whether every domain of a mask is ON by a cycle (R64). -/
def Core.allOnBy (c : Core) (m cycle : Nat) : Bool :=
  (maskDoms m).all fun d => match c.domAt d with
    | .on => true
    | .waking t _ => decide (t ≤ cycle)
    | _ => false

/-- The named domains that nothing will wake (R64). -/
def Core.deadDoms (c : Core) (m : Nat) : List Nat :=
  (maskDoms m).filter fun d => match c.domAt d with
    | .off => true
    | .ret => true
    | _ => false

/-- The timing cause of a hold inside an aligned region (R303). -/
def State.holdTraps (s : State) (holds : Bool) : List Trap :=
  if holds && s.core.region.isSome then [timingTrap 0 8] else []

/-- The S strand stays at a word that holds the core (R337), which its loop has captured as it issued (R284): its slot is
counted when the hold ends. -/
def State.hold (s' s : State) (h : Hold) : State :=
  s'.onCore fun c =>
    { c with hold := h, thr := { c.thr with s := { s.core.capture s.core.thr.s 4 with inLock := c.thr.s.inLock } } }

/-- Govel code goes on behind the effect operation that held the core (R375). -/
def Govel.step (g : Govel) : Govel := if g.wait then { g with at_ := g.at_ + 1, wait := false } else g

/-- A hold ends: the S strand leaves the slot of the holding word. -/
def State.endHold (s : State) : State :=
  s.onCore fun c => { c with hold := .none, govel := c.govel.map Govel.step, thr := { c.thr with s := (c.capture c.thr.s 4).advance 4 false } }

/-- PWAIT (R64). -/
def execPwait (l : Bool) (sa : Nat) (g : Guard) (s : State) : Out :=
  let m := s.readS 0 sa
  let holds := !s.core.allOnBy m.toNat (s.cycle + 1)
  s.issue { sr 0 l g with inRpt := true }
    (fun s => s.maskTraps m
      ++ (match least (s.core.deadDoms m.toNat) with
          | some d => [⟨4, info 0 d⟩]
          | none => [])
      ++ s.holdTraps holds)
    fun s' => if holds then s'.hold s (.pwait m.toNat) else s'

/-- PDSTATE, PDWAKE, PDLOST, INRUSH (R66). -/
def Core.pdstate (c : Core) : Nat :=
  ((List.range 26).map fun d => match c.domAt d with
    | .on => 2 ^ d
    | .ret => 2 ^ (32 + d)
    | _ => 0).foldl (· + ·) 0
def Core.pdwake (c : Core) : Nat :=
  ((List.range 26).map fun d => match c.domAt d with
    | .waking _ _ => 2 ^ d
    | _ => 0).foldl (· + ·) 0
def Core.pdlost (c : Core) : Nat :=
  ((List.range 26).map fun d => if c.lost.contains d then 2 ^ d else 0).foldl (· + ·) 0
def Core.inrush (c : Core) : Nat := 2 ^ 7 * c.refill + c.bal

end Sys2Proof.Machine
end

