-- ==== Sys2Proof/Machine/SCtl.lean ====
section
/-! DEFINITION. The S strand's local store accesses, control flow, loops and control registers (R161, R162, R282
to R293). -/

namespace Sys2Proof.Machine

/-! ### Local store (R162) -/

/-- The address of a scalar LS access: exact, never modulo 2^64 (R162). -/
def lsAddr (sa : Word) (imm : Nat) : Int := (sa.toNat : Int) + sext imm 13

/-- The causes of a scalar LS access of `n` bytes: kind 0 write, 1 read (R61, R154, R162, R364). -/
def State.scalarLsTraps (s : State) (a : Int) (n kind : Nat) : List Trap :=
  if a < 0 ∨ a > 0x1FFFFF ∨ a % n ≠ 0 then [alignTrap .s a]
  else
    let u := a.toNat
    s.useDoms .s [lsDom u] ++ s.portTraps .s [s.portNow .s u n]
      ++ s.watchTraps .s kind ((List.range n).map (u + ·))

/-- A scalar load of `n` bytes: zero-extended, landing by the sls bound (R162). -/
def sLoad (n : Nat) (l : Bool) (sd sa imm : Nat) (s : State) : Out :=
  let a := lsAddr (s.readS 0 sa) imm
  s.issue (si 3 l) (fun s => s.scalarLsTraps a n 1) fun s' =>
    let s' := s'.usePorts [s.portNow .s a.toNat n]
    s'.land 3 (.s sd) (leNat (s.readLsN 0 a.toNat n))

/-- A scalar store of `n` bytes, visible from the sls bound on (R156, R162). -/
def sStore (n : Nat) (l : Bool) (sd sa imm : Nat) (s : State) : Out :=
  let a := lsAddr (s.readS 0 sa) imm
  s.issue (si 3 l) (fun s => s.scalarLsTraps a n 0) fun s' =>
    let s' := s'.usePorts [s.portNow .s a.toNat n]
    s'.writeLsAt (s.cycle + s.core.bound 3) (cellsFrom a.toNat (toBytes n (s.readS 1 sd).toNat))

/-- LD_B (R162). -/
def execLdB (l : Bool) (sd sa imm : Nat) (s : State) : Out := sLoad 1 l sd sa imm s
/-- LD_H (R162). -/
def execLdH (l : Bool) (sd sa imm : Nat) (s : State) : Out := sLoad 2 l sd sa imm s
/-- LD_W (R162). -/
def execLdW (l : Bool) (sd sa imm : Nat) (s : State) : Out := sLoad 4 l sd sa imm s
/-- LD_D (R162). -/
def execLdD (l : Bool) (sd sa imm : Nat) (s : State) : Out := sLoad 8 l sd sa imm s
/-- ST_B (R162). -/
def execStB (l : Bool) (sd sa imm : Nat) (s : State) : Out := sStore 1 l sd sa imm s
/-- ST_H (R162). -/
def execStH (l : Bool) (sd sa imm : Nat) (s : State) : Out := sStore 2 l sd sa imm s
/-- ST_W (R162). -/
def execStW (l : Bool) (sd sa imm : Nat) (s : State) : Out := sStore 4 l sd sa imm s
/-- ST_D (R162). -/
def execStD (l : Bool) (sd sa imm : Nat) (s : State) : Out := sStore 8 l sd sa imm s

/-! ### Branches, calls and returns (R282, R283) -/

/-- Moves the S strand's program counter. -/
def State.jumpS (s : State) (target : Nat) : State :=
  s.onCore fun c => { c with thr := { c.thr with s := { c.thr.s with pc := target } } }

/-- The target of an S.B word at an offset: a negative one is outside every section (R26, R35). -/
def branchTarget (pc off : Nat) : Nat := patOf 32 ((pc : Int) + 4 * sext off 20)

/-- A taken branch: the next S word is the target's, and the trace ring records it (R282, R362). -/
def State.taken (s' s : State) (target : Nat) : State :=
  (s'.jumpS target).ring 1 0 (2 ^ 32 * (s.core.thr.s.pc % 2 ^ 18) + target % 2 ^ 18)

/-- The issue of a word that no loop body and no repeat may hold (R285, R287). -/
def flow (l : Bool) : Issue := { si 0 l with inLoop := false, inRpt := false }

/-- BR (R282). -/
def execBr (l : Bool) (p : Nat) (neg : Bool) (off : Nat) (s : State) : Out :=
  s.issue (flow l) (fun _ => []) fun s' =>
    if s.readP0 0 p != neg then s'.taken s (branchTarget s.core.thr.s.pc off) else s'

/-- JMP (R282). -/
def execJmp (l : Bool) (off : Nat) (s : State) : Out :=
  s.issue (flow l) (fun _ => []) fun s' => s'.taken s (branchTarget s.core.thr.s.pc off)

/-- CALL: s63 takes the offset of the word after it (R283). -/
def execCall (l : Bool) (off : Nat) (s : State) : Out :=
  s.issue (flow l) (fun _ => []) fun s' =>
    (s'.land 0 (.s 63) (s.core.thr.s.pc + 4)).taken s (branchTarget s.core.thr.s.pc off)

/-- RET: to the offset in s63 (R283). -/
def execRet (l : Bool) (s : State) : Out :=
  let a := (s.readS 0 63).toNat
  s.issue (flow l) (fun s => if a % 4 ≠ 0 then [s.operandTrap .s] else []) fun s' => s'.taken s a

/-! ### Loops, repeats, gaps (R284 to R288) -/

/-- Whether the S body of `n` slots from an offset ends inside a gap or a repeat (R284, R285): the words from
`off` take slots one after another, and none may reach past slot `n`. `fuel` bounds the words looked at. -/
def Core.straddles (c : Core) : Nat → Nat → Nat → Bool
  | 0, _, _ => false
  | fuel + 1, off, left =>
    if left = 0 then false
    else
      let w := (c.codeAt off).toNat
      let len := if hasTrail .s w then 8 else 4
      let op := fld w 25 6
      let k := if op = 0x1E then fld w 13 12 + 1 else if op = 0x1D then fld w 13 12 + 2 else 1
      let next := off + len + if op = 0x1D then
          (if hasTrail .s (c.codeAt (off + 4)).toNat then 8 else 4)
        else 0
      if k > left then true else c.straddles fuel next (left - k)

/-- A strand takes up a loop of `n` slots and `count` trips whose body starts at its next word (R284). -/
def Thread.enterLoop (t : Thread) (n count : Nat) (l : Bool) : Thread :=
  { t with loop := some ⟨t.pc, n, count, 0, 0, [], l⟩ }

/-- The strands of a loop's or a repeat's group besides S: the members of the lockstep group, if the S word
issued as one of them (R284, R287). -/
def Core.group (c : Core) : List Strand :=
  if c.thr.s.inLock then [Strand.v, .m, .x].filter fun st => (c.thr.get st).inLock else []

/-- Updates the S strand and the other members of its group. -/
def Core.onGroup (c : Core) (f : Thread → Thread) : Core :=
  let c' := { c with thr := { c.thr with s := f c.thr.s } }
  (c.group).foldl (fun c st => { c with thr := c.thr.set st (f (c.thr.get st)) }) c'

/-- LOOP (R284 to R286). -/
def execLoop (l : Bool) (countM1 nM1 : Nat) (s : State) : Out :=
  s.issue (flow l)
    (fun s => if s.core.straddles 257 (s.core.thr.s.pc + 4) (nM1 + 1) then [s.operandTrap .s] else [])
    fun s' => s'.onCore fun c => c.onGroup fun t => t.enterLoop (nM1 + 1) (countM1 + 1) (l && c.handler.isNone)

/-- RPT: the next instruction of each member of the group issues `count` times (R287); with it the word takes 1 + count
slots of a body (R284). -/
def execRpt (l : Bool) (countM1 : Nat) (s : State) : Out :=
  s.issue { si 0 l with inRpt := false, slots := countM1 + 2 } (fun _ => []) fun s' =>
    s'.onCore fun c => c.onGroup fun t => { t with rep := countM1 + 1 }

/-- GAP: one slot of the gap; the strand stays on the word until the last (R288). At its first slot it must fit the body
(R285). -/
def execGap (l : Bool) (countM1 : Nat) (s : State) : Out :=
  let left := if s.core.thr.s.gap = 0 then countM1 else s.core.thr.s.gap - 1
  let slots := if s.core.thr.s.gap = 0 then countM1 + 1 else 1
  s.issue { si 0 l with inRpt := false, slots := slots } (fun _ => [])
    (fun s' => s'.onCore fun c => { c with thr := { c.thr with s := { c.thr.s with gap := left } } })
    (stay := decide (left > 0))

/-! ### Control registers (R161, R289) -/

/-- Whether a write to a control register is in flight. -/
def State.csrInFlight (s : State) (sel : Nat) : Bool :=
  s.inFlight (.csr sel) || (decide (0x40 ≤ sel) && s.inFlight (.amaxUp (sel - 0x40)))

/-- TRAPCAUSE as it reads: PEND is set while an imprecise trap is pending (R340, R341). -/
def Core.trapCause (c : Core) : Nat := (c.csrAt 8).toNat % 2 ^ 9 + if c.impr = [] then 0 else 2 ^ 9

/-- A control register as `csrr` reads it now (R66, R161, R186, R289). -/
def State.readCsr (s : State) (sel : Nat) : Word :=
  if sel = 3 then BitVec.ofNat 64 s.cycle
  else if sel = 4 then BitVec.ofNat 64 ((s.team.map (·.wdog)).getD 0)
  else if sel = 8 then BitVec.ofNat 64 s.core.trapCause
  else if sel = 0x20 then BitVec.ofNat 64 s.core.pdstate
  else if sel = 0x21 then BitVec.ofNat 64 s.core.pdwake
  else if sel = 0x22 then BitVec.ofNat 64 s.core.pdlost
  else if sel = 0x23 then BitVec.ofNat 64 s.core.inrush
  else if 0x28 ≤ sel ∧ sel ≤ 0x2A then s.readShape sel
  else if s.csrInFlight sel then s.free (slotOf 3 2 sel) 64 &&& BitVec.ofNat 64 (csrMask sel)
  else s.core.csrAt sel

/-- CSRR (R161, R289). -/
def execCsrr (l : Bool) (sd csr : Nat) (s : State) : Out :=
  s.issue (si 3 l) (fun _ => []) fun s' => s'.land 3 (.s sd) (s.readCsr csr).toNat

/-- A write of a control register, in force from the sls bound on (R161). -/
def sCsrw (l : Bool) (causes : State → List Trap) (effect : State → State) (s : State) : Out :=
  s.issue (si 3 l) causes effect

/-- CSRW of a register without a row of its own: TRAPPC0 to TRAPPC3 are written, RO and LD registers are not
(R161). -/
def execCsrw (l : Bool) (sa csr : Nat) (s : State) : Out :=
  sCsrw l (fun _ => []) (fun s' =>
    if 0xC ≤ csr ∧ csr ≤ 0xF then s'.land 3 (.csr csr) ((s.readS 0 sa).toNat % 2 ^ 32) else s') s

/-- CSRW_LOCKMASK: it governs lock decisions from the next cycle on, whatever the sls bound (R39, R161). -/
def execCsrwLockmask (l : Bool) (sa : Nat) (s : State) : Out :=
  let x := (s.readS 0 sa).toNat % 16
  sCsrw l (fun _ => []) (fun s' =>
    (s'.onCore fun c => { (c.setCsr 2 (BitVec.ofNat 64 x)) with
      pend := c.pend.filter fun p => decide (p.dest ≠ .csr 2) }).land 3 (.csr 2) x) s

/-- CSRW_TRAPVEC (R346). -/
def execCsrwTrapvec (l : Bool) (sa : Nat) (s : State) : Out :=
  let x := (s.readS 0 sa).toNat
  sCsrw l (fun s => if x ≠ 0 ∧ (x % 4 ≠ 0 ∨ x < 0x38000 ∨ x > 0x3FFFC) then [s.operandTrap .s] else [])
    (fun s' => s'.land 3 (.csr 0xA) x) s

/-- Whether a value may be VWB: a multiple of 64 in 0 to 1,024 (R159, R161, R204). -/
def vwbOk (x : Nat) : Bool := decide (x % 64 = 0) && decide (x ≤ 1024)

/-- CSRW_VWB (R161, R186). -/
def execCsrwVwb (l : Bool) (sa : Nat) (s : State) : Out :=
  let x := (s.readS 0 sa).toNat
  sCsrw l (fun s => if vwbOk x then [] else [s.operandTrap .s]) (fun s' => s'.land 3 (.csr 0x28) x) s

/-- CSRW_TWIST (R161, R186). -/
def execCsrwTwist (l : Bool) (sa : Nat) (s : State) : Out :=
  let x := (s.readS 0 sa).toNat
  sCsrw l (fun s => if x < 64 then [] else [s.operandTrap .s]) (fun s' => s'.land 3 (.csr 0x29) x) s

/-- CSRW_VSHAPE: bits [31:24] are reserved (R8, R183). -/
def execCsrwVshape (l : Bool) (sa : Nat) (s : State) : Out :=
  sCsrw l (fun _ => []) (fun s' => s'.land 3 (.csr 0x2A) ((s.readS 0 sa).toNat % 2 ^ 24)) s

/-- CSRW_CZLIST: CAP and BASE are written, NEXT becomes 0 (R146). -/
def execCsrwCzlist (l : Bool) (sa : Nat) (s : State) : Out :=
  let x := (s.readS 0 sa).toNat
  sCsrw l (fun _ => []) (fun s' => s'.land 3 (.csr 0x30) (2 ^ 32 * bits x 47 32 + 2 ^ 4 * bits x 20 4)) s

/-- CSRW_AMAX: the low 32 bits with bit 31 forced to zero (R160). -/
def execCsrwAmax (l : Bool) (sa m : Nat) (s : State) : Out :=
  sCsrw l (fun _ => []) (fun s' => s'.land 3 (.csr (0x40 + m)) ((s.readS 0 sa).toNat % 2 ^ 31)) s

/-! ### Restart points, traps, retirement (R290 to R293) -/

/-- The issue of a sys word. -/
def sysWord (l : Bool) : Issue := { si 0 l with inRpt := false }

/-- An amax register as `mark.r` snapshots it: unspecified inside the window of a `csrw` (R17). -/
def State.amaxNow (s : State) (i : Nat) : Word :=
  if s.inFlight (.csr (0x40 + i)) then s.free (slotOf 3 3 i) 64 &&& 0x7FFFFFFF else s.core.csrAt (0x40 + i)

/-- Records a restart point, with the amax registers as `s` has them (R181, R213, R290). -/
def State.markPoint (s' s : State) : State :=
  let s' := s'.onCore fun c => { c with
    restart := ⟨c.thr.mapAll Thread.dropCaptured, c.csrAt 2,
      (List.range 16).foldl (fun m i => put 0 m i (s.amaxNow i)) [], s.cycle⟩ }
  s'.onMyTeam fun t => { t with snap := t.stats, mark := s.cycle }

/-- MARK_R: records the restart point; updates of the amax registers that land later merge into it as they land (R181,
R213, R290). -/
def execMarkR (l : Bool) (s : State) : Out :=
  s.issue (sysWord l) (fun _ => []) fun s' => s'.markPoint s

/-- TRAP: the software trap at the boundary after this cycle (R291). -/
def execTrap (l : Bool) (code : Nat) (s : State) : Out :=
  s.issue (sysWord l) (fun _ => []) fun s' => s'.takeTrapNext ⟨14, info 0 code⟩

/-- The cause of a return outside handler mode (R292). -/
def State.handlerTraps (s : State) : List Trap := if s.core.handler.isNone then [s.operandTrap .s] else []

/-- ERET (R292). -/
def execEret (l : Bool) (s : State) : Out :=
  s.issue (flow l) (fun s => s.handlerTraps) fun s' => s'.returnTrap

/-- ERET_R (R292). -/
def execEretR (l : Bool) (s : State) : Out :=
  s.issue (flow l) (fun s => s.handlerTraps) fun s' => s'.restart

/-- DONE: issue ends on every strand of the core from the next cycle on (R293); it leaves handler mode (R347), and a queue
that an imprecise trap halted goes on, since all its work completes (log 33). -/
def execDone (l : Bool) (s : State) : Out :=
  s.issue (sysWord l) (fun _ => []) fun s' => s'.unhalt.onCore fun c => { c with isDone := true, handler := none }

end Sys2Proof.Machine
end

