-- ==== Sys2Proof/Machine/Sync.lean ====
section
/-! DEFINITION. Tokens, marks, aligned regions and barriers (R294 to R315): the sync major's words, and the
steps that complete them. -/

namespace Sys2Proof.Machine

/-- The issue of a sync word. -/
def syncWord (l : Bool) : Issue := { si 0 l with inRpt := false }

/-! ### Tokens (R295 to R297) -/

/-- Takes one token of a channel, for `wait.k`: the push it came from has been taken (R118, R229, R261). -/
def State.takeToken (s : State) (k : Nat) : State :=
  s.onCore fun c => (c.setTokens k (c.tokens k - 1)).release k

/-- WAIT_K (R297, R303). -/
def execWaitK (l : Bool) (k : Nat) (s : State) : Out :=
  let holds := decide (s.core.tokens k = 0)
  s.issue (syncWord l) (fun s => s.holdTraps holds) fun s' =>
    if holds then s'.hold s (.waitK k) else s'.takeToken k

/-- WAIT_K_TOKEN_TAKE: a holding `wait.k` takes its token in the first cycle that begins with one (R297). -/
def execWaitKTokenTake (s : State) : Out :=
  match s.core.hold with
  | .waitK k => if s.core.tokens k = 0 then .next s else .next (s.takeToken k).endHold
  | _ => .next s

/-- Whether a push stands before another in the ranking of R296; equal ranks by channel. -/
def Push.before (a b : Push) : Bool := decide (a.rank < b.rank) || (a.rank == b.rank && decide (a.ch ≤ b.ch))

/-- Pushes in the ranking of R296. -/
def insertPush (p : Push) : List Push → List Push
  | [] => [p]
  | q :: qs => if p.before q then p :: q :: qs else q :: insertPush p qs
def sortPushes : List Push → List Push
  | [] => []
  | p :: ps => insertPush p (sortPushes ps)

/-- The pushes of a cycle arrive, in their ranking: a channel keeps at most 15, and the rest are refused. -/
def Core.arrive (c : Core) : List Push → Core × List Push
  | [] => (c, [])
  | p :: ps =>
    if c.tokens p.ch < 15 then (c.setTokens p.ch (c.tokens p.ch + 1)).arrive ps
    else let (c', no) := c.arrive ps; (c', p :: no)

/-! ### The order of a cycle's ring entries (R361, log 90) -/

/-- The place of an entry among those of a cycle: what boundaries made, what strands made in their order (commands of M, then those
of X), what each queue completed in the order of R295, the evaluator's, the loom's; a trap that a word raised at the boundary
after the cycle stands behind them all (R361). -/
def ringRank (cycle : Nat) (e : BitVec 128) : Nat :=
  let kind := bits e.toNat 63 60
  let src := bits e.toNat 59 56
  let event := bits e.toNat 55 48
  if bits e.toNat 127 64 ≠ cycle % 2 ^ 64 then 20
  else if kind = 7 ∨ kind = 8 ∨ (kind = 6 ∧ event = 7) then 15
  else if kind = 3 ∨ (kind = 6 ∧ 2 ≤ event) then (if src = 10 then 14 else 5 + queueRank src)
  else if kind = 2 ∧ (src = 7 ∨ src = 10) ∧ bits e.toNat 30 26 ≠ 0x1B then 3
  else if kind = 2 ∨ kind = 6 then 4
  else if kind = 4 then 0
  else 1

/-- The entries of a cycle, and a trap's of the boundary after it, newest first. -/
def ringTail (ring : SMap (BitVec 128)) (cycle : Nat) : Nat → Nat → List (BitVec 128)
  | 0, _ => []
  | n + 1, pos =>
    let e := look 0 ring ((pos + 511) % 512)
    let tick := bits e.toNat 127 64
    if bits e.toNat 63 60 ≠ 0 ∧ (tick = cycle % 2 ^ 64 ∨ tick = (cycle + 1) % 2 ^ 64) then
      e :: ringTail ring cycle n ((pos + 511) % 512) else []

/-- Entries by their place, those of one place as they came. -/
def insertRing (cycle : Nat) (e : BitVec 128) : List (BitVec 128) → List (BitVec 128)
  | [] => [e]
  | x :: xs => if ringRank cycle e ≤ ringRank cycle x then e :: x :: xs else x :: insertRing cycle e xs
def sortRing (cycle : Nat) (es : List (BitVec 128)) : List (BitVec 128) := es.foldr (insertRing cycle) []

/-- The entries of a cycle take the order of R361. -/
def Core.orderRing (c : Core) (cycle : Nat) : Core :=
  let es := ringTail c.ring cycle 512 c.ringPos
  let at_ (k : Nat) : Nat := (c.ringPos + 512 - es.length + k) % 512
  if es.length < 2 then c
  else { c with ring := ((List.range es.length).zip (sortRing cycle es.reverse)).foldl (fun m e => put 0 m (at_ e.1) e.2) c.ring }

/-- The token-overflow cause of a refused push (R296, R344). -/
def overflowTrap (p : Push) : Trap := ⟨9, info p.src (2 ^ 16 * p.ch + p.qidx)⟩

/-- The end of a cycle for the channels: the arrivals are counted, and the first refused push is reported at the
boundary after the cycle (R295, R296). -/
def Core.endPushes (c : Core) : Core :=
  let r := ({ c with arrivals := [] }).arrive (sortPushes c.arrivals)
  match r.2 with
  | [] => r.1
  | p :: _ => { r.1 with after := r.1.after ++ [overflowTrap p] }

/-- GUARDED_OFF_PUSH: the k-th push due by a bound arrives, after its issue cycle and in the order of its source
(R45, R240). -/
def execGuardedOffPush (k : Nat) (s : State) : Out :=
  match s.core.gpush[k]? with
  | none => .next s
  | some (p, issue, _) =>
    if issue < s.cycle ∧ (s.core.gpush.take k).all (fun e => e.1.src != p.src) then
      .next ((s.onCore fun c => { c with gpush := c.gpush.eraseIdx k }).push p)
    else .next s

/-! ### Queue marks and phase marks (R264, R298 to R300) -/

/-- QMARK (R264, R298). -/
def execQmark (l : Bool) (s : State) : Out :=
  s.issue (syncWord l) (fun _ => []) fun s' => s'.onCore fun c => { c with qmarks := c.qmarks ++ [s.cycle] }

/-- The queue that a bit of a marker's MASK names, by SRC number (R299). -/
def maskQueue (i : Nat) : Nat := if i = 3 then 7 else if i = 4 then 8 else 4 + i

/-- PMARK (R299, R300). -/
def execPmark (l : Bool) (sa : Nat) (s : State) : Out :=
  let m := (s.readS 0 sa).toNat
  s.issue (syncWord l)
    (fun s => (if bits m 63 12 ≠ 0 ∨ bits m 7 5 ≠ 0 then [s.operandTrap .s] else [])
      ++ (if s.core.pmarks.length ≥ 4 then [fullTrap 11] else []))
    fun s' => s'.onCore fun c => { c with pmarks := c.pmarks ++ [⟨bits m 11 8, bits m 4 0, s.cycle⟩] }

/-- The commands of a queue that have entered and not completed: a failed one is not complete before its replay is
(R126, R136). -/
def Core.undone (c : Core) (q : Nat) : List Cmd := (c.queue q).cmds ++ ((c.queue q).record.map (·.2)).toList

/-- Whether a request in flight to another device is a far write or an atomic action of its command (R300). -/
def Core.sentWrite (c : Core) (r : Remote) : Bool :=
  r.place == c.place && (c.queue r.queue).cmds.any fun x =>
    x.idx == r.idx && x.issue == r.issue && match x.op with
      | .fld _ _ _ => false
      | .unp _ _ _ => false
      | _ => r.bytes == []

/-- Whether a marker has reached its end-of-phase point: every command that entered a marked queue by its cycle has
completed, and every far write and atomic action of the core sent by then has been acknowledged (R300). An action on this
device is acknowledged as it is performed. -/
def State.phaseReached (s : State) (p : PMark) : Bool :=
  (List.range 5).all (fun i =>
    !bitOf p.mask i || (s.core.undone (maskQueue i)).all fun cmd => decide (cmd.issue > p.issue))
  && s.dev.weftWait.all fun r => decide (r.sent > p.issue) || !s.core.sentWrite r

/-- PHASE_END: the k-th marker reaches its end-of-phase point and pushes, no earlier than the cycle after its
issue; markers rank in the order of their placement. `step` has it come about in the cycle in which that point is reached (R296,
R300). -/
def execPhaseEnd (k : Nat) (s : State) : Out :=
  match s.core.pmarks[k]? with
  | none => .next s
  | some p =>
    if s.phaseReached p ∧ p.issue < s.cycle then
      .next ((s.onCore fun c => { c with pmarks := c.pmarks.eraseIdx k }).push ⟨pushRank 7 p.issue, p.ch, 11, 0xFFFF⟩)
    else .next s

/-! ### Aligned regions (R301, R302) -/

/-- REALIGN (R301, R303). -/
def execRealign (l : Bool) (n : Nat) (s : State) : Out :=
  let now := decide ((s.cycle + 1) % 2 ^ n = 0)
  s.issue (syncWord l) (fun s => if s.core.region.isSome then [timingTrap 0 11] else []) fun s' =>
    if now then s'.onCore fun c => { c with region := some (s.cycle + 1) } else s'.hold s (.realign n)

/-- ALIGNED_REGION_BEGIN: the hold of `realign` ends in the first cycle whose TICK is a multiple (R301). -/
def execAlignedRegionBegin (s : State) : Out :=
  match s.core.hold with
  | .realign n =>
    if s.cycle % 2 ^ n = 0 then
      .next (s.endHold.onCore fun c => { c with region := some s.cycle })
    else .next s
  | _ => .next s

/-- UNALIGN (R302). -/
def execUnalign (l : Bool) (s : State) : Out :=
  s.issue (syncWord l) (fun _ => []) fun s' => s'.onCore fun c => { c with region := none }

/-- ALIGNED_REGION_TIMEOUT: the region has been open for 65,536 cycles (R302, reason 13 of R306). -/
def execAlignedRegionTimeout (s : State) : Out :=
  match s.core.region with
  | some t => if s.cycle ≥ t + 65536 then .next (s.takeTrap (timingTrap 0 13)) else .next s
  | none => .next s

/-! ### Barriers (R307 to R315) -/

/-- The fields of a barrier descriptor (R308). -/
def Barrier.first (b : Barrier) : Nat := bits b.desc.toNat 19 0
def Barrier.countM1 (b : Barrier) : Nat := bits b.desc.toNat 39 20
def Barrier.map (b : Barrier) : Nat := bits b.desc.toNat 52 52
def Barrier.phases (b : Barrier) : Nat := bits b.desc.toNat 55 53 + 1
def Barrier.interval (b : Barrier) : Nat := bits b.desc.toNat 63 56 + 1
def Barrier.xdev (b : Barrier) : Nat := bits b.desc.toNat 95 88
def Barrier.did (b : Barrier) : Nat := bits b.desc.toNat 107 96

/-- The barrier of a launch by handle. -/
def State.barrierAt (s : State) (ltag handle : Nat) : Option Barrier :=
  s.dev.barriers.find? fun b => b.ltag == ltag && b.handle == handle

/-- Updates a barrier. -/
def State.onBarrier (s : State) (ltag handle : Nat) (f : Barrier → Barrier) : State :=
  s.onDev fun d => { d with barriers := d.barriers.map fun b =>
    if b.ltag = ltag ∧ b.handle = handle then f b else b }

/-- Whether a team takes part (R308). -/
def Barrier.has (b : Barrier) (index : Nat) : Bool :=
  decide (b.first ≤ index) && decide (index ≤ b.first + b.countM1)

/-- The barrier that a handle names for the issuing team, if the team takes part (R314). -/
def State.myBarrier (s : State) (h : Word) : Option Barrier :=
  match s.team with
  | none => none
  | some t =>
    if h.toNat ≥ 256 then none
    else match s.barrierAt t.id.ltag h.toNat with
      | some b => if b.has t.id.index then some b else none
      | none => none

/-- Arrivals of a core at a barrier: the number of its `bar.arr` (R309). -/
def Barrier.arrivals (b : Barrier) (index rank : Nat) : Nat :=
  ((b.arrived.find? fun e => e.1 == index && e.2.1 == rank).map (·.2.2)).getD 0

/-- Records a core's arrival for an episode (R309). -/
def Barrier.arrive (b : Barrier) (index rank k : Nat) : Barrier :=
  { b with arrived := (index, rank, k) :: b.arrived.filter fun e => !(e.1 == index && e.2.1 == rank) }

/-- Whether a participant has arrived for an episode: every core of its gang has, or it counts as arrived (R309). -/
def Barrier.teamIn (b : Barrier) (width index ep : Nat) : Bool :=
  b.gone.contains index || (List.range width).all fun r => decide (ep ≤ b.arrivals index r)

/-- Whether this device's side of the open episode is complete: every participant has arrived, and no tagged byte is pending. -/
def Barrier.here (b : Barrier) (width : Nat) : Bool :=
  (List.range (b.countM1 + 1)).all (fun u => b.teamIn width (b.first + u) (b.done + 1)) && decide (b.pending = 0)

/-- Whether the open episode can complete: this device's side is, and the other devices have arrived (R312). -/
def Barrier.ready (b : Barrier) (width : Nat) : Bool := b.here width && decide (b.xdev * (b.done + 1) ≤ b.ext)

/-- The sluice phase of a participant (R313). -/
def Barrier.phase (b : Barrier) (index : Nat) : Nat :=
  let u := index - b.first
  if b.map = 0 then u * b.phases / (b.countM1 + 1) else u % b.phases

/-- The cycle in which a participant's phase of an episode opens on a die (R313). -/
def Barrier.opensAt (b : Barrier) (index die ep : Nat) : Option Nat :=
  (b.releases.find? fun e => e.1 == ep && e.2.1 == die).map fun e => e.2.2 + b.phase index * b.interval

/-- The cycle in which the cores of a participant resume from an episode: one cycle of the phase's interval, the
same for the whole gang; which one is open (R313). -/
def Barrier.resumeAt (b : Barrier) (index die ep : Nat) : Option Nat :=
  (b.opensAt index die ep).map (· +
    Config.freeNat (slotOf 8 0 (b.ltag * 256 + b.handle)) (ep * 2 ^ 20 + index) % b.interval)

/-- The die of a core (R24). -/
def Core.die (c : Core) : Nat := c.place / 32

/-- Whether an episode has been released to the focus core (R313, R314). -/
def State.released (s : State) (b : Barrier) (ep : Nat) : Bool :=
  match s.team with
  | none => false
  | some t => match b.resumeAt t.id.index s.core.die ep with
    | some r => decide (r ≤ s.cycle)
    | none => false

/-- The core's own latest arrival at a handle (R309). -/
def Core.arrivalOf (c : Core) (h : Nat) : Nat := look 0 c.barEp h

/-- BAR_ARR (R309, R311, R314). -/
def execBarArr (l : Bool) (sa : Nat) (s : State) : Out :=
  let h := s.readS 0 sa
  s.issue (syncWord l)
    (fun s => match s.myBarrier h with
      | none => [s.operandTrap .s]
      | some b => if s.core.arrivalOf h.toNat > b.done then [timingTrap 0 14] else [])
    fun s' =>
      let k := s.core.arrivalOf h.toNat + 1
      let s' := s'.onCore fun c => { c with barEp := put 0 c.barEp h.toNat k }
      match s.team with
      | some t => s'.onBarrier t.id.ltag h.toNat fun b => b.arrive t.id.index s.core.rank k
      | none => s'

/-- BAR_WAIT (R303, R314). -/
def execBarWait (l : Bool) (sa : Nat) (s : State) : Out :=
  let h := s.readS 0 sa
  let holds := match s.myBarrier h with
    | some b => !s.released b (s.core.arrivalOf h.toNat)
    | none => false
  s.issue (syncWord l)
    (fun s =>
      (if (s.myBarrier h).isNone ∨ s.core.arrivalOf h.toNat = 0 then [s.operandTrap .s] else []) ++ s.holdTraps holds)
    fun s' => if holds then s'.hold s (.barWait h.toNat) else s'.onCore (Core.acquireAt s.dev.actions)

/-- The dies on which cores of a barrier's participants stand. -/
def State.barrierDies (s : State) (b : Barrier) : List Nat :=
  (s.cores.filterMap fun c => match c.team with
    | some id => if id.ltag = b.ltag ∧ b.has id.index then some c.die else none
    | none => none).eraseDups

/-- The cycle in which a die's barrier unit learns that an episode has completed: at once for a barrier of one die, else
within 1 µs, in cycles of its island's clock (R312, R313); which is open. -/
def State.learns (s : State) (b : Barrier) (die : Nat) : Nat :=
  if (s.barrierDies b).length ≤ 1 then s.cycle
  else s.cycle + Config.freeNat (slotOf 8 1 (b.ltag * 256 + b.handle)) ((b.done + 1) * 32 + die)
    % (look 1900 s.dev.mhz die + 1)

/-- The end of a barrier's last window on a die. -/
def Barrier.windowOn (b : Barrier) (die : Nat) : Nat := look 0 b.windowEnd die

/-- The open episode of a barrier completes: on each die its window opens when the die's unit learns of it and the
previous window has ended (R312, R313). -/
def State.completeEpisode (s : State) (b : Barrier) : Barrier :=
  let t0 (die : Nat) : Nat := max (s.learns b die) (b.windowOn die)
  { b with
    done := b.done + 1
    releases := ((List.range 24).map fun die => (b.done + 1, die, t0 die)) ++ b.releases
    windowEnd := (List.range 24).foldl (fun m die => put 0 m die (t0 die + b.phases * b.interval)) b.windowEnd }

/-- This device's arrival at a domain barrier is announced, on lane 3, to as many devices as join; which those are the manual does
not say: any (R308, R312, R389, log 52). -/
def State.announce (s : State) (b : Barrier) (ctx : Nat) : State :=
  let f := Config.freeNat s.fresh (slotOf 8 2 b.handle)
  let dst (i : Nat) : Nat := (s.dev.weftId + 1 + (f + i) % 191) % 192
  let s := (List.range b.xdev).foldl (fun s i => s.sendFlit (dst i) 3 7 0 (toBytes 8 (b.did + 2 ^ 48 * ctx))) s
  s.onBarrier b.ltag b.handle fun b => { b with told := b.done + 1 }

/-- BARRIER_EPISODE_COMPLETE (R312, R313): the open episode completes now; one of a domain barrier is first announced to the other
devices. -/
def execBarrierEpisodeComplete (ltag handle : Nat) (s : State) : Out :=
  match s.barrierAt ltag handle, s.launchAt ltag with
  | some b, some la =>
    if b.xdev ≠ 0 ∧ b.here (2 ^ la.gw) ∧ b.told ≤ b.done then .next (s.announce b la.ctx)
    else if b.ready (2 ^ la.gw) then .next (s.onBarrier ltag handle s.completeEpisode)
    else .next s
  | _, _ => .next s

/-- SLUICE_RESUME: a `bar.wait` hold ends in the cycle in which its phase resumes the core (R313 to R315). -/
def execSluiceResume (s : State) : Out :=
  match s.core.hold with
  | .barWait h =>
    match s.myBarrier (BitVec.ofNat 64 h) with
    | some b =>
      if s.released b (s.core.arrivalOf h) then .next (s.endHold.onCore (Core.acquireAt s.dev.actions)) else .next s
    | none => .next s
  | _ => .next s

/-- Adds bytes to a barrier's pending count, unless the count would exceed 36 bits (R310). -/
def State.addPending (s : State) (ltag handle n : Nat) : State × Bool :=
  match s.barrierAt ltag handle with
  | none => (s, false)
  | some b =>
    if b.pending + n ≥ 2 ^ 36 then (s, false)
    else (s.onBarrier ltag handle fun b => { b with pending := b.pending + n }, true)

/-- Removes the bytes that a command added (R126, R127). -/
def State.dropPending (s : State) (ltag : Nat) (bar : Option (Nat × Nat)) : State :=
  match bar with
  | none => s
  | some (h, n) => s.onBarrier ltag h fun b => { b with pending := b.pending - n }

/-- A team counts as arrived at every barrier of its launch from now on (R309). -/
def State.goneFrom (s : State) (id : TeamId) : State :=
  s.onDev fun d => { d with barriers := d.barriers.map fun b =>
    if b.ltag = id.ltag then { b with gone := id.index :: b.gone } else b }

/-! ### Landing and the lock (R17, R41, R42, R44) -/

/-- The outcomes of rival results (R44): each result of `among` that may prevail; the updates of an amax register count as
one, whose result is the greatest (R213). -/
def Core.outcomes (c : Core) (g among : List Landing) : List (Dest × Nat) :=
  let ups := g.filter fun k => match k.dest with | .amaxUp _ => true | _ => false
  let best (k : Landing) : Nat := match k.dest with
    | .amaxUp m => (ups.map (·.value)).foldl max (c.csrAt (0x40 + m)).toNat
    | _ => k.value
  (among.filter fun k => k.stands g).map fun k =>
    (match k.dest with | .amaxUp m => if g.length = 1 then k.dest else .csr (0x40 + m) | d => d,
     if g.length = 1 then k.value else best k)

/-- Of overlapping `vrot`s one prevails in TWIST and in every stage predicate alike (R44, R205): the others fall out. A `csrw` of TWIST
that prevails over a `vrot` leaves its shift of the stage predicates standing (DESIGN CHOICE, log 98). -/
def Core.oneVrot (c : Core) (g : List Landing) : List Landing :=
  let js := g.filter fun k => k.tag == 1
  let js := js.filter fun k => k.stands js
  let key := js.foldl (fun n k => n * 2 ^ 64 + k.issue) 0
  match js[oneOf (Config.freeNat (slotOf 9 2 c.place) key) js.length]? with
  | some w => g.filter fun k => k.tag != 1 || k.issue == w.issue
  | none => g

/-- What the results rival to a landing one leave in their register (R44). -/
def State.landValue (s : State) (l : Landing) : Dest × Nat :=
  let g := s.core.rivals l
  let o := s.core.outcomes g (s.core.oneVrot g)
  o.getD (s.core.chosen l.dest g o.length) (l.dest, l.value)

/-- Adds events to a statistic table, each counter saturating at 0xFFFF_FFFF (R178). -/
def addStat (m : SMap Stat) (tid sat ftz nan : Nat) : SMap Stat :=
  let x := look ⟨0, 0, 0⟩ m tid
  put ⟨0, 0, 0⟩ m tid ⟨min (x.sat + sat) 0xFFFFFFFF, min (x.ftz + ftz) 0xFFFFFFFF, min (x.nan + nan) 0xFFFFFFFF⟩

/-- Commits events of a word or command issued at a cycle: to the table, and to the restart snapshot if it lies
before the mark; nothing if an `eret.r` made it void (R179 to R181). -/
def Team.commit (t : Team) (issue tid sat ftz nan : Nat) : Team :=
  if t.voids.any fun v => decide (v.1 < issue) && decide (issue ≤ v.2) then t
  else { t with
    stats := addStat t.stats tid sat ftz nan
    snap := if issue ≤ t.mark then addStat t.snap tid sat ftz nan else t.snap }

/-- A landed result is stored; a maximum update issued before the mark also merges into the snapshot (R213). The scalar
result of a command whose push a command popped is no longer awaited once a word has written its register (R38). -/
def Core.storeLanded (c : Core) (d : Dest) (x : Nat) : Core :=
  let c := c.store d x
  match d with
  | .v n => { c with landed := n :: c.landed }
  | .s n => { c with opens := c.opens.filter fun w => !(w.taken && w.sreg == n) }
  | _ => c

/-- An update of an amax register from before the mark merges into the snapshot as it lands (R213). -/
def Core.mergeAmax (c : Core) (l : Landing) : Core :=
  match l.dest with
  | .amaxUp m =>
    if l.issue ≤ c.restart.at_ then
      let old := (look 0 c.restart.amax m).toNat
      { c with restart := { c.restart with amax := put 0 c.restart.amax m (BitVec.ofNat 64 (max old l.value)) } }
    else c
  | _ => c

/-- A result in flight lands with its rivals: one outcome is stored (R44, R213). -/
def State.landNow (s : State) (l : Landing) : State :=
  let g := s.core.rivals l
  let o := s.landValue l
  s.onCore fun c =>
    let c := { c with pend := c.pend.filter fun x => !g.contains x }
    (g.foldl Core.mergeAmax c).storeLanded o.1 o.2

/-- Whether a result in flight, with its rivals, may land: none of them is a row pass's that has no value yet (R218). -/
def Core.landable (c : Core) (cycle : Nat) (l : Landing) : Bool :=
  (c.rivals l).all fun k => c.mayLand k.due cycle && k.tag != 3

/-- The same for a byte write (R156). -/
def Core.lsLandable (c : Core) (cycle : Nat) (w : LsWrite) : Bool :=
  ((c.lsRivals w).all fun k => c.mayLand k.due cycle) && !inRanges (c.rowWrites (cycle + 1)) w.addr

/-- A byte write lands with its rivals: one of those that may prevail is stored (R118, R156). -/
def State.landByte (s : State) (k : Nat) (w : LsWrite) : State :=
  let g := s.core.lsRivals w
  let vs := (g.filter fun x => x.stands g).map (·.value)
  let b := s.landedLs w.addr (vs.getD (s.pick (slotOf 9 1 k) (vs.length - 1)) w.value)
  let granule (c : Core) : SMap Byte :=
    match s.core.oldsOf s.cycle w.addr with
    | [] => put 0 c.ls w.addr b
    | _ => (List.range 32).foldl (fun m i =>
        let a := w.addr / 32 * 32 + i
        match s.core.oldsOf s.cycle a with
        | [] => m
        | _ => put 0 m a (s.seenLs 15 a)) c.ls
  s.onCore fun c => { c with lsPend := c.lsPend.filter fun x => x.addr != w.addr, ls := granule c }

/-- RESULT_LANDING: the k-th of the results in flight (registers, then LS bytes, then statistic events) lands
(R17, R42, R44, R156, R179). -/
def execResultLanding (k : Nat) (s : State) : Out :=
  let c := s.core
  match c.pend[k]? with
  | some l => if c.landable s.cycle l then .next (s.landNow l) else .next s
  | none =>
    match c.lsPend[k - c.pend.length]? with
    | some w => if c.lsLandable s.cycle w then .next (s.landByte k w) else .next s
    | none =>
      match c.counts[k - c.pend.length - c.lsPend.length]? with
      | some e =>
        if c.mayLand e.due s.cycle then
          .next ((s.onCore fun c => { c with
            counts := c.counts.eraseIdx (k - c.pend.length - c.lsPend.length) }).onMyTeam fun t =>
              t.commit e.issue e.tid e.sat e.ftz e.nan)
        else .next s
      | none => .next s

/-- Whether a strand may issue at all: its section has words, the core runs, and in handler mode only S (R274,
R293, R347). -/
def Core.active (c : Core) (st : Strand) : Bool :=
  c.team.isSome && !c.isDone && !c.stopped && decide (c.hold = .none)
    && (if c.handler.isSome then st == .s else decide (c.lens.getD st.num 0 ≠ 0))

/-- The section that a strand fetches from, by its place in the scratchpad: in handler mode S has the trap section
(R26, R347). -/
def Core.sectionOf (c : Core) (st : Strand) : Nat := if st = .s ∧ c.handler.isSome then 4 else st.num

/-- Whether an offset is one of a section's words (R26). -/
def inSection (k pc : Nat) : Bool :=
  decide (pc % 4 = 0) && decide ([0, 0x14000, 0x28000, 0x30000, 0x38000].getD k 0 ≤ pc)
    && decide (pc < [0x14000, 0x28000, 0x30000, 0x38000, 0x40000].getD k 0)

/-- The lock bit of a strand's next word; in handler mode L counts as 0, and a strand within a gap or outside its
section has no word to come (R26, R33, R288, R347). -/
def State.nextL (s : State) (st : Strand) : Bool :=
  let t := s.core.thr.get st
  bit (s.nowWord st) 31 && s.core.handler.isNone && t.gap == 0 && inSection st.num t.pc

/-- Whether a strand stands at lock entry: not in the lock, named in LOCKMASK, its next word with L = 1 (R39,
R41). -/
def State.atEntry (s : State) (st : Strand) : Bool :=
  s.core.active st && s.nextL st && !(s.core.thr.get st).inLock && s.core.inMask st

/-- Whether lock entry opens: every strand that LOCKMASK names is in the lock or has an L = 1 word next (R41). -/
def State.entryOpen (s : State) : Bool :=
  [Strand.s, .v, .m, .x].all fun st =>
    !s.core.inMask st || (s.core.thr.get st).inLock || (s.core.active st && s.nextL st)

/-- The strands that issue in this cycle, in the order in which the model runs them: V, M, X, then S. -/
def State.bundle (s : State) : List Strand :=
  [Strand.v, .m, .x, .s].filter fun st => s.core.active st && (!s.atEntry st || s.entryOpen)

/-- LOCK_ENTRY_RELEASE: the strands that hold at lock entry issue with the group in the cycle in which the last
of them arrives (R41). -/
def execLockEntryRelease (s : State) : Out :=
  if s.entryOpen ∧ [Strand.s, .v, .m, .x].any s.atEntry then .next { s with phase := .issue s.bundle } else .next s

/-- DOMAIN_WAKE_COMPLETE: a WAKING domain becomes ON in its cycle: zero from OFF; from RET with its contents, or,
where their parity fails, zero and LOST (R56, R60, R63). -/
def execDomainWakeComplete (d : Nat) (parityFail : Bool) (s : State) : Out :=
  match s.core.domAt d with
  | .waking t fromRet =>
    if t ≤ s.cycle then
      .next (s.onCore fun c =>
        let c := { c with dom := put .off c.dom d .on }
        if !fromRet then c.anew s.cycle d
        else if parityFail then
          let c := c.zeroDomain d
          { c with lost := if c.lost.contains d then c.lost else d :: c.lost }
        else c)
    else .next s
  | _ => .next s

/-- DOMAIN_GATING: the device gates a domain that is OFF once its accepted work is done; its contents are gone,
and no outcome depends on when (R62): VALID of ge becomes zero only as ge becomes ON (R246). -/
def execDomainGating (d : Nat) (s : State) : Out :=
  if s.core.domAt d = .off ∧ s.core.pend = [] ∧ s.core.lsPend = [] ∧ s.core.rows = [] ∧ s.core.gev = none ∧ s.core.gevEnds = []
      ∧ [4, 5, 6, 7, 8].all (fun q => (s.core.queue q).cmds == []) then .next (s.onCore fun c => { c.zeroDomain d with gcfg := c.gcfg, gvalid := c.gvalid })
  else .next s

/-- The end of a cycle for the balance: 1 more after every eighth cycle below 64 (R58). -/
def Core.refillOne (c : Core) : Core :=
  if c.bal ≥ 64 then { c with refill := 0 }
  else if c.refill + 1 = 8 then { c with bal := c.bal + 1, refill := 0 }
  else { c with refill := c.refill + 1 }

/-- INRUSH_REFILL: the end of a cycle with the balance below 64 (R58). -/
def execInrushRefill (s : State) : Out := .next (s.onCore Core.refillOne)

end Sys2Proof.Machine
end

