-- ==== Sys2Proof/Machine/Queues.lean ====
section
/-! DEFINITION. The engine queues that all asynchronous commands share (R38, R115 to R118, R125 to R129, R264): how a
command enters its queue, takes its pops, fails, and completes. -/

namespace Sys2Proof.Machine

/-! ### Where a command's bytes lie -/

/-- A byte of the local store, of far memory (by virtual address), of the scratchpad, or of a launch's argument
snapshot. -/
inductive Loc where
  | ls (a : Nat)
  | far (va : Nat)
  | code (off : Nat)
  | arg (i : Nat)
deriving DecidableEq, Repr

/-- A location's space and address. -/
def Loc.space : Loc → Nat
  | .ls _ => 1 | .far _ => 2 | .code _ => 3 | .arg _ => 4
def Loc.addr : Loc → Nat
  | .ls a => a | .far a => a | .code a => a | .arg a => a

/-- Total bytes of a copy (R119, R121). -/
def Geo.total (g : Geo) : Nat := g.c0 * g.c.foldl (· * ·) 1

/-- The offset of outer indices under strides: `rest` is the index with i0 divided out (R122, R124). -/
def outerOff : List Nat → List Int → Nat → Int
  | n :: ns, st :: sts, rest => (rest % n : Nat) * st + outerOff ns sts (rest / n)
  | _, _, _ => 0

/-- The index of the outermost dimension. -/
def lastIndex : List Nat → Nat → Nat
  | [], _ => 0
  | [_], rest => rest
  | n :: ns, rest => lastIndex ns (rest / n)

/-- The address at which row `r` starts on a side (R122): `dst` chooses the side. -/
def Geo.rowAt (g : Geo) (dst : Bool) (r : Nat) : Int :=
  let base : Int := if dst then g.dst else g.src
  let t : Int := if g.bt ∧ g.btDst = dst then ((g.table.getD (lastIndex g.c r) 0 : Nat) : Int) else 0
  base + t + outerOff g.c (if dst then g.ds else g.ss) r

/-- Number of rows, and the address of byte `i`. -/
def Geo.rows (g : Geo) : Nat := g.c.foldl (· * ·) 1
def Geo.byteAt (g : Geo) (dst : Bool) (i : Nat) : Int := g.rowAt dst (i / g.c0) + (i % g.c0 : Nat)

/-- Whether a side is the LS (R119): DIR 0 far to LS, 1 LS to far, 2 far to far. -/
def Geo.lsSide (g : Geo) (dst : Bool) : Bool := if dst then g.dir == 0 else g.dir == 1

/-- A byte of a side as a location; a negative far address is read as its 64-bit pattern. -/
def Geo.loc (g : Geo) (dst : Bool) (i : Nat) : Loc :=
  if g.lsSide dst then .ls (g.byteAt dst i).toNat else .far (patOf 64 (g.byteAt dst i))

/-- How many bytes a command moves, and where its byte `i` comes from and goes to. -/
def CmdOp.size : CmdOp → Nat
  | .copy g => g.total
  | .ovl _ _ n => n
  | .arg _ bytes => bytes.length
  | _ => 0
def CmdOp.src : CmdOp → Nat → Loc
  | .copy g, i => g.loc false i
  | .ovl _ a _, i => .far (a + i)
  | _, i => .arg i
def CmdOp.dst : CmdOp → Nat → Loc
  | .copy g, i => g.loc true i
  | .ovl off _ _, i => .code (off + i)
  | .arg ls _, i => .ls (ls + i)
  | _, i => .arg i

/-- The scalar register that a command's result goes to; 0 for none (R38). -/
def CmdOp.sreg : CmdOp → Nat
  | .fld xa _ _ => xa
  | .amo _ xa _ _ => xa
  | .query xa _ => xa
  | .reclaim xa _ => xa
  | _ => 0

/-- Element size, element count, slot size and slot capacity of a transform's control operand (R139, R147). -/
def czE (ctl : Nat) : Nat := 2 ^ bits ctl 61 60
def czN (ctl : Nat) : Nat := bits ctl 19 0
def czS (ctl : Nat) : Nat := 32 * bits ctl 38 23
def czC (ctl : Nat) : Nat := czS ctl - 4 * ((czS ctl + 4095) / 4096)

/-- The far bytes of a command that is no copy: each unit is one action at its home (R72, R132 to R134, R149). -/
def CmdOp.unitAt : CmdOp → Nat → Nat × Nat
  | .fld _ a w, _ => (a, 2 ^ w)
  | .fst a w _, _ => (a, 2 ^ w)
  | .amo _ _ a _, _ => (a, 8)
  | .vamo _ a _ _, i => (a + 32 * i, 32)
  | .pak slot _ _, i => (slot + 32 * i, 32)
  | .unp _ slot _, i => (slot + 32 * i, 32)
  | _, _ => (0, 0)

/-- The units of a command that is no copy. -/
def CmdOp.units : CmdOp → List Nat
  | .fld _ _ _ => [0]
  | .fst _ _ _ => [0]
  | .amo _ _ _ _ => [0]
  | .vamo _ _ mask _ => (List.range 16).filter fun g => bitOf mask g
  | .pak _ _ ctl => List.range (czS ctl.toNat / 32)
  | .unp _ _ ctl => List.range (czS ctl.toNat / 32)
  | _ => []

/-- The LS ranges of the rows of one side of a copy. -/
def Geo.lsRows (g : Geo) (dst : Bool) : List (Nat × Nat) :=
  if g.total = 0 then []
  else (List.range g.rows).map fun r => ((g.rowAt dst r).toNat, (g.rowAt dst r).toNat + g.c0)

/-- LS bytes that a command writes, and that it reads. `czlist` is CZLIST, to whose list `xunp` appends (R146). -/
def CmdOp.lsWrites (czlist : Nat) : CmdOp → List (Nat × Nat)
  | .copy g => if g.dir = 0 then g.lsRows true else []
  | .arg ls bytes => [(ls, ls + bytes.length)]
  | .unp ls _ ctl =>
    [(ls, ls + czN ctl.toNat * czE ctl.toNat),
     (16 * bits czlist 20 4, 16 * bits czlist 20 4 + 16 * bits czlist 47 32)]
  | _ => []
def CmdOp.lsReads : CmdOp → List (Nat × Nat)
  | .copy g => if g.dir = 1 then g.lsRows false else []
  | .pak _ ls ctl => [(ls, ls + czN ctl.toNat * czE ctl.toNat)]
  | _ => []

/-! ### Entering a queue (R38, R115, R118, R310) -/

/-- The pops of a token word. -/
def tokPops (t : Tok) : List Nat := [t.popA, t.popB, t.popC].filter fun k => k != 15

/-- The window that a command keeps from its issue on. A core-port write in flight to a byte that it reads changes its source
(R129); a nest reads its operands as they stand when it starts (R156, R230). -/
def windowOf (s : State) (q idx push : Nat) (op : CmdOp) : Window where
  queue := q
  idx := idx
  issue := s.cycle
  push := push
  pushed := false
  taken := false
  from_ := s.cycle + 1
  writes := op.lsWrites (s.core.csrAt 0x30).toNat
  reads := op.lsReads
  banks := []
  tile := none
  vregs := []
  sreg := op.sreg
  closed := false
  spoilt := []
  dirty := ((s.core.lsPend.filter fun w => inRanges op.lsReads w.addr).map fun w => (w.addr, w.addr + 1))
    ++ op.lsReads.flatMap fun a => (s.core.rowWrites (s.cycle + 1)).map fun b => (max a.1 b.1, min a.2 b.2)
  olds := []
  vague := []
  fed := none

/-- A window opens. -/
def State.openWindow (s : State) (w : Window) : State := s.onCore fun c => { c with opens := c.opens ++ [w] }

/-- The scalar operands that the X word issuing now names: the three of X.R, or the two of X.V (R37, R49). -/
def State.argsNow (s : State) : List Word :=
  let w := s.nowWord .x
  let op := bits w 30 25
  if (8 ≤ op ∧ op ≤ 0xB) ∨ op = 0x18 ∨ op = 0x19 then [s.readS 0 (bits w 16 11), s.readS 1 (bits w 10 5)]
  else [s.readS 0 (bits w 24 19), s.readS 1 (bits w 18 13), s.readS 2 (bits w 12 7)]

/-- A command enters its queue (R115): the windows its pops wait on close, its own opens, and the trace ring
records it. `s` is the state at issue, `st` the strand that issued it. -/
def State.accept (s' s : State) (st : Strand) (q : Nat) (op : CmdOp) (t : Tok) (bar : Option (Nat × Nat))
    (fail : Bool) (w : Window) : State :=
  let qu := s'.core.queue q
  let cmd : Cmd := { idx := qu.next, word := s.nowWord st, word1 := encTok t, args := if st = .x then s.argsNow else [], op := op, push := t.push, pops := tokPops t, issue := s.cycle, accepted := s.cycle
                     stage := .waiting, pins := [], todo := [], got := [], bar := bar, fail := fail
                     watch := none, late := none, began := 0 }
  let s' := s'.onCore fun c => (tokPops t).foldl Core.close c
  let s' := s'.openWindow { w with idx := qu.next }
  let s' := s'.onCore fun c => c.setQueue q { qu with cmds := qu.cmds ++ [cmd], next := (qu.next + 1) % 2 ^ 16 }
  s'.ring 2 q (2 ^ 32 * qu.next + s.nowWord st)

/-- The cause of a full queue (R115). -/
def State.queueTraps (s : State) (q : Nat) : List Trap :=
  if (s.core.queue q).cmds.length ≥ queueCap q then [fullTrap q] else []

/-- The issue of an asynchronous X word. -/
def xi (l : Bool) (g : Guard) (t : Tok) : Issue :=
  { st := .x, cls := 15, len := 8, l := l, g := some g, async := some t.push }

/-! ### Taking pops (R38, R295, R264) -/

/-- Whether channels hold the tokens that pops take. -/
def Core.canPop (c : Core) (pops : List Nat) : Bool :=
  pops.all fun k => decide ((pops.filter (· == k)).length ≤ c.tokens k)

/-- Takes pops: the pushes they came from have been taken. -/
def Core.takePops (c : Core) (pops : List Nat) : Core :=
  pops.foldl (fun c k => (c.setTokens k (c.tokens k - 1)).popped k) c

/-- The first command of a queue that has not begun. -/
def Queue.head (q : Queue) : Option Cmd := q.cmds.find? fun c => decide (c.stage ≠ .begun)

/-- Whether every mark that stands before a command lets it begin: every command before the mark has completed, a failed
one by its replay (R117, R127, R264). -/
def Core.marksPassed (c : Core) (issue : Nat) : Bool :=
  c.qmarks.all fun m => decide (issue ≤ m) || [4, 5, 6].all fun q => (c.undone q).all fun x => decide (x.issue > m)

/-- The head of a queue that waits for its pops and could take them now. -/
def Core.ready (c : Core) (q : Nat) : Option Cmd :=
  match (c.queue q).head with
  | some x =>
    if x.stage = .waiting ∧ !(c.queue q).halted ∧ (c.marksPassed x.issue || !([4, 5, 6].contains q)) ∧ c.canPop x.pops
    then some x else none
  | none => none

/-- Whether the head of a queue may take its pops: no queue that is served before it wants one of its channels
(R295). -/
def Core.mayTake (c : Core) (q : Nat) (pops : List Nat) : Bool :=
  ([7, 4, 5, 6, 8].takeWhile (· != q)).all fun p => match c.ready p with
    | some x => x.pops.all fun k => !pops.contains k
    | none => true

/-- Whether two commands of a queue are one: the index alone repeats after 65,536 commands (R115, R136). -/
def Cmd.same (x y : Cmd) : Bool := x.idx == y.idx && x.issue == y.issue

/-- Whether a window is a command's. -/
def Window.of (w : Window) (q : Nat) (x : Cmd) : Bool := w.queue == q && w.idx == x.idx && w.issue == x.issue

/-- Replaces a command of a queue. -/
def Core.setCmd (c : Core) (q : Nat) (x : Cmd) : Core :=
  let qu := c.queue q
  c.setQueue q { qu with cmds := qu.cmds.map fun y => if y.same x then x else y }

/-- Removes a command of a queue. -/
def Core.dropCmd (c : Core) (q : Nat) (x : Cmd) : Core :=
  let qu := c.queue q
  c.setQueue q { qu with cmds := qu.cmds.filter fun y => !y.same x }

/-- Ends the window of a command that will not push. -/
def Core.endWindow (c : Core) (q : Nat) (x : Cmd) : Core := { c with opens := c.opens.filter fun w => !w.of q x }

/-- The launch tag of the resident team. -/
def State.myTag (s : State) : Nat := (s.core.team.map (·.ltag)).getD 0

/-! ### Failing and completing (R126, R127) -/

/-- The watchpoint trap of a command whose accesses matched (R365). -/
def Cmd.watchTraps (x : Cmd) (q : Nat) : List Trap :=
  (x.watch.map fun w => (⟨18, info q (2 ^ 58 * w.1 + 2 ^ 56 * w.2.1 + 2 ^ 32 * x.idx + w.2.2)⟩ : Trap)).toList

/-- What is left of the window of a failed command: it bars nothing, and goes on noting what is written to the command's source,
since a replay completes that command (R129, R136). -/
def Window.failed (w : Window) : Window := { w with closed := true, sreg := 0, writes := [], olds := [], vague := [] }

/-- A command of a core fails: no push, the queue halted, the fault record kept, an imprecise trap raised (R126), and one for
an access that matched a watchpoint (R365). A nest's window stays open until `mdrain` discards it (R229, R240). -/
def Core.failCmd (c : Core) (cycle q : Nat) (x : Cmd) (t : Trap) : Core :=
  let c := c.dropCmd q x
  let c := if q = 7 then c else
    let c := match (c.queue q).record with
      | some e => c.endWindow q e.2
      | none => c
    { c with opens := c.opens.map fun w => if w.of q x then w.failed else w }
  let c := c.setQueue q { c.queue q with halted := true, record := some (cycle, x) }
  { c with impr := c.impr ++ t :: x.watchTraps q }

/-- What a rollback of a command left unspecified is so no more (R128). -/
def State.clearVague (s : State) (q : Nat) (x : Cmd) : State :=
  let hit (v : Vague) : Bool := s.core.team == some v.team && v.rank == s.core.rank && v.queue == q && v.idx == x.idx
  if s.dev.vague = [] then s else s.onDev fun d => { d with vague := d.vague.filter fun v => !hit v }

/-- A command fails before its bytes move, or over a lost path: its barrier bytes are removed as well (R126). -/
def State.failCmd (s : State) (q : Nat) (x : Cmd) (t : Trap) : State :=
  let s := if x.fail then s else s.dropPending s.myTag x.bar
  (s.clearVague q x).onCore fun c => c.failCmd s.cycle q x t

/-- The transfer trap of a command (R344). -/
def transferTrap (q idx reason kind : Nat) : Trap := ⟨16, info q (2 ^ 16 * idx + 2 ^ 8 * reason + kind)⟩

/-- A command of a core completes: the token is pushed; a refusal found late is raised; a watchpoint it matched
halts its queue and is raised (R107, R127, R362, R365). -/
def Core.complete (c : Core) (cycle q : Nat) (x : Cmd) : Core :=
  let c := c.dropCmd q x
  let mark (w : Window) : Window := if w.of q x then { w with pushed := true, vague := [] } else w
  let token : Push := ⟨pushRank (queueRank q) x.idx, x.push, q, x.idx⟩
  let c := { c with opens := c.opens.map mark, arrivals := c.arrivals ++ [token] }
  let c := c.ringAdd cycle 3 q (2 ^ 32 * x.idx)
  let c := match x.late with
    | some k => { c with impr := c.impr ++ [transferTrap q x.idx 0 k] }
    | none => c
  match x.watch with
  | none => c
  | some _ => { c.setQueue q { c.queue q with halted := true } with impr := c.impr ++ x.watchTraps q }

/-- A command of the focus core completes: its barrier bytes go as well (R127). -/
def State.complete (s : State) (q : Nat) (x : Cmd) : State :=
  ((s.dropPending s.myTag x.bar).clearVague q x).onCore fun c => c.complete s.cycle q x

/-- Whether the command of a window has begun. -/
def Core.begun (c : Core) (w : Window) : Bool :=
  (c.queue w.queue).cmds.any fun x => w.of w.queue x && x.stage == .begun

/-- The commands of a queue that cannot begin before a token of one of some channels comes: one that waits to pop it, and those
behind that one. -/
def Core.behind (c : Core) (ks : List Nat) (q : Nat) : List Cmd :=
  (c.queue q).cmds.dropWhile fun y => !(y.stage == .waiting && y.pops.any ks.contains)

/-- The channels whose next tokens wait, one through another, on those of some channels. -/
def Core.channelsAfter (c : Core) : Nat → List Nat → List Nat
  | 0, ks => ks
  | n + 1, ks => c.channelsAfter n (ks ++ [4, 5, 6, 7, 8].flatMap fun q => (c.behind ks q).map (·.push)).eraseDups

/-- Whether a token or a `qmark` keeps the command of a window from beginning before another command has completed (R38, R117,
R264). -/
def Core.orders (c : Core) (q : Nat) (x : Cmd) (w : Window) : Bool :=
  let ks := if c.opens.any fun v => v.of q x && v.closed then c.channelsAfter 15 [x.push] else []
  !c.begun w && ((c.behind ks w.queue).any (w.of w.queue)
    || ([4, 5, 6].contains q && [4, 5, 6].contains w.queue && c.qmarks.any fun m => decide (x.issue ≤ m) && decide (m < w.issue)))

/-- A window as an engine write of a command leaves it. The command's own keeps what the bytes were (R118). Until its command
completes, another's is spoilt in the bytes that it reads (R129, R230), unless an order holds that command back until the writer
has completed. Copies and transforms of one queue take turns on a byte (R116, R138). -/
def Window.afterWrite (w : Window) (q : Nat) (x : Cmd) (ordered : Bool) (cells : List (Nat × Byte))
    (olds : List (Nat × Nat × Byte)) : Window :=
  if w.pushed then w
  else if w.of q x then { w with olds := w.olds ++ olds.filter fun e => !w.olds.any fun o => o.1 == e.1 }
  else if (w.queue == q && q != 7) || (w.queue == 7 && w.closed) || ordered then w
  else { w with dirty := ((cells.filter fun e => inRanges w.reads e.1 || w.queue == 7).map fun e => (e.1, e.1 + 1)) ++ w.dirty }

/-- An engine write of LS bytes by a command (R62, R118, R129, R230). -/
def State.engineWrite (s : State) (q : Nat) (x : Cmd) (cells : List (Nat × Byte)) : State :=
  s.onCore fun c =>
    let here := cells.filter fun e => (c.ghostOf (lsDom e.1) x.accepted).isNone
    let olds := here.map fun e => (e.1, s.fresh, look 0 c.ls e.1)
    let c' := cells.foldl (fun c e => c.putLsOf x.accepted e.1 e.2) c
    { c' with opens := c.opens.map fun w => w.afterWrite q x (c.orders q x w) cells olds }

/-- Writes scratchpad bytes of an `ovl`: whole words, which its section's declared length does not bound (R34, R135). -/
def Core.writeCode (c : Core) (cells : List (Nat × Byte)) : Core :=
  let one (m : SMap Word32) (e : Nat × Byte) : SMap Word32 :=
    let old := toBytes 4 (look 0 m (e.1 / 4)).toNat
    put 0 m (e.1 / 4) (BitVec.ofNat 32 (leNat (old.set (e.1 % 4) e.2)))
  { c with
    code := cells.foldl one c.code
    ovlAt := cells.foldl (fun m e => put false m (e.1 / 4) true) c.ovlAt }

end Sys2Proof.Machine
end

