-- ==== Sys2Proof/Machine/Matrix.lean ====
section
/-! DEFINITION. The matrix engine (R157, R174, R175, R220 to R242). A nest's slots are computed in one step at its
completion: its operands cannot change meanwhile without leaving what they feed unspecified (R229, R230). -/

namespace Sys2Proof.Machine

/-- The issue of an M word of class mctl. -/
def mi (cls : Nat) (l : Bool) (g : Guard) : Issue := { st := .m, cls := cls, l := l, g := some g }

/-- What a register of the M strand holds once every earlier M word has landed (R44, R227, R237). -/
def State.settled (s : State) (d : Dest) (now : Nat) : Nat :=
  let g := s.core.pend.filter fun l => decide (l.dest = d)
  let o := g.filter fun l => l.stands g
  (o.map (·.value)).getD (s.core.chosen d g o.length) now

def State.tcfgNow (s : State) : Nat := s.settled (.csr 0x2B) (s.core.csrAt 0x2B).toNat
def State.streamNow (s : State) (n : Nat) : Nat := s.settled (.q n) (look 0 s.core.q n).toNat
/-- The word of the shadow set: levels 0 to 5, the slot word 6 (R224, R225). -/
def Core.nestWord (c : Core) (n : Nat) : Nat := (look (if n = 6 then 0x01000000 else 0) c.nest n).toNat
def State.nestNow (s : State) (n : Nat) : Nat := s.settled (.nest n) (s.core.nestWord n)
def State.gangNow (s : State) : Nat := s.settled .gang s.core.gang

/-- A core's sharing mode as it will stand. -/
def Core.mode (c : Core) : Nat := ((c.pend.filter fun l => decide (l.dest = .gang)).getLast?.map (·.value)).getD c.gang

/-- Whether some core of the focus core's gang has a sharing mode other than zero. -/
def State.gangShares (s : State) : Bool :=
  s.gangNow != 0 || match s.core.team with
    | some id => (s.coresOf id).any fun c => c.place != s.core.place && c.mode != 0
    | none => false

/-! ### Tiles (R221) -/

def tBase (w : Nat) : Nat := bits w 21 16
def tLast (w : Nat) : Nat := bits w 10 8
def tCols (w : Nat) : Nat := bits w 7 4
def tRows (w : Nat) : Nat := bits w 3 0
def tSize (w : Nat) : Nat := 32 * tRows w * tCols w

/-- The physical registers of a tile, of all tiles. -/
def tileRegs (w t : Nat) : List Nat := groupOf (32 * tBase w + tSize w * t) (tSize w)
def allTileRegs (w : Nat) : List Nat := groupOf (32 * tBase w) (tSize w * (tLast w + 1))

/-- Whether a nest is open, and one that names a tile (R229). -/
def Core.nestOpen (c : Core) : Bool := c.opens.any fun w => w.queue == 7 && !w.closed
def Core.tileOpen (c : Core) (t : Nat) : Bool := c.opens.any fun w => w.queue == 7 && !w.closed && w.tile == some t

/-- The timing cause of the matrix engine (R229). -/
def matrixTrap (busy : Bool) : List Trap := if busy then [timingTrap 7 3] else []

/-- Writes +0 to registers by the mctl bound, as a tile clear (R227). -/
def State.clearRegs (s : State) (regs : List Nat) : State := regs.foldl (fun s r => s.land 12 (.v r) 0 2) s

/-- MCFG (R236). -/
def execMcfg (l : Bool) (sa : Nat) (g : Guard) (s : State) : Out :=
  let w := (s.readS 0 sa).toNat
  let ok := decide (bits w 63 22 = 0) && decide (bits w 15 11 = 0) && decide (1 ≤ tRows w) && decide (tRows w ≤ 3)
    && decide (1 ≤ tCols w) && decide (tCols w ≤ 5)
    && decide (32 * tBase w + tSize w * (tLast w + 1) ≤ 1280)
  s.issue (mi 12 l g)
    (fun s => (if ok then s.useDoms .m ((allTileRegs w).map vbDom).eraseDups else [s.operandTrap .m])
      ++ matrixTrap s.core.nestOpen)
    fun s' => (s'.land 12 (.csr 0x2B) w).clearRegs (allTileRegs w)

/-- MSTREAM (R222, R237): the descriptor is read in the issue cycle. -/
def execMstream (l : Bool) (q sa : Nat) (g : Guard) (s : State) : Out :=
  let a := (s.readS 0 sa).toNat
  let d := leNat (s.readLsN 0 a 16)
  s.issue (mi 12 l g)
    (fun s =>
      if a % 16 ≠ 0 ∨ a > 0x1FFFF0 then [alignTrap .m a]
      else s.useDoms .m [lsDom a]
        ++ (if s.core.isOn (lsDom a) ∧ (bits d 58 56 ≠ 0 ∨ bits d 53 0 ≠ 0) then [s.operandTrap .m] else [])
        ++ s.portTraps .m [s.portNow .m a 16])
    fun s' => (s'.usePorts [s.portNow .m a 16]).land 12 (.q q) d

/-- MNEST (R224, R225, R238). -/
def execMnest (l : Bool) (n sa : Nat) (g : Guard) (s : State) : Out :=
  let w := (s.readS 0 sa).toNat
  let ok := if n < 6 then decide (bits w 15 0 = 0)
    else decide (bits w 63 32 = 0) && decide (bits w 17 12 = 0) && decide (bits w 20 18 ≤ 5)
  s.issue (mi 12 l g) (fun s => if ok then [] else [s.operandTrap .m]) fun s' => s'.land 12 (.nest n) w

/-- MZERO (R237). -/
def execMzero (l : Bool) (tile : Nat) (g : Guard) (s : State) : Out :=
  let w := s.tcfgNow
  let ok := decide (tRows w ≠ 0) && decide (tCols w ≠ 0) && decide (tile ≤ tLast w)
  s.issue (mi 12 l g)
    (fun s => (if ok then s.useDoms .m ((tileRegs w tile).map vbDom).eraseDups else [s.operandTrap .m])
      ++ matrixTrap (s.core.tileOpen tile))
    fun s' => s'.clearRegs (tileRegs w tile)

/-- MGANG (R232, R241). -/
def execMgang (l : Bool) (mode : Nat) (g : Guard) (s : State) : Out :=
  let width := (s.team.map Team.width).getD 1
  let ok := (mode % 2 == 0 || decide (width ≥ 2)) && (mode / 2 == 0 || decide (width = 4))
  s.issue (mi 12 l g)
    (fun s => (if ok then [] else [s.operandTrap .m]) ++ matrixTrap s.core.nestOpen)
    fun s' => s'.land 12 .gang mode

/-- MSTAT (R242): a counter as committed. -/
def execMstat (l : Bool) (c sa sb : Nat) (g : Guard) (s : State) : Out :=
  let a := (s.readS 0 sa).toNat
  s.issue (mi 12 l g) (fun s => if a ≥ 2 ^ 12 then [s.operandTrap .m] else []) fun s' =>
    let e : Stat := look ⟨0, 0, 0⟩ ((s.team.map (·.stats)).getD []) a
    s'.land 12 (.s sb) (if c = 0 then e.sat else if c = 1 then e.ftz else e.nan)

/-! ### Streams and nests (R222 to R226) -/

/-- The fields of a stream register. -/
structure Stream where
  base : Nat
  sbase : Nat
  kstr : Nat
  pstr : Nat
  sstr : Nat
  fmt : Nat

def streamOf (d : Nat) : Stream :=
  ⟨256 * bits d 127 115, 64 * bits d 114 100, 256 * bits d 99 87, 256 * bits d 86 74, 64 * bits d 73 59, bits d 55 54⟩

/-- Plane count of a format (R222). -/
def planes (fmt : Nat) : Nat := if fmt = 0 then 4 else if fmt = 1 then 3 else 2

/-- A level's iteration count minus 1 and its steps. -/
structure Level where
  cm1 : Nat
  ks : Int
  ap : Int
  bp : Int
  tr : Int
  tc : Int

def levelOf (w : Nat) : Level :=
  ⟨bits w 63 48, sext (bits w 47 40) 8, sext (bits w 39 32) 8, sext (bits w 31 24) 8, sext (bits w 23 20) 4,
    sext (bits w 19 16) 4⟩

/-- The levels of a snapshot, innermost first, and the fields of its slot word. -/
def NestSnap.lv (n : NestSnap) : List Level :=
  (n.levels.take (bits n.slot.toNat 20 18 + 1)).map fun w => levelOf w.toNat
def NestSnap.tile (n : NestSnap) : Nat := bits n.slot.toNat 23 21
def NestSnap.tid (n : NestSnap) : Nat := bits n.slot.toNat 11 0

/-- A slot's indices. -/
structure SlotIx where
  ks : Int
  ap : Int
  bp : Int
  tr : Int
  tc : Int

/-- The slots of levels, outermost first, in lexicographic order of the tuples (R226). -/
def slotsOf : List Level → List SlotIx
  | [] => [⟨0, 0, 0, 0, 0⟩]
  | v :: vs => (List.range (v.cm1 + 1)).flatMap fun (i : Nat) => (slotsOf vs).map fun t =>
      ⟨t.ks + i * v.ks, t.ap + i * v.ap, t.bp + i * v.bp, t.tr + i * v.tr, t.tc + i * v.tc⟩

def NestSnap.slots (n : NestSnap) : List SlotIx := slotsOf n.lv.reverse
def NestSnap.count (n : NestSnap) : Nat := (n.lv.map fun v => v.cm1 + 1).foldl (· * ·) 1

/-- The least and greatest value of an affine function of the level indices, from its coefficient in each level. -/
def extremes (lv : List Level) (f : Level → Int) : Int × Int :=
  ((lv.map fun v => min 0 ((v.cm1 : Int) * f v)).foldl (· + ·) 0,
   (lv.map fun v => max 0 ((v.cm1 : Int) * f v)).foldl (· + ·) 0)

/-- Whether the indices of every slot are legal (R228). -/
def NestSnap.legal (n : NestSnap) : Bool :=
  let w := n.tcfg.toNat
  let lv := n.lv
  decide (tRows w ≠ 0) && decide (tCols w ≠ 0) && decide (n.tile ≤ tLast w) && decide (n.count ≤ 2 ^ 32)
  && decide (0 ≤ (extremes lv (·.ks)).1) && decide (0 ≤ (extremes lv (·.ap)).1) && decide (0 ≤ (extremes lv (·.bp)).1)
  && decide (0 ≤ (extremes lv (·.tr)).1) && decide ((extremes lv (·.tr)).2 < tRows w)
  && decide (0 ≤ (extremes lv (·.tc)).1) && decide ((extremes lv (·.tc)).2 < tCols w)

/-- The lowest and highest byte of a stream's slabs, and of its scales; `p` is the panel index of the side. -/
def slabRange (lv : List Level) (q : Stream) (p : Level → Int) : Int × Int :=
  let e := extremes lv fun v => p v * q.pstr + v.ks * (2 * q.kstr)
  (q.base + e.1, q.base + e.2 + q.kstr + 256 * planes q.fmt - 1)
def scaleRange (lv : List Level) (q : Stream) (p : Level → Int) : Int × Int :=
  let e := extremes lv fun v => p v * q.sstr + v.ks * 64
  (q.sbase + e.1, q.sbase + e.2 + 63)

/-- Whether a core of a gang rank receives the A (or B) stream from a peer (R232), and the peer's rank. -/
def takesA (share rank : Nat) : Bool := share % 2 == 1 && rank % 2 == 1
def takesB (share rank : Nat) : Bool := share / 2 % 2 == 1 && rank / 2 == 1
def feederA (share rank : Nat) : Nat := if takesA share rank then rank - 1 else rank
def feederB (share rank : Nat) : Nat := if takesB share rank then rank - 2 else rank

/-- The byte ranges of the streams that a core reads itself. -/
def NestSnap.ranges (n : NestSnap) (rank : Nat) : List (Int × Int) :=
  let lv := n.lv
  let a := streamOf n.qa.toNat
  let b := streamOf n.qb.toNat
  (if takesA n.share rank then [] else [slabRange lv a (·.ap), scaleRange lv a (·.ap)])
  ++ (if takesB n.share rank then [] else [slabRange lv b (·.bp), scaleRange lv b (·.bp)])

/-- The bank set of a nest (R228). -/
def NestSnap.banks (n : NestSnap) (rank : Nat) : List Nat :=
  ((n.ranges rank).flatMap fun r => banksOf r.1.toNat (r.2 - r.1 + 1).toNat).eraseDups

/-- The snapshot that `mgo` takes (R227). -/
def State.snapshot (s : State) : NestSnap :=
  let slot := s.nestNow 6
  { levels := (List.range 6).map fun i => BitVec.ofNat 64 (s.nestNow i)
    slot := BitVec.ofNat 64 slot
    qa := BitVec.ofNat 128 (s.streamNow (bits slot 31 28))
    qb := BitVec.ofNat 128 (s.streamNow (bits slot 27 24))
    tcfg := BitVec.ofNat 64 s.tcfgNow
    share := s.gangNow
    meets := s.gangShares }

/-- The core port that a nest takes from the cycle after its issue on. -/
def State.portNest (s : State) (banks : List Nat) : PortUse := ⟨.m, s.cycle + 1, s.cycle + 2 ^ 64, banks⟩

/-- The causes of `mgo` (R227, R228). -/
def State.mgoTraps (s : State) (n : NestSnap) : List Trap :=
  if !n.legal then [s.operandTrap .m]
  else match (n.ranges s.core.rank).find? fun r => decide (r.2 > 0x1FFFFF) with
    | some r => [alignTrap .m r.2]
    | none =>
      let banks := n.banks s.core.rank
      s.useDoms .m ([20, 21, 22, 23] ++ (banks.map fun b => b / 4) ++ (tileRegs n.tcfg.toNat n.tile).map vbDom).eraseDups
      ++ meetTrap .m (s.core.meetsPorts (s.portNest banks))
      ++ s.queueTraps 7

/-- MGO (R226 to R233, R239). A tile register with a result in flight that is no tile clear holds what is unspecified (R227,
R230). -/
def execMgo (l : Bool) (g : Guard) (t : Tok) (s : State) : Out :=
  let n := s.snapshot
  s.issue { mi 15 l g with len := 8, async := some t.push } (fun s => s.mgoTraps n) fun s' =>
    let regs := tileRegs n.tcfg.toNat n.tile
    let late := regs.filter fun r => s'.core.pend.any fun p =>
      decide (p.dest = .v r) && p.tag != 2
    let w := { windowOf s 7 0 t.push (.nest n) with
      banks := n.banks s.core.rank, tile := some n.tile, vregs := regs, spoilt := late }
    s'.accept s .m 7 (.nest n) t none false w

/-! ### Running a nest (R174, R175, R223, R226, R230) -/

/-- Where a side's operand bytes come from: the stream, a local store as the supplying nest sees it, the bytes that were written
meanwhile. -/
structure Feed where
  q : Stream
  ls : Nat → Byte
  dirty : List (Nat × Nat)

/-- The bytes of a slab's word for row `r` (R157, R223). -/
def slabWord (q : Stream) (p κ : Nat) (r h j : Nat) : Nat := q.base + q.pstr * p + q.kstr * (2 * κ + h) + 256 * j + 4 * r
def scaleByte (q : Stream) (p κ r : Nat) : Nat := q.sbase + q.sstr * p + 64 * κ + r

/-- The element value of row `r`, reduction index `k` of a block, times 64. -/
def Feed.value64 (f : Feed) (p κ r k : Nat) : Int :=
  let digit (j : Nat) : Nat :=
    let a := slabWord f.q p κ r (k / 16) j + k % 16 / 4
    (f.ls a).toNat / 4 ^ (k % 4) % 4
  mxValue64 f.q.fmt ((List.range (planes f.q.fmt)).foldr (fun j n => digit j + 4 * n) 0)
def Feed.scale (f : Feed) (p κ r : Nat) : Nat := (f.ls (scaleByte f.q p κ r)).toNat

/-- Whether a byte that feeds a row of a block was written meanwhile (R230). -/
def Feed.touched (f : Feed) (p κ r : Nat) : Bool :=
  decide (f.dirty ≠ []) && (inRanges f.dirty (scaleByte f.q p κ r)
    || (List.range 2).any fun h => (List.range (planes f.q.fmt)).any fun j => (List.range 4).any fun b =>
      inRanges f.dirty (slabWord f.q p κ r h j + b))

/-- One step of an element (R174): its pattern, and whether a step saturated or flushed. -/
def blockStep (acc : Nat × Bool × Bool) (nan : Bool) (sum64 : Int) (ea eb : Nat) : Nat × Bool × Bool :=
  let v := fp32.val acc.1
  if decide (v = .nan) || nan then (0x7FC00000, acc.2)
  else match v with
    | .inf _ => acc
    | v =>
      let blk : FVal := if sum64 = 0 then .zero false else scale2 sum64 ((ea : Int) + eb - 254 - 12)
      let r := rne32 (v.add blk)
      (r.1, acc.2.1 || decide (r.2 = .sat), acc.2.2 || decide (r.2 = .flush))

/-- The slots of a nest with the indices that its A and B operands take: its own, or the feeding peer's in slot
order (R233). -/
structure NestRun where
  slots : List (SlotIx × SlotIx × SlotIx)
  a : Feed
  b : Feed

/-- The slots that reach an element, and whether an input byte of one was written meanwhile. -/
def NestRun.reach (n : NestRun) (i j : Nat) : List (SlotIx × SlotIx × SlotIx) :=
  n.slots.filter fun t => decide (t.1.tr.toNat = i / 64) && decide (t.1.tc.toNat = j / 64)
def NestRun.touched (n : NestRun) (i j : Nat) : Bool :=
  (n.reach i j).any fun t =>
    n.a.touched t.2.1.ap.toNat t.2.1.ks.toNat (i % 64) || n.b.touched t.2.2.bp.toNat t.2.2.ks.toNat (j % 64)

/-- One element over all slots that reach it; nothing if an input byte was written meanwhile. -/
def NestRun.element (n : NestRun) (i j old : Nat) : Option (Nat × Ev) :=
  let mine := n.reach i j
  let r := i % 64
  let c := j % 64
  if n.touched i j then none
  else
    let step (acc : Nat × Bool × Bool) (t : SlotIx × SlotIx × SlotIx) : Nat × Bool × Bool :=
      let pa := t.2.1.ap.toNat
      let ka := t.2.1.ks.toNat
      let pb := t.2.2.bp.toNat
      let kb := t.2.2.ks.toNat
      let ea := n.a.scale pa ka r
      let eb := n.b.scale pb kb c
      let sum := ((List.range 32).map fun k => n.a.value64 pa ka r k * n.b.value64 pb kb c k).foldl (· + ·) 0
      blockStep acc (ea == 0xFF || eb == 0xFF) sum ea eb
    let e := mine.foldl step (old, false, false)
    let ev : Ev := if (fp32.val e.1 = .nan) ∧ (fp32.val old ≠ .nan) then .nan
      else if e.2.1 then .sat else if e.2.2 then .flush else .none
    some (e.1, ev)

/-- A supplier of operand bytes: its local store as its nest sees it (R62), its snapshot, the bytes written meanwhile. -/
structure Supply where
  ls : Nat → Byte
  snap : NestSnap
  dirty : List (Nat × Nat)

/-- The slots of a nest with those of its suppliers, and the feeds they make (R232, R233). -/
def runOf (n : NestSnap) (a b : Supply) : NestRun :=
  { slots := (n.slots.zip (a.snap.slots.zip b.snap.slots)).map fun t => (t.1, t.2.1, t.2.2)
    a := ⟨{ streamOf a.snap.qa.toNat with fmt := (streamOf n.qa.toNat).fmt }, a.ls, a.dirty⟩
    b := ⟨{ streamOf b.snap.qb.toNat with fmt := (streamOf n.qb.toNat).fmt }, b.ls, b.dirty⟩ }

/-- What a core of a gang rank supplies to a nest. -/
def supply (gang : List (Core × Cmd)) (c : Core) (n : NestSnap) (rank : Nat) : Supply :=
  match gang.find? fun e => e.1.rank == rank with
  | some (d, x) =>
    let dirty := ((d.opens.find? fun w => w.of 7 x).map (·.dirty)).getD []
    match x.op with
    | .nest m => ⟨d.lsOf x.accepted, m, dirty⟩
    | _ => ⟨d.lsOf x.accepted, n, dirty⟩
  | none => ⟨look 0 c.ls, n, []⟩

/-- The feeds and slots of a core's nest among the gang's cores and their commands. -/
def nestRun (gang : List (Core × Cmd)) (c : Core) (n : NestSnap) : NestRun :=
  runOf n (supply gang c n (feederA n.share c.rank)) (supply gang c n (feederB n.share c.rank))

/-- A nest's tile after its slots: every element of every register, with its event. An element that is unspecified
has an unspecified event (R230). -/
def State.nestTile (s : State) (gang : List (Core × Cmd)) (c : Core) (x : Cmd) (n : NestSnap) :
    List (Nat × List (Nat × Ev)) :=
  let w := n.tcfg.toNat
  let run := nestRun gang c n
  let spoilt := ((c.opens.find? fun o => o.of 7 x).map (·.spoilt)).getD []
  (List.range (tSize w)).map fun k =>
    let phys := 32 * tBase w + tSize w * n.tile + k
    let old := (c.vOf x.accepted phys).toNat
    (phys, (List.range 128).map fun lane =>
      let el := 128 * k + lane
      let slot := (c.place * 2048 + phys) * 128 + lane
      let r := if spoilt.contains phys then none
        else run.element (el / (64 * tCols w)) (el % (64 * tCols w)) (laneAt 32 old lane)
      r.getD ((s.free (slotOf 11 0 slot) 32).toNat,
        [Ev.none, .flush, .sat, .nan].getD (s.pick (slotOf 11 1 slot) 3) .none))

/-- The snapshot of a command. -/
def Cmd.snap (x : Cmd) : Option NestSnap := match x.op with | .nest n => some n | _ => none

/-- Whether a nest meets its gang's at a rendezvous: its sharing mode, or a peer's as it issued, was not zero (R233, R241, log 83). -/
def Cmd.meets (x : Cmd) : Bool := (x.snap.map (·.meets)).getD false

/-- The gang's cores with the nest at the head of each matrix queue, if every core has one in a stage. -/
def State.gangHeads (s : State) (stage : Stage) : Option (List (Core × Cmd)) :=
  match s.team with
  | none => none
  | some t =>
    let cs := (s.coresOf t.id).filterMap fun c => match c.mxq.cmds.find? fun x => decide (x.stage ≠ .waiting) with
      | some x => if x.stage = stage ∧ x.meets then some (c, x) else none
      | none => none
    if cs.length = t.width then some cs else none

/-- Whether the nests of a rendezvous agree (R233). -/
def agree (gang : List (Core × Cmd)) : Bool :=
  let ns := gang.filterMap fun e => e.2.snap.map fun n => (e.1.rank, n)
  let fmtA (n : NestSnap) := (streamOf n.qa.toNat).fmt
  let fmtB (n : NestSnap) := (streamOf n.qb.toNat).fmt
  ns.all fun x => ns.all fun y =>
    decide (x.2.share = y.2.share) && decide (x.2.count = y.2.count)
    && (!(feederA x.2.share x.1 == y.1) || decide (fmtA x.2 = fmtA y.2))
    && (!(feederB x.2.share x.1 == y.1) || decide (fmtB x.2 = fmtB y.2))

/-- Whether the tile clears that came before a nest have landed on its core (R227). -/
def Core.cleared (c : Core) (x : Cmd) : Bool :=
  match x.snap with
  | some n => (tileRegs n.tcfg.toNat n.tile).all fun r =>
      !c.pend.any fun p => decide (p.dest = .v r) && decide (p.issue ≤ x.issue)
  | none => true

/-- A nest begins on its core: a core-port write in flight to a byte that it reads leaves what that feeds unspecified (R156,
R230). -/
def Core.beginNest (c : Core) (x : Cmd) : Core :=
  let mark (w : Window) : Window :=
    if w.of 7 x then { w with dirty := (c.lsPend.map fun p => (p.addr, p.addr + 1)) ++ c.rows.flatMap RowPass.writes ++ w.dirty } else w
  { c.setCmd 7 { x with stage := .begun } with opens := c.opens.map mark }

/-- NEST_START: the head nest takes its pops; one that has no rendezvous begins once its tile is clear, another when every
core of the gang has one in the same state: nests that disagree all fail (R227, R231, R233). -/
def execNestStart (s : State) : Out :=
  match s.core.mxq.head with
  | none => .next s
  | some x =>
    let first := decide (s.core.mxq.cmds.find? (fun y => decide (y.stage = .begun)) = none)
    let pops := decide (x.stage = .waiting) && !s.core.mxq.halted && s.core.canPop x.pops && s.core.mayTake 7 x.pops
    if !first || (x.stage = .waiting && !pops) then .next s
    else
      let x' := { x with stage := .popped }
      let s := if x.stage = .waiting then s.onCore fun c => (c.takePops x.pops).setCmd 7 x' else s
      if !x.meets then .next (if s.core.cleared x' then s.onCore fun c => c.beginNest x' else s)
      else match s.gangHeads .popped with
        | none => .next s
        | some gang =>
          let act (c : Core) : Core :=
            match gang.find? fun e => e.1.place == c.place with
            | some (_, y) =>
              if agree gang then c.beginNest y
              else c.failCmd s.cycle 7 y (transferTrap 7 y.idx 0 24)
            | none => c
          .next (if agree gang && !gang.all (fun e => e.1.cleared e.2) then s else s.onCores act)

/-- One core's nest ends: its tile, its push. -/
def State.endNest (s : State) (gang : List (Core × Cmd)) (c : Core) : Core :=
  match gang.find? fun e => e.1.place == c.place with
  | none => c
  | some (_, x) =>
    match x.snap with
    | none => c
    | some n =>
      let tile := s.nestTile gang c x n
      let reg (c : Core) (e : Nat × List (Nat × Ev)) : Core :=
        c.putVOf x.accepted e.1 (BitVec.ofNat 4096 (packLanes 32 128 fun i => (e.2.getD i (0, .none)).1))
      let from_ (r : Nat) : NestSnap := (supply gang c n r).snap
      let keep (w : Window) : Window :=
        if w.of 7 x then { w with fed := some (n, from_ (feederA n.share c.rank), from_ (feederB n.share c.rank)) } else w
      let c := tile.foldl reg c
      ({ c with opens := c.opens.map keep }).complete s.cycle 7 x

/-- The counts of a core's nest, committed to its team (R175, R179). -/
def State.countNest (s : State) (gang : List (Core × Cmd)) (e : Core × Cmd) (t : Team) : Team :=
  match e.2.snap with
  | none => t
  | some n =>
    let evs := (s.nestTile gang e.1 e.2 n).flatMap fun r => r.2.map (·.2)
    t.commit e.2.issue n.tid (countEv .sat evs) (countEv .flush evs) (countEv .nan evs)

/-- NEST_COMPLETION: a begun nest finishes its slots, commits its counts and pushes; a sharing gang's nests run in
lockstep and finish together (R226, R231, R233). -/
def execNestCompletion (s : State) : Out :=
  match s.core.mxq.cmds with
  | [] => .next s
  | x :: _ =>
    if x.stage ≠ .begun then .next s
    else
      let gang := if (x.snap.map (·.share)).getD 0 = 0 then some [(s.core, x)] else s.gangHeads .begun
      match gang with
      | none => .next s
      | some gang =>
        let s' := s.onCores fun c => s.endNest gang c
        .next (gang.foldl (fun s' e => s'.onMyTeam fun t => s.countNest gang e t) s')

/-- Whether a nest has pushed and its window is still open. -/
def Window.lingers (w : Window) : Bool := w.queue == 7 && w.pushed && !w.closed

/-- A core's tile elements that LS bytes of a gang rank feed, which engines wrote while a nest's window was still open after its
push, are unspecified (R230). -/
def State.spoilTile (s : State) (rank : Nat) (dirty : List (Nat × Nat)) (c : Core) (w : Window) : Core :=
  match w.fed with
  | none => c
  | some (n, na, nb) =>
    let side (m : NestSnap) (feeder : Nat) : Supply := ⟨fun _ => 0, m, if feeder = rank then dirty else []⟩
    let run := runOf n (side na (feederA n.share c.rank)) (side nb (feederB n.share c.rank))
    let w := n.tcfg.toNat
    (List.range (tSize w)).foldl (fun c k =>
      let phys := 32 * tBase w + tSize w * n.tile + k
      let old := (look 0 c.v phys).toNat
      let lane (i : Nat) : Nat :=
        let el := 128 * k + i
        if run.touched (el / (64 * tCols w)) (el % (64 * tCols w)) then
          (s.free (slotOf 11 2 ((c.place * 2048 + phys) * 128 + i)) 32).toNat
        else laneAt 32 old i
      { c with v := put 0 c.v phys (BitVec.ofNat 4096 (packLanes 32 128 lane)) }) c

/-- An engine's writes of LS bytes of the focus core, for the nests of its gang that have pushed (R230). -/
def State.spoilTiles (s : State) (cells : List (Nat × Byte)) : State :=
  if cells = [] ∨ !s.cores.any fun c => c.opens.any Window.lingers then s
  else
    let dirty := cells.map fun e => (e.1, e.1 + 1)
    s.onCores fun c =>
      if c.team = s.core.team then (c.opens.filter Window.lingers).foldl (s.spoilTile s.core.rank dirty) c else c

/-- MDRAIN (R240): nests that have not begun leave the queue and push by the bound, in queue order; the nest of the
fault record is discarded. -/
def execMdrain (l : Bool) (g : Guard) (s : State) : Out :=
  s.issue (mi 12 l g) (fun _ => []) fun s' =>
    let gone := s'.core.mxq.cmds.filter fun x => decide (x.stage ≠ .begun)
    let dead (w : Window) : Bool := (s'.core.mxq.record.map fun r => w.of 7 r.2).getD false
    let s' := s'.onCore fun c => { c with
      mxq := { c.mxq with cmds := c.mxq.cmds.filter (fun x => decide (x.stage = .begun)), record := none }
      opens := (c.opens.filter fun w => !dead w).map fun w => if gone.any fun x => w.of 7 x then { w with pushed := true } else w }
    gone.foldl (fun s' x => s'.pushLater 12 ⟨pushRank (queueRank 7) x.idx, x.push, 7, x.idx⟩) s'

end Sys2Proof.Machine
end

