-- ==== Sys2Proof/Machine/Copy.lean ====
section
/-! DEFINITION. The copy engine (R115 to R136): its commands at issue, pre-translation, the accesses one granule at a
time, completion, and `replay`. -/

namespace Sys2Proof.Machine

/-! ### Checks at issue (R99, R123) -/

/-- The rights that the two sides of a copy need (R93). -/
def sideRight (dst : Bool) : Right := if dst then .write else .read

/-- Whether a side's addresses come from the block table (R122). -/
def Geo.tabled (g : Geo) (dst : Bool) : Bool := g.bt && g.btDst == dst

/-- The first far byte of a copy that the team may not access, in index order and source before destination: `which`
chooses the sides that are checked (R99, R123, R125). It gives the reason and the address. -/
def State.geoFail (s : State) (g : Geo) (which : Bool → Bool) : Option (Nat × Nat) :=
  let side (dst : Bool) (r : Nat) : Option (Nat × Nat × Nat) :=
    if g.lsSide dst ∨ !which dst then none
    else
      let a := patOf 64 (g.rowAt dst r)
      (s.farFail a g.c0 (sideRight dst)).map fun e => (e.2 - a, e.1, e.2)
  let row (r : Nat) : Option (Nat × Nat) :=
    match side false r, side true r with
    | none, none => none
    | some x, none => some x.2
    | none, some y => some y.2
    | some x, some y => some (if y.1 < x.1 then y.2 else x.2)
  if g.c0 = 0 then none else (List.range g.rows).findSome? row

/-- The first byte of an LS range outside the local store. -/
def outsideLs (a : Int) (n : Nat) : Option Int :=
  if n = 0 then none
  else if a < 0 ∨ a ≥ 0x200000 then some a
  else if a + n > 0x200000 then some 0x200000
  else none

/-- The first byte of a copy's LS side or block table outside the local store (R123). -/
def Geo.outside (g : Geo) : Option Int :=
  let side (dst : Bool) : Option Int :=
    if g.lsSide dst then (List.range g.rows).findSome? fun r => outsideLs (g.rowAt dst r) g.c0 else none
  match side false <|> side true with
  | some a => some a
  | none => if g.bt then outsideLs g.btAddr (8 * g.c.getLastD 0) else none

/-- The power domains of the bytes of LS ranges. -/
def rangeDoms (rs : List (Nat × Nat)) : List Nat :=
  (rs.flatMap fun r => if r.2 ≤ r.1 then [] else
    (List.range (lsDom (r.2 - 1) + 1 - lsDom r.1)).map fun i => lsDom r.1 + i).eraseDups

/-- The domains of a copy's LS side and block table (R61, R123). -/
def Geo.doms (g : Geo) : List Nat :=
  rangeDoms ((if g.dir = 0 then g.lsRows true else []) ++ (if g.dir = 1 then g.lsRows false else [])
    ++ (if g.bt then [(g.btAddr, g.btAddr + 8 * g.c.getLastD 0)] else []))

/-- The causes of rows 4 to 7 of R123, of xe, and of a full queue. `ok` says whether the fields are good; `desc`
are the domains of a descriptor. -/
def State.copyTraps (s : State) (g : Geo) (ok : Bool) (desc : List Nat) : List Trap :=
  if !ok then [s.operandTrap .x]
  else match g.outside with
    | some a => [alignTrap .x a]
    | none =>
      s.useDoms .x (desc ++ g.doms ++ [25])
      ++ (match s.geoFail g fun dst => !g.tabled dst with
          | some e => [unownedTrap e.1 e.2]
          | none => [])
      ++ s.queueTraps (if g.dir = 0 then 4 else 5)

/-- Whether a handle names a barrier entry of the launch (R307). -/
def State.namesBarrier (s : State) (h : Nat) : Bool := (s.barrierAt s.myTag h).isSome && decide (h < 256)

/-- Adds a tagged command's bytes to its barrier: the entry of the command, and whether R310 refused it. -/
def State.tagBytes (s : State) (tag : Option Nat) (n : Nat) : State × Option (Nat × Nat) × Bool :=
  match tag with
  | none => (s, none, false)
  | some h =>
    let r := s.addPending s.myTag h n
    (r.1, some (h, n), !r.2)

/-- A copy enters its queue (R115, R127). -/
def State.acceptCopy (s' s : State) (g : Geo) (tag : Option Nat) (t : Tok) : State :=
  let q := if g.dir = 0 then 4 else 5
  let r := s'.tagBytes tag g.total
  r.1.accept s .x q (.copy g) t r.2.1 r.2.2 (windowOf s q 0 t.push (.copy g))

/-! ### The descriptor (R119 to R122) -/

/-- Geometry, tag and validity of a count-form operand. -/
def countForm (c dst src : Nat) (named : Nat → Bool) : Geo × Option Nat × Bool :=
  let tag := if bitOf c 60 then some (bits c 59 44) else none
  ({ dir := bits c 62 61, c0 := bits c 31 0, c := [], ss := [], ds := [], src := src, dst := dst, bt := false
     btDst := false, btAddr := 0, table := [] }, tag,
   bits c 43 32 = 0 ∧ bits c 62 61 ≠ 3
     ∧ (if bitOf c 60 then bits c 62 61 ≠ 0 ∧ named (bits c 59 44) = true else bits c 59 44 = 0))

/-- The fields of dimension j, from 1 to 4, of a descriptor. -/
def descC (d j : Nat) : Nat := bits d (207 + 16 * (j - 1)) (192 + 16 * (j - 1))
def descSS (d j : Nat) : Nat := bits d (287 + 32 * (j - 1)) (256 + 32 * (j - 1))
def descDS (d j : Nat) : Nat := bits d (415 + 32 * (j - 1)) (384 + 32 * (j - 1))

/-- Geometry, tag and validity of a descriptor (R121 to R123). -/
def descForm (d : Nat) (named : Nat → Bool) : Geo × Option Nat × Bool :=
  let dir := bits d 63 62
  let ndim := bits d 61 59
  let bt := bitOf d 58
  let btDst := bitOf d 57
  let tag := bitOf d 56
  let c0 := bits d 21 0
  let k := ndim - 1
  let dims := (List.range k).map (· + 1)
  let rest := (List.range 4).map (· + 1) |>.filter fun j => decide (j > k)
  let g : Geo := { dir := dir, c0 := c0, c := dims.map fun j => descC d j + 1
                   ss := dims.map fun j => sext (descSS d j) 32, ds := dims.map fun j => sext (descDS d j) 32
                   src := bits d 127 64, dst := bits d 191 128, bt := bt, btDst := btDst
                   btAddr := 8 * bits d 39 22, table := [] }
  let base := if btDst then g.dst else g.src
  let stride := if btDst then descDS d k else descSS d k
  (g, if tag then some (bits d 55 40) else none,
   dir ≠ 3 ∧ 1 ≤ ndim ∧ ndim ≤ 5 ∧ c0 ≠ 0
     ∧ (rest.all fun j => descC d j == 0 && descSS d j == 0 && descDS d j == 0) = true
     ∧ (bt = false ∨ (ndim ≠ 1 ∧ g.lsSide btDst = false ∧ base = 0 ∧ stride = 0))
     ∧ (if tag then dir ≠ 0 ∧ named (bits d 55 40) = true else bits d 55 40 = 0)
     ∧ g.total < 2 ^ 32)

/-- The 64 bytes of a descriptor as the issuing word reads them (R121). -/
def State.readDesc (s : State) (a : Nat) : Nat := leNat (s.readLsN 0 a 64)

/-- XCOPY (R119 to R130). -/
def execXcopy (l : Bool) (xa xb xc : Nat) (g : Guard) (t : Tok) (s : State) : Out :=
  let c := (s.readS 2 xc).toNat
  let desc := bits c 20 0
  let form := if bitOf c 63 then descForm (s.readDesc desc) s.namesBarrier
    else countForm c (s.readS 0 xa).toNat (s.readS 1 xb).toNat s.namesBarrier
  let bytes := (List.range 64).map (desc + ·)
  s.issue (xi l g t)
    (fun s =>
      if !bitOf c 63 then s.copyTraps form.1 form.2.2 []
      else if bits c 62 21 ≠ 0 then [s.operandTrap .x]
      else if desc % 64 ≠ 0 then [alignTrap .x desc]
      else if !s.core.isOn (lsDom desc) then s.useDoms .x [lsDom desc]
      else s.copyTraps form.1 form.2.2 [lsDom desc] ++ s.portTraps .x [s.portNow .x desc 64] ++ s.watchTraps .x 1 bytes)
    fun s' =>
      let s' := if bitOf c 63 then s'.usePorts [s.portNow .x desc 64] else s'
      s'.acceptCopy s form.1 form.2.1 t

/-- The geometry that `xblk` describes (R131). -/
def blkGeo (dst tab c : Nat) : Geo :=
  { dir := 0, c0 := bits c 21 0, c := [bits c 47 32 + 1], ss := [0], ds := [(bits c 21 0 : Int)], src := 0
    dst := dst, bt := true, btDst := false, btAddr := tab, table := [] }

/-- XBLK (R131). -/
def execXblk (l : Bool) (xa xb xc : Nat) (g : Guard) (t : Tok) (s : State) : Out :=
  let c := (s.readS 2 xc).toNat
  let tab := (s.readS 1 xb).toNat
  let geo := blkGeo (s.readS 0 xa).toNat tab c
  let ok : Bool := decide (bits c 63 48 = 0 ∧ bits c 31 22 = 0 ∧ geo.c0 ≠ 0 ∧ geo.total < 2 ^ 32)
  s.issue (xi l g t)
    (fun s => if ok && decide (tab % 8 ≠ 0) then [alignTrap .x tab] else s.copyTraps geo ok [])
    fun s' => s'.acceptCopy s geo none t

/-! ### Scalar and atomic commands (R132 to R134) -/

/-- The causes of a far access of known address: alignment, xe and other domains, ownership, the queue. -/
def State.farTraps (s : State) (q : Nat) (a al : Nat) (runs : List (Nat × Nat)) (r : Right) (doms : List Nat) :
    List Trap :=
  (if a % al ≠ 0 then [alignTrap .x a] else [])
  ++ s.useDoms .x (doms ++ [25])
  ++ (match runs.findSome? fun e => s.farFail e.1 e.2 r with
      | some e => [unownedTrap e.1 e.2]
      | none => [])
  ++ s.queueTraps q

/-- A command that is no copy enters its queue. -/
def State.acceptOp (s' s : State) (q : Nat) (op : CmdOp) (t : Tok) : State :=
  s'.accept s .x q op t none false (windowOf s q 0 t.push op)

/-- XFLD (R132). -/
def execXfld (l : Bool) (xa xb w : Nat) (g : Guard) (t : Tok) (s : State) : Out :=
  let a := (s.readS 1 xb).toNat
  s.issue (xi l g t) (fun s => s.farTraps 4 a (2 ^ w) [(a, 2 ^ w)] .read [])
    fun s' => s'.acceptOp s 4 (.fld xa a w) t

/-- XFST (R132). -/
def execXfst (l : Bool) (xa xb w : Nat) (g : Guard) (t : Tok) (s : State) : Out :=
  let a := (s.readS 1 xb).toNat
  s.issue (xi l g t) (fun s => s.farTraps 5 a (2 ^ w) [(a, 2 ^ w)] .write [])
    fun s' => s'.acceptOp s 5 (.fst a w (s.readS 0 xa)) t

/-- The shared issue of the far 64-bit atomics (R133). -/
def State.amo (s : State) (op : Nat) (l : Bool) (xa xb xc : Nat) (g : Guard) (t : Tok) : Out :=
  let a := (s.readS 1 xb).toNat
  s.issue (xi l g t) (fun s => s.farTraps 5 a 8 [(a, 8)] .atomic [])
    fun s' => s'.acceptOp s 5 (.amo op xa a (s.readS 2 xc)) t

/-- XAMO_ADD to XAMO_MAXU (R133). -/
def execXamoAdd (l : Bool) (xa xb xc : Nat) (g : Guard) (t : Tok) (s : State) : Out := s.amo 0 l xa xb xc g t
def execXamoAnd (l : Bool) (xa xb xc : Nat) (g : Guard) (t : Tok) (s : State) : Out := s.amo 1 l xa xb xc g t
def execXamoOr (l : Bool) (xa xb xc : Nat) (g : Guard) (t : Tok) (s : State) : Out := s.amo 2 l xa xb xc g t
def execXamoXor (l : Bool) (xa xb xc : Nat) (g : Guard) (t : Tok) (s : State) : Out := s.amo 3 l xa xb xc g t
def execXamoMin (l : Bool) (xa xb xc : Nat) (g : Guard) (t : Tok) (s : State) : Out := s.amo 4 l xa xb xc g t
def execXamoMax (l : Bool) (xa xb xc : Nat) (g : Guard) (t : Tok) (s : State) : Out := s.amo 5 l xa xb xc g t
def execXamoMinu (l : Bool) (xa xb xc : Nat) (g : Guard) (t : Tok) (s : State) : Out := s.amo 6 l xa xb xc g t
def execXamoMaxu (l : Bool) (xa xb xc : Nat) (g : Guard) (t : Tok) (s : State) : Out := s.amo 7 l xa xb xc g t

/-- The shared issue of the far vector atomics (R134). -/
def State.vamo (s : State) (op : Nat) (l : Bool) (v xa xb : Nat) (g : Guard) (t : Tok) : Out :=
  let a := (s.readS 0 xa).toNat
  let m := (s.readS 1 xb).toNat
  let phys := s.phys v
  let runs := ((List.range 16).filter fun i => bitOf m i).map fun i => (a + 32 * i, 32)
  s.issue (xi l g t)
    (fun s => if bits m 63 16 ≠ 0 then [s.operandTrap .x] else s.farTraps 5 a 32 runs .atomic [vbDom phys])
    fun s' => s'.acceptOp s 5 (.vamo op a m (s.readV 2 phys)) t

/-- XVAMO_OR, XVAMO_ADD, XVAMO_MIN, XVAMO_MAX (R134). -/
def execXvamoOr (l : Bool) (v xa xb : Nat) (g : Guard) (t : Tok) (s : State) : Out := s.vamo 0 l v xa xb g t
def execXvamoAdd (l : Bool) (v xa xb : Nat) (g : Guard) (t : Tok) (s : State) : Out := s.vamo 1 l v xa xb g t
def execXvamoMin (l : Bool) (v xa xb : Nat) (g : Guard) (t : Tok) (s : State) : Out := s.vamo 2 l v xa xb g t
def execXvamoMax (l : Bool) (v xa xb : Nat) (g : Guard) (t : Tok) (s : State) : Out := s.vamo 3 l v xa xb g t

/-- OVL (R135). -/
def execOvl (l : Bool) (xa xb xc : Nat) (g : Guard) (t : Tok) (s : State) : Out :=
  let off := (s.readS 0 xa).toNat
  let a := (s.readS 1 xb).toNat
  let n := (s.readS 2 xc).toNat
  s.issue (xi l g t)
    (fun s =>
      if off % 4 ≠ 0 then [alignTrap .x off]
      else if n % 4 ≠ 0 ∨ n < 4 ∨ off + n > 0x38000 then [alignTrap .x n]
      else s.farTraps 4 0 1 [(a, n)] .read [])
    fun s' => s'.acceptOp s 4 (.ovl off a n) t

/-! ### Pre-translation (R84, R125, R126) -/

/-- An LS byte as an engine reads it for a command: unspecified while a core-port write to it is in flight (R156), and in a
granule that a rolled-back command left so (R128). -/
def State.engineLs (s : State) (x : Cmd) (a : Nat) : Byte :=
  let vague := s.core.opens.any fun w => nearRanges w.vague a
  if (s.core.ghostOf (lsDom a) x.accepted).isNone && (vague || inRanges (s.core.rowWrites (s.cycle + 1)) a || s.core.lsPend.any fun w => w.addr == a) then
    s.free (slotOf 5 2 a) 8
  else s.core.lsOf x.accepted a

/-- Reads a copy's block table through the engine port (R122). -/
def State.readTable (s : State) (x : Cmd) (g : Geo) : Geo :=
  if !g.bt then g
  else
    let entry (i : Nat) : Nat := leNat ((List.range 8).map fun b => s.engineLs x (g.btAddr + 8 * i + b))
    { g with table := (List.range (g.c.getLastD 0)).map entry }

/-- The offsets within a run at which a page may begin: its start and each 64 KiB boundary (R81). -/
def pageOffs (a n : Nat) : List Nat :=
  0 :: (List.range ((a % 0x10000 + n + 0xFFFF) / 0x10000)).map (fun i => (i + 1) * 0x10000 - a % 0x10000)
    |>.filter fun o => decide (o < n)

/-- The addresses that pre-translation visits, in index order and source before destination: offset, whether the
access writes, address (R125). -/
def mergeOffs (src dst : List (Nat × Bool × Nat)) : Nat → List (Nat × Bool × Nat)
  | 0 => []
  | fuel + 1 => match src, dst with
    | [], ys => ys
    | xs, [] => xs
    | x :: xs, y :: ys => if y.1 < x.1 then y :: mergeOffs (x :: xs) ys fuel else x :: mergeOffs xs (y :: ys) fuel

/-- The far addresses of a command with their access, in index order. -/
def CmdOp.pageVisits (op : CmdOp) : List (Bool × Nat) :=
  match op with
  | .copy g =>
    if g.c0 = 0 then []
    else (List.range g.rows).flatMap fun r =>
      let side (dst : Bool) : List (Nat × Bool × Nat) :=
        if g.lsSide dst then []
        else let a := patOf 64 (g.rowAt dst r); (pageOffs a g.c0).map fun o => (o, dst, (a + o) % 2 ^ 64)
      let x := side false
      let y := side true
      (mergeOffs x y (x.length + y.length)).map (·.2)
  | .ovl _ a n => (pageOffs a n).map fun o => (false, a + o)
  | .arg _ _ => []
  | .fld _ a _ => [(false, a)]
  | .unp _ slot ctl => (pageOffs slot (czS ctl.toNat)).map fun o => (false, slot + o)
  | .pak slot _ ctl => (pageOffs slot (czS ctl.toNat)).map fun o => (true, slot + o)
  | .nest _ => []
  | _ => op.units.map fun u => (true, (op.unitAt u).1)

/-- Adds a page to the pinned ones; a page that is read and written is one page. -/
def addPin (p : Pin) : List Pin → List Pin
  | [] => [p]
  | q :: qs => if q.va = p.va ∧ q.size = p.size then p :: qs else q :: addPin p qs

/-- Translates and pins in order; the first failure is its kind (R82, R125). -/
def State.pinAll (s : State) (pasid : Nat) : List (Bool × Nat) → List Pin → Except Nat (List Pin)
  | [], pins => .ok pins
  | (w, a) :: rest, pins =>
    if pins.any fun p => p.serves a w then s.pinAll pasid rest pins
    else match s.xlate pasid a w with
      | .error k => .error k
      | .ok p =>
        let pins' := addPin p pins
        if pins'.length > 4096 then .error 11 else s.pinAll pasid rest pins'

/-- The key of the destination granule (far, LS) or word (scratchpad) that byte `i` goes to. -/
def CmdOp.key (op : CmdOp) (i : Nat) : Nat :=
  match op.dst i with
  | .code o => o / 4
  | x => x.addr / 32

/-- The destination granules of a copy in index order. -/
def CmdOp.keys (op : CmdOp) : List Nat := ((List.range op.size).map op.key).eraseDups

/-- The accesses of a command when it begins. -/
def CmdOp.work (op : CmdOp) : List Nat := if op.size = 0 then op.units else op.keys

/-- The PASID under which the resident team's accesses are translated (R78). -/
def State.myPasid (s : State) : Nat := (s.team.map (·.pasid)).getD 0

/-- The context of the resident team. -/
def State.myCtx (s : State) : Nat := (s.team.map (·.ctx)).getD 0

/-- Whether the domains that an argument copy needs are ON (R326). -/
def State.argReady (s : State) (op : CmdOp) : Bool :=
  match op with
  | .arg ls bytes => s.core.isOn 25 && (rangeDoms [(ls, ls + bytes.length)]).all s.core.isOn
  | _ => true

/-- A command that has its pops translates and pins its pages, and begins or fails (R125, R126, R310); one that was rolled
back keeps its pins (R128). -/
def State.beginCmd (s : State) (q : Nat) (x : Cmd) : State :=
  let op := match x.op with
    | .copy g => CmdOp.copy (s.readTable x g)
    | o => o
  if x.fail then s.failCmd q { x with op := op } (transferTrap q x.idx 0 25)
  else
    let watch := match op with
      | .copy g => if g.bt then s.core.watchHit 1 1 ((List.range (8 * g.c.getLastD 0)).map (g.btAddr + ·)) else none
      | _ => none
    let x := { x with op := op, watch := mergeWatch x.watch watch }
    let unowned := match op with
      | .copy g => if g.bt then s.geoFail g g.tabled else none
      | _ => none
    match unowned with
    | some e => s.failCmd q x (transferTrap q x.idx e.1 20)
    | none =>
      let pins := if x.pins = [] then s.pinAll s.myPasid op.pageVisits [] else .ok x.pins
      match pins with
      | .error k => s.failCmd q x (transferTrap q x.idx 0 k)
      | .ok pins =>
        let s := pins.foldl (fun s p => s.cacheXlate s.myPasid p) s
        s.onCore fun c => c.setCmd q { x with stage := .begun, pins := pins, todo := op.work, got := [], began := s.cycle }

/-! ### Accesses (R72, R116, R118, R124, R129) -/

/-- A byte's place in hardware: space, and DPA for a far byte. -/
def Cmd.spot (x : Cmd) : Loc → Nat × Nat
  | .far va => (2, pinnedDpa x.pins va)
  | o => (o.space, o.addr)

/-- The byte indices that feed a destination granule. -/
def CmdOp.feeding (op : CmdOp) (key : Nat) : List Nat := (List.range op.size).filter fun i => op.key i == key

/-- Whether a byte has been fetched, and its value. -/
def Cmd.have? (x : Cmd) (i : Nat) : Option Byte :=
  match x.op with
  | .arg _ bytes => bytes[i]?
  | _ => (x.got.find? fun e => e.1 == i).map (·.2)

/-- The byte indices of a copy that destination granules still to be written wait for. -/
def Cmd.missing (x : Cmd) : List Nat :=
  (List.range x.op.size).filter fun i => x.todo.contains (x.op.key i) && (x.have? i).isNone

/-- An access of a command: the fetch of a source granule, whole for every byte that is taken from it (R72, R266), or
the write of a destination granule, or the action on a unit. -/
structure Act where
  fetch : Bool
  n : Nat
deriving DecidableEq, Repr

/-- The bytes that an access takes or leaves, by index, of a copy. -/
def Cmd.moved (x : Cmd) (a : Act) : List Nat :=
  if a.fetch then x.missing.filter fun i => (x.op.src i).addr / 32 == a.n else x.op.feeding a.n

/-- The accesses that a command has still to make: fetches, and writes or units. -/
def Cmd.fetches (x : Cmd) : List Act := ((x.missing.map fun i => (x.op.src i).addr / 32).eraseDups).map fun g => ⟨true, g⟩
def Cmd.writes (x : Cmd) : List Act := x.todo.map fun k => ⟨false, k⟩

/-- The bytes that one access touches. -/
def Cmd.touches (x : Cmd) (a : Act) : List (Nat × Nat) :=
  if x.op.size = 0 then
    let u := x.op.unitAt a.n
    (List.range u.2).map fun i => x.spot (.far (u.1 + i))
  else (x.moved a).map fun i => x.spot (if a.fetch then x.op.src i else x.op.dst i)

/-- The bytes that a command has still to touch. -/
def Cmd.left (x : Cmd) : List (Nat × Nat) := (x.fetches ++ x.writes).flatMap x.touches

/-- The granule of a byte's place. -/
def granuleOf (e : Nat × Nat) : Nat × Nat := (e.1, e.2 / 32)

/-- The accesses that a command may make next: a destination granule is written once its bytes are there and no byte of it
has still to be fetched as a source (R124). -/
def Cmd.actions (x : Cmd) : List Act :=
  let miss := x.missing
  let srcs := miss.map fun i => granuleOf (x.spot (x.op.src i))
  let ready (a : Act) : Bool :=
    x.op.size == 0 || (!miss.any (fun i => x.op.key i == a.n)
      && (x.touches a).all fun b => !srcs.contains (granuleOf b))
  x.fetches ++ x.writes.filter ready

/-- The number under which a request to another device answers an access. -/
def Act.item (a : Act) : Nat := 2 * a.n + if a.fetch then 1 else 0

/-- The agent id of the resident team (R96). -/
def State.myAgent (s : State) : Agent :=
  ⟨s.dev.weftId, 0, s.myTag, (s.core.team.map (·.index)).getD 0⟩

/-- Who makes an access: its agent and context, and the place and queue to which an answer goes. -/
structure Doer where
  agent : Agent
  ctx : Nat
  place : Nat
  queue : Nat
deriving DecidableEq, Repr

/-- The resident team, for a command of a queue of the focus core. -/
def State.me (s : State) (q : Nat) : Doer := ⟨s.myAgent, s.myCtx, s.core.place, q⟩

/-- Whether a command waits for the answer to an access. -/
def State.waitsFor (s : State) (d : Doer) (x : Cmd) (a : Act) : Bool :=
  s.dev.weftWait.any fun r =>
    r.place == d.place && r.queue == d.queue && r.idx == x.idx && r.issue == x.issue && r.item == a.item

/-- The accesses that a queue allows now: those of begun commands on bytes that no earlier command has still to touch
(R116), and that do not wait for a response. -/
def State.allowed (s : State) (q : Nat) : List (Cmd × Act) :=
  let begun := (s.core.queue q).cmds.filter fun c => decide (c.stage = .begun)
  begun.flatMap fun x =>
    let before := (begun.takeWhile fun y => !y.same x).flatMap Cmd.left
    (x.actions.filter fun a => !s.waitsFor (s.me q) x a && (x.touches a).all fun b => !before.contains b).map fun a => (x, a)

/-- Whether the block table of a command may be read: no earlier command of its queue has still to touch its bytes
(R116). -/
def Core.tableReady (c : Core) (q : Nat) (x : Cmd) : Bool :=
  match x.op with
  | .copy g =>
    !g.bt || (((c.queue q).cmds.filter fun y => decide (y.stage = .begun)).flatMap Cmd.left).all fun b =>
      !(b.1 == 1 && decide (g.btAddr ≤ b.2) && decide (b.2 < g.btAddr + 8 * g.c.getLastD 0))
  | _ => true

/-- The places that a command has still to touch. -/
def Cmd.placesLeft (x : Cmd) : List Loc :=
  if x.op.size = 0 then x.todo.flatMap fun u => (List.range (x.op.unitAt u).2).map fun i => .far ((x.op.unitAt u).1 + i)
  else x.missing.map x.op.src ++ (x.todo.flatMap x.op.feeding).map x.op.dst

/-- Whether no begun command of a queue has matched a watchpoint or may yet: the queue halts behind one that does before
another begins (R365). -/
def Core.unwatched (c : Core) (q : Nat) : Bool :=
  let hits (l : Loc) : Bool := decide (l.space < 3) && c.wp.any fun e => wpHits e.2 l.space l.addr
  c.wp == [] || ((c.queue q).cmds.filter fun y => decide (y.stage = .begun)).all fun y => y.watch.isNone && !y.placesLeft.any hits

/-- QUEUE_COMMAND_BEGIN: the head command of a queue takes its pops; that of a copy queue, having them, begins (R38, R116,
R125, R295, R365). -/
def execQueueCommandBegin (q : Nat) (s : State) : Out :=
  if q < 4 ∨ 8 < q then .next s
  else match (s.core.queue q).head with
    | none => .next s
    | some x =>
      if (s.core.queue q).halted then .next s
      else if x.stage = .popped then
        if (q = 4 ∨ q = 5) ∧ s.argReady x.op ∧ s.core.tableReady q x ∧ s.core.unwatched q then .next (s.beginCmd q x) else .next s
      else if s.core.ready q = some x ∧ s.core.mayTake q x.pops then
        .next (s.onCore fun c => (c.takePops x.pops).setCmd q { x with stage := .popped })
      else .next s

/-- A far atomic's new value (R133). -/
def amoNew (op old c : Nat) : Nat :=
  match op with
  | 0 => (old + c) % 2 ^ 64
  | 1 => old &&& c
  | 2 => old ||| c
  | 3 => old ^^^ c
  | 4 => if sext old 64 ≤ sext c 64 then old else c
  | 5 => if sext old 64 ≤ sext c 64 then c else old
  | 6 => min old c
  | _ => max old c

/-- A far vector atomic's new word (R134). -/
def vamoNew (op old c : Nat) : Nat :=
  match op with
  | 0 => old ||| c
  | 1 => (old + c) % 2 ^ 32
  | 2 => if sext old 32 ≤ sext c 32 then old else c
  | _ => if sext old 32 ≤ sext c 32 then c else old

/-- The new bytes of an atomic on old bytes: unit `u` of the command. -/
def CmdOp.atomicNew (op : CmdOp) (u : Nat) (old : List Byte) : List Byte :=
  match op with
  | .amo k _ _ c => toBytes 8 (amoNew k (leNat old) c.toNat)
  | .vamo k _ _ v => (List.range 8).flatMap fun w =>
      toBytes 4 (vamoNew k (leNat ((old.drop (4 * w)).take 4)) (bits v.toNat (32 * (8 * u + w) + 31) (32 * (8 * u + w))))
  | _ => old

/-- The access kind for watchpoints of a command that is no copy: 0 write, 1 read, 2 atomic (R363). -/
def CmdOp.kind : CmdOp → Nat
  | .fld _ _ _ => 1
  | .unp _ _ _ => 1
  | .fst _ _ _ => 0
  | .pak _ _ _ => 0
  | _ => 2

/-- A watchpoint match of one of the command's own accesses (R365). -/
def State.watchOwn (s : State) (x : Cmd) (kind : Nat) (locs : List Loc) : Cmd :=
  let far := locs.filterMap fun | .far a => some a | _ => none
  let ls := locs.filterMap fun | .ls a => some a | _ => none
  { x with watch := mergeWatch x.watch (mergeWatch (s.core.watchHit 2 kind far) (s.core.watchHit 1 kind ls)) }

/-- Bytes with their indices from `o` up. -/
def indexed (o : Nat) (bs : List Byte) : List (Nat × Byte) := (List.range bs.length).zip bs |>.map fun e => (o + e.1, e.2)

/-- The bytes that a transform command holds for a unit of its slot. -/
def Cmd.unitBytes (x : Cmd) (u : Nat) : List Byte := (List.range 32).map fun i => (x.have? (32 * u + i)).getD 0

/-- A read of bytes of one granule for the focus core (R259, R260, R263). -/
def State.coreRead (s : State) (va dpa n : Nat) (ecc : Bool) : State × List Byte :=
  let r := s.homeRead s.myCtx va dpa n ecc
  (r.1, if ecc ∨ s.vagueAt dpa then r.2 else s.asSeen dpa n r.2)

/-- A single far access is performed at its home (R132 to R134, R149); the second result is what the command then
holds. An atomic that leaves what it finds may come before actions that nothing orders before it (R268). -/
def State.unitHome (s : State) (x : Cmd) (u : Nat) (ecc : Bool) : State × List (Nat × Byte) :=
  let (va, n) := x.op.unitAt u
  let dpa := pinnedDpa x.pins va
  match x.op with
  | .fld _ _ _ => let (s, bs) := s.coreRead va dpa n ecc; (s, indexed 0 bs)
  | .unp _ _ _ => let (s, bs) := s.coreRead va dpa n ecc; (s, x.got ++ indexed (32 * u) bs)
  | .pak _ _ _ => (s.homeWrite s.myCtx va (cellsFrom dpa (x.unitBytes u)) ecc, x.got)
  | .fst _ _ v => (s.homeWrite s.myCtx va (cellsFrom dpa (toBytes n v.toNat)) ecc, [])
  | _ =>
    let seen := s.asSeen dpa n (s.mem.readAll dpa n)
    if !ecc ∧ !s.vagueAt dpa ∧ seen ≠ s.mem.readAll dpa n ∧ (x.op.atomicNew u seen).take n = seen then
      (s.atomicWatch s.myCtx s.core.team ((List.range n).map (va + ·)), if x.op.sreg = 0 then [] else indexed 0 seen) else
    let (s, old) := s.homeRead s.myCtx va dpa n ecc
    let s := s.homeWrite s.myCtx va (cellsFrom dpa (x.op.atomicNew u old)) false
    (s.atomicWatch s.myCtx s.core.team ((List.range n).map (va + ·)), if x.op.sreg = 0 then [] else indexed 0 old)

/-- The bytes that a destination granule takes, by location: of repeated ones the latest in index order (R124). -/
def Cmd.cells (x : Cmd) (key : Nat) : List (Loc × Byte) :=
  let all := (x.op.feeding key).map fun i => (x.op.dst i, (x.have? i).getD 0)
  all.foldl (fun m e => m.filter (fun f => f.1 != e.1) ++ [e]) []

/-- Writes bytes of a destination granule on this device. -/
def State.writeItem (s : State) (q : Nat) (x : Cmd) (cells : List (Loc × Byte)) (ecc : Bool) : State :=
  let ls := cells.filterMap fun | (.ls a, b) => some (a, b) | _ => none
  let code := cells.filterMap fun | (.code a, b) => some (a, b) | _ => none
  let far := cells.filterMap fun | (.far a, b) => some (a, b) | _ => none
  let s := (s.engineWrite q x ls).spoilTiles ls
  let s := s.onCore fun c => c.writeCode code
  match far with
  | [] => s
  | (va, _) :: _ =>
    match targetOf (pinnedDpa x.pins va) with
    | .remote _ => s
    | _ => (s.homeWrite s.myCtx va (far.map fun e => (pinnedDpa x.pins e.1, e.2)) ecc).sawGranule (pinnedDpa x.pins va)

/-- The device that an access goes to, if it is remote (R77, R90). -/
def Cmd.remoteOf (x : Cmd) (a : Act) : Option Nat :=
  (x.touches a).findSome? fun e => if e.1 = 2 then (match targetOf e.2 with | .remote d => some d | _ => none) else none

/-- An agent id as 48 bits (R96). -/
def Agent.bits48 (a : Agent) : Nat := 2 ^ 40 * a.dev + 2 ^ 36 * a.kind + 2 ^ 20 * a.launch + a.index

/-- A transaction id that no request in flight uses. -/
def State.newXid (s : State) : Nat := (List.range 0x100000).find? (fun n => s.dev.weftWait.all fun r => r.xid != n) |>.getD 0

/-- The request of a remote access (R90, R388): agent and context, virtual address, granule DPA, and by type the byte
mask, the operation and the data (the payload's layout is the model's own, log 30). -/
def State.sendRequest (s : State) (who : Doer) (x : Cmd) (a : Act) (dev : Nat) : State :=
  let xid := s.newXid
  let unit := x.op.unitAt a.n
  let va := if x.op.size = 0 then unit.1 else match (x.moved a).head? with
    | some i => if a.fetch then 32 * a.n else (x.op.dst i).addr
    | none => 0
  let first := match (x.touches a).head? with | some e => e.2 | none => 0
  let head := toBytes 8 (who.agent.bits48 + 2 ^ 48 * who.ctx) ++ toBytes 8 va ++ toBytes 8 (first % 2 ^ 43 / 32 * 32)
  let cells := if x.op.size = 0 then
      (match x.op with
       | .fst _ n v => cellsFrom (first % 32) (toBytes (2 ^ n) v.toNat)
       | .amo _ _ _ c => cellsFrom (first % 32) (toBytes 8 c.toNat)
       | .pak _ _ _ => cellsFrom 0 (x.unitBytes a.n)
       | .vamo _ _ _ v => cellsFrom 0 (toBytes 32 (bits v.toNat (256 * a.n + 255) (256 * a.n)))
       | _ => (List.range unit.2).map fun i => (first % 32 + i, 0))
    else if a.fetch then (x.touches a).map fun e => (e.2 % 32, 0)
    else (x.cells a.n).map fun e => (e.1.addr % 32, e.2)
  let mask := (cells.map fun e => 2 ^ e.1).eraseDups.foldl (· + ·) 0
  let data := (List.range 32).map fun i => ((cells.find? fun e => e.1 == i).map (·.2)).getD 0
  let opn := match x.op with
    | .amo k _ _ _ => k
    | .vamo k _ _ _ => 8 + k
    | _ => 0
  let type := if x.op.size = 0 then (match x.op with | .fld _ _ _ => 0 | .unp _ _ _ => 0 | .fst _ _ _ => 2 | .pak _ _ _ => 2 | _ => 4)
    else if a.fetch then 0 else 2
  let payload := head ++ toBytes 8 (mask + 2 ^ 32 * opn) ++ (if type = 0 then [] else data)
  let s := s.sendFlit dev (if x.op.size = 0 then 0 else 5) type xid payload
  s.onDev fun d => { d with weftWait := d.weftWait ++
    [⟨xid, dev, s.cycle, who.place, who.queue, x.idx, x.issue, a.item,
      if x.op.size ≠ 0 ∧ a.fetch then x.moved a else []⟩] }

/-- The fetched bytes of a source granule, by index. -/
def fetched (op : CmdOp) (is : List Nat) (base : Nat) (bytes : List Byte) : List (Nat × Byte) :=
  is.map fun i => (i, bytes.getD ((op.src i).addr - base) 0)

/-- The destination granules with a byte that a command both reads and writes (R124). -/
def Cmd.selfFed (x : Cmd) : List Nat :=
  match x.op with
  | .copy g =>
    if g.dir ≠ 2 then []
    else
      let srcs := (List.range x.op.size).map fun i => x.spot (x.op.src i)
      x.op.keys.filter fun key => (x.op.feeding key).any fun i => srcs.contains (x.spot (x.op.dst i))
  | _ => []

/-- The destination granules that are fed by a source byte written meanwhile (R129). -/
def Cmd.dirtied (x : Cmd) (dirty : List (Nat × Nat)) : List Nat :=
  if dirty = [] then []
  else x.op.keys.filter fun key => (x.op.feeding key).any fun i =>
    match x.op.src i with | .ls a => inRanges dirty a | _ => false

/-- The LS bytes of a command's source that were written since it issued. -/
def Core.dirtyOf (c : Core) (q : Nat) (x : Cmd) : List (Nat × Nat) :=
  match c.opens.find? fun w => w.of q x && !w.pushed with
  | some w => w.dirty
  | none => []

/-- The bytes that commands behind one in its queue have written already (R116, R261). -/
def Core.writtenAfter (c : Core) (q : Nat) (x : Cmd) : List (Nat × Nat) :=
  let later := ((c.queue q).cmds.dropWhile fun y => !y.same x).drop 1
  (later.filter fun y => decide (y.stage = .begun)).flatMap fun y =>
    if y.op.size = 0 ∧ y.op.kind = 1 then []
    else ((y.op.work.filter fun k => !y.todo.contains k).map fun k => (⟨false, k⟩ : Act)).flatMap y.touches

/-- The bytes of a destination granule of a far or LS destination. -/
def CmdOp.granule (op : CmdOp) (key : Nat) : List Loc :=
  let far := (op.feeding key).any fun i => (op.dst i).space == 2
  (List.range 32).map fun i => if far then Loc.far (32 * key + i) else .ls (32 * key + i)

/-- Leaves bytes that a command writes unspecified, but for those that a later command of its queue has written
since. -/
def State.scramble (s : State) (q : Nat) (x : Cmd) (locs : List Loc) : State :=
  let since := s.core.writtenAfter q x
  let cell (l : Loc) : Loc × Byte := (l, s.free (slotOf 5 (2 + l.space) l.addr) 8)
  s.writeItem q x ((locs.filter fun l => !since.contains (x.spot l)).map cell) false

/-- Leaves granules of a command's destination unspecified (R124, R129). -/
def State.scrambleAll (s : State) (q : Nat) (x : Cmd) (keys : List Nat) : State :=
  keys.foldl (fun s key => s.scramble q x (x.op.granule key)) s

/-- The j-th access that a queue of the focus core allows is performed, as one indivisible action on one granule
(R72, R116, R118, R259); `ecc` says whether an uncorrectable error is found there (R87). An access to another device
is sent to it (R90). -/
def State.coreAccess (q j : Nat) (ecc : Bool) (s : State) : Out :=
  if q ≠ 4 ∧ q ≠ 5 ∧ q ≠ 6 then .next s
  else match (s.allowed q)[j]? with
    | none => .next s
    | some (x, a) =>
      match x.remoteOf a with
      | some dev => .next (s.sendRequest (s.me q) x a dev)
      | none =>
        if x.op.size = 0 then
          let u := x.op.unitAt a.n
          let (s, got) := s.unitHome x a.n ecc
          let s := s.sawGranule (pinnedDpa x.pins u.1)
          let x := s.watchOwn x x.op.kind ((List.range u.2).map fun i => .far (u.1 + i))
          .next (s.onCore fun c => c.setCmd q { x with todo := x.todo.erase a.n, got := got })
        else if a.fetch then
          let is := x.moved a
          let x := s.watchOwn x 1 (is.map x.op.src)
          let far := is.any fun i => (x.op.src i).space == 2
          let d := pinnedDpa x.pins (32 * a.n)
          let (s, bytes) := if far then (let r := s.coreRead (32 * a.n) d 32 ecc; (r.1.sawGranule d, r.2))
            else (s, (List.range 32).map fun i => s.engineLs x (32 * a.n + i))
          .next (s.onCore fun c => c.setCmd q { x with got := x.got ++ fetched x.op is (32 * a.n) bytes })
        else
          let cells := x.cells a.n
          let x := s.watchOwn x 0 (cells.map (·.1))
          let s := s.writeItem q x cells ecc
          let s := if x.selfFed.contains a.n then s.scramble q x (x.op.granule a.n) else s
          .next (s.onCore fun c => c.setCmd q { x with todo := x.todo.erase a.n })

/-! ### Completion (R124, R127, R129) -/
/-- The scalar result of a command goes to its register before the push (R132, R133). -/
def Core.writeResult (c : Core) (x : Cmd) : Core :=
  match x.op with
  | .fld xa _ _ => c.store (.s xa) (leNat (x.got.map (·.2)))
  | .amo _ xa _ _ => c.store (.s xa) (leNat (x.got.map (·.2)))
  | _ => c

/-- Whether a command waits for a response of another device. -/
def State.awaits (s : State) (q : Nat) (x : Cmd) : Bool :=
  s.dev.weftWait.any fun r => r.place == s.core.place && r.queue == q && r.idx == x.idx && r.issue == x.issue

/-- The oldest command of a copy queue has made every access: it writes its result and pushes (R116, R127). -/
def State.copyCompletion (s : State) (q : Nat) : State :=
  match (s.core.queue q).cmds with
  | [] => s
  | x :: _ =>
    if x.stage = .begun ∧ x.todo = [] ∧ !s.awaits q x then
      let s := s.scrambleAll q x (x.dirtied (s.core.dirtyOf q x))
      (s.onCore fun c => c.writeResult x).complete q x
    else s

/-! ### Replay (R136) -/

/-- The queues with a fault record, the earliest fault first chosen (of one cycle's, in the order of R295). -/
def Core.oldestRecord (c : Core) : Option (Nat × Nat × Cmd) :=
  ([7, 4, 5, 6].filterMap fun q => (c.queue q).record.map fun e => (q, e)).foldl
    (fun a e => match a with
      | none => some e
      | some b => if e.2.1 < b.2.1 then some e else some b) none

/-- Places a command behind those of its queue that have begun and ahead of the others. -/
def placeCmd (x : Cmd) (cs : List Cmd) : List Cmd :=
  cs.filter (fun c => decide (c.stage = .begun)) ++ x :: cs.filter fun c => decide (c.stage ≠ .begun)

/-- A recorded command is put back in its queue (R136): it has its pops, adds its barrier bytes again and opens its
window again; what was written to its source since it issued counts (R129). -/
def State.putBack (s' s : State) (q : Nat) (x : Cmd) : State :=
  let r := s'.tagBytes (x.bar.map (·.1)) ((x.bar.map (·.2)).getD 0)
  let x := { x with
    stage := .popped, pins := [], todo := [], got := [], watch := none, fail := r.2.2, accepted := s.cycle }
  let s' := r.1.onCore fun c => c.endWindow q x
  let old := s.core.opens.find? fun w => w.of q x
  let new := windowOf s q x.idx x.push x.op
  let w := { new with
    issue := x.issue
    dirty := (if q = 7 then [] else (old.map (·.dirty)).getD []) ++ new.dirty
    banks := (old.map (·.banks)).getD [], tile := old.bind (·.tile), vregs := (old.map (·.vregs)).getD [] }
  let s' := s'.openWindow w
  let s' := s'.onCore fun c =>
    let qu := c.queue q
    c.setQueue q { qu with cmds := placeCmd x qu.cmds, record := none }
  s'.ring 2 q (2 ^ 32 * x.idx + s.nowWord .x)

/-- REPLAY (R50, R136). Its own push comes by the bound with the rank, SRC 3 and QIDX 0xFFFF of a guarded-off X command (DESIGN CHOICE,
log 35). In an object of another revision it is an illegal encoding, with its guard off too (R45, R50, R51). -/
def execReplay (l : Bool) (g : Guard) (t : Tok) (s : State) : Out :=
  let rev := ((s.launchAt s.myTag).map (·.rev)).getD 0x30
  s.issue { xi l g t with enc := if rev ≠ 0x30 then [s.illegal .x 8] else [] }
    (fun s => s.useDoms .x [25]
      ++ (match s.core.oldestRecord with
          | some e => s.queueTraps e.1
          | none => []))
    fun s' =>
      let s' := match s.core.oldestRecord with
        | some (q, _, x) => s'.putBack s q x
        | none => s'
      s'.pushLater 15 ⟨pushRank 1 0, t.push, 3, 0xFFFF⟩

end Sys2Proof.Machine
end

