-- ==== Sys2Proof/Machine/Crystal.lean ====
section
/-! DEFINITION. The crystallizer and the pan's own domains (R67, R68, R87, R89, R137 to R150): `xpak` and `xunp`, their
dispatch and completion, vault sub-banks, the background scrub. -/

namespace Sys2Proof.Machine

/-! ### xpak and xunp at issue (R147, R148) -/

/-- CZLIST as a word issuing now uses it (R17, R146). -/
def State.czlist (s : State) : Nat :=
  if s.inFlight (.csr 0x30) then (s.free (slotOf 3 2 0x30) 64).toNat else (s.core.csrAt 0x30).toNat

/-- The list extent that CZLIST names (R146). -/
def czExtent (czl : Nat) : Nat × Nat := (16 * bits czl 20 4, 16 * bits czl 20 4 + 16 * bits czl 47 32)

/-- Whether a control operand is good (R147). -/
def State.czOk (s : State) (c : Nat) (pack : Bool) : Bool :=
  decide (bits c 63 62 ≠ 3 ∧ bits c 61 60 ≠ 3 ∧ bits c 42 39 = 0 ∧ bits c 22 20 = 0 ∧ bits c 38 23 ≠ 0 ∧ czN c ≠ 0)
    && (if bitOf c 59 then pack && s.namesBarrier (bits c 58 43) else bits c 58 43 == 0)

/-- The causes of a transform command (R148). -/
def State.czTraps (s : State) (pack : Bool) (slot ls c : Nat) : List Trap :=
  let n := czN c * czE c
  let ext := czExtent s.czlist
  if !s.czOk c pack then [s.operandTrap .x]
  else if slot % 32 ≠ 0 then [alignTrap .x slot]
  else if ls % czE c ≠ 0 then [alignTrap .x ls]
  else match outsideLs ls n <|> (if pack then none else outsideLs ext.1 (ext.2 - ext.1)) with
    | some a => [alignTrap .x a]
    | none =>
      s.useDoms .x (rangeDoms ((ls, ls + n) :: if pack then [] else [ext]) ++ [25])
      ++ (match s.farFail slot (czS c) (if pack then .write else .read) with
          | some e => [unownedTrap e.1 e.2]
          | none => [])
      ++ s.queueTraps 6

/-- XPAK (R147 to R149). -/
def execXpak (l : Bool) (xa xb xc : Nat) (g : Guard) (t : Tok) (s : State) : Out :=
  let slot := (s.readS 0 xa).toNat
  let ls := (s.readS 1 xb).toNat
  let c := s.readS 2 xc
  s.issue (xi l g t) (fun s => s.czTraps true slot ls c.toNat) fun s' =>
    let r := s'.tagBytes (if bitOf c.toNat 59 then some (bits c.toNat 58 43) else none) (czS c.toNat)
    r.1.accept s .x 6 (.pak slot ls c) t r.2.1 r.2.2 (windowOf s 6 0 t.push (.pak slot ls c))

/-- XUNP (R147 to R149). -/
def execXunp (l : Bool) (xa xb xc : Nat) (g : Guard) (t : Tok) (s : State) : Out :=
  let ls := (s.readS 0 xa).toNat
  let slot := (s.readS 1 xb).toNat
  let c := s.readS 2 xc
  s.issue (xi l g t) (fun s => s.czTraps false slot ls c.toNat) fun s' =>
    s'.accept s .x 6 (.unp ls slot c) t none false
      { windowOf s 6 0 t.push (.unp ls slot c) with writes := (CmdOp.unp ls slot c).lsWrites s.czlist }

/-! ### Pans (R24, R67, R138) -/

/-- The pan of a core, and of a die and pan number. -/
def Core.pan (c : Core) : Nat := c.place / 4
def panOf (die pan : Nat) : Nat := 8 * die + pan

/-- A pan's domains; at first all OFF, core 3 served last (R138). -/
def Device.panAt (d : Device) (p : Nat) : Pan := look ⟨[], .off, 3, 0, none⟩ d.pans p

/-- Updates a pan. -/
def State.onPan (s : State) (p : Nat) (f : Pan → Pan) : State :=
  s.onDev fun d => { d with pans := put ⟨[], .off, 3, 0, none⟩ d.pans p (f (d.panAt p)) }

/-- The core of a pan by number. -/
def State.panCore (s : State) (p k : Nat) : Option Core := s.cores.find? fun c => c.place == 4 * p + k

/-- Whether a pan's crystallizer runs a command or a node. -/
def State.czBusy (s : State) (p : Nat) : Bool :=
  (s.dev.panAt p).node.isSome || (s.cores.any fun c => c.pan == p && c.tfq.cmds.any fun x => decide (x.stage = .begun))

/-- The head of a core's transform queue that stands at the crystallizer: it has its pops, or finds them this cycle
(R137, R295, log 72). -/
def Core.czHead (c : Core) : Option Cmd :=
  match c.tfq.cmds with
  | x :: _ => if (x.stage = .popped ∧ c.tfq.halted = false) ∨ c.ready 6 = some x then some x else none
  | [] => none

/-- Whether cz is ON in a cycle; cz begins to wake, and will look at core 0's queue first (R67, R138). -/
def Pan.czOn (n : Pan) (cycle : Nat) : Bool :=
  match n.cz with
  | .on => true
  | .waking t _ => decide (t ≤ cycle)
  | _ => false
def Pan.wakeCz (n : Pan) (cycle : Nat) : Pan := { n with cz := .waking (cycle + 32) false, last := 3 }

/-- The core that a free crystallizer serves next: the order starts after the one served last (R138). -/
def State.czNext (s : State) (p : Nat) : Option Nat :=
  ([1, 2, 3, 4].map fun i => ((s.dev.panAt p).last + i) % 4).find? fun k => match s.panCore p k with
    | some c => c.czHead.isSome
    | none => false

/-- The element bytes of a pack, as the engine reads them (R118, R149). -/
def State.czElements (s : State) (x : Cmd) (ls k n : Nat) : List (List Byte) :=
  (List.range n).map fun i => (List.range k).map fun b => s.engineLs x (ls + k * i + b)

/-- The bytes of a slot's granule. -/
def slotGranule (slot u : Nat) : List Loc := (List.range 32).map fun i => .far (slot + 32 * u + i)

/-- An image too long for its slot (R144): each slot granule keeps its contents or is unspecified, and the command
fails. -/
def State.overrun (s : State) (x : Cmd) (slot ctl len : Nat) : State :=
  let one (s : State) (u : Nat) : State := if s.flip (slotOf 12 1 u) then s else s.scramble 6 x (slotGranule slot u)
  ((List.range (czS ctl / 32)).foldl one s).failCmd 6 x
    ⟨17, info 6 (2 ^ 44 * x.idx + 2 ^ 21 * min len (2 ^ 23 - 1) + czC ctl)⟩

/-- A transform command begins (R125, R138, R144, R149): a pack reads its elements and forms its slot. -/
def State.beginTransform (s : State) (x : Cmd) : State :=
  let s := s.beginCmd 6 x
  match x.op, (s.core.tfq.cmds.find? fun y => y.same x) with
  | .pak slot ls ctl, some y =>
    if y.stage ≠ .begun then s
    else
      let c := ctl.toNat
      let img := imageOf (bits c 63 62) (czE c) (s.czElements x ls (czE c) (czN c))
      let y := s.watchOwn y 1 ((List.range (czN c * czE c)).map fun i => .ls (ls + i))
      if img.length > czC c then s.overrun y slot c img.length
      else
        s.onCore fun co => co.setCmd 6 { y with got := indexed 0 (buildSlot (czS c) img) }
  | _, _ => s

/-- CRYSTALLIZER_DISPATCH: the head of the core's transform queue takes its pops; or the pan's crystallizer, being
free, takes it; a crystallizer that is OFF wakes first (R38, R67, R137, R138). -/
def execCrystallizerDispatch (s : State) : Out :=
  let p := s.core.pan
  match s.core.tfq.cmds with
  | [] => .next s
  | x :: _ =>
    if x.stage = .waiting then
      if s.core.ready 6 = some x ∧ s.core.mayTake 6 x.pops then
        .next (s.onCore fun c => (c.takePops x.pops).setCmd 6 { x with stage := .popped })
      else .next s
    else if s.core.czHead = some x ∧ !s.czBusy p then
      let n := s.dev.panAt p
      if n.cz = .off then .next (s.onPan p fun n => n.wakeCz s.cycle)
      else if n.czOn s.cycle ∧ s.czNext p = some (s.core.place % 4) then
        .next ((s.onPan p fun n => { n with cz := .on, last := s.core.place % 4, idle := s.cycle }).beginTransform x)
      else .next s
    else .next s

/-- The cycles for which a transform command occupies the crystallizer (R138). -/
def czOccupancy (ctl : Nat) : Nat := 16 + (czS ctl + 63) / 64 + (czN ctl * czE ctl + 63) / 64

/-- The list entries of an unpack, appended in order (R146): LS cells, and CZLIST after them. -/
def appendList (slot idx : Nat) : List (Nat × Nat) → Nat → List (Nat × Byte) → Nat × List (Nat × Byte)
  | [], czl, cells => (czl, cells)
  | (chunk, kind) :: es, czl, cells =>
    let next := bits czl 63 48
    let cells := if next < bits czl 47 32 then
        cells ++ cellsFrom (16 * bits czl 20 4 + 16 * next) (toBytes 16 (2 ^ 64 * slot + 2 ^ 48 * idx + 2 ^ 32 * chunk + kind))
      else cells
    appendList slot idx es (czl % 2 ^ 48 + 2 ^ 48 * min 65535 (next + 1)) cells

/-- Where the output of the first run token that depends on byte `e` of a plane begins (R142): a token depends on the bytes it
covers and on the two after them. -/
def tokenAt (e : Nat) : Nat → List Byte → Nat → Nat → Nat
  | 0, _, _, out => out
  | _, [], _, out => out
  | fuel + 1, b :: bs, pos, out =>
    let z := min 128 ((b :: bs).takeWhile fun x => x == 0).length
    let n := if z ≥ 2 then z else 1 + litTail 127 bs
    if e < pos + n + 2 then out
    else tokenAt e fuel ((b :: bs).drop n) (pos + n) (out + if z ≥ 2 then 1 else 1 + n)

/-- The data-area bytes that source bytes of a pack feed, as ranges: `es` are the elements, `hit` the changed bytes by
index (R129, R140 to R142). Where a change may move what follows, all of that is fed, to the longest an image can be. -/
def pakFed (codec k cap : Nat) (es : List (List Byte)) (hit : List Nat) : List (Nat × Nat) :=
  let n := es.length
  match codec with
  | 0 =>
    let mb := (n + 7) / 8
    let at_ (e : Nat) : Nat := 8 + mb + k * ((es.take e).filter nonzero).length
    (0, 4) :: hit.flatMap fun i =>
      let e := i / k
      [(8 + e / 8, 9 + e / 8), (at_ e, min cap (at_ e + k * (n - e)))]
  | 1 =>
    let plane (b : Nat) : List Byte := es.map fun e => e.getD b 0
    let at_ (b e : Nat) : Nat :=
      8 + ((List.range b).map fun c => (encPlane n (plane c)).length).foldl (· + ·) 0 + tokenAt e n (plane b) 0 0
    (0, 4) :: hit.map fun i => (at_ (i % k) (i / k), min cap (8 + k * (n + (n + 127) / 128)))
  | _ => hit.map fun i => (i, i + 1)

/-- The slot granules that a pack leaves unspecified because its source changed: those that hold what the changed bytes feed,
the CRCs of their chunks among it (R129, R139). `bytes` is the slot as it was formed. -/
def pakSpoilt (ls ctl : Nat) (bytes : List Byte) (dirty : List (Nat × Nat)) : List Nat :=
  let k := czE ctl
  let hit := (List.range (czN ctl * k)).filter fun i => inRanges dirty (ls + i)
  if hit = [] then []
  else
    let es := pieces k (czN ctl) (unpackSlot (bits ctl 63 62) k (czN ctl) bytes).1
    let fed := pakFed (bits ctl 63 62) k (czC ctl) es hit
    let offs := (List.range (czC ctl)).filter fun o => inRanges fed o
    (offs.flatMap fun o =>
      [(o + 4 * chunkOf o) / 32, (min (4096 * (chunkOf o + 1)) (czS ctl) - 1) / 32]).eraseDups

/-- A transform command has made its far accesses: an unpack appends its list entries, then writes its elements (R144 to
R149). The list is written where CZLIST then names it, unchecked (DESIGN CHOICE, log 73). -/
def State.czFinish (s : State) (x : Cmd) : State :=
  let s := s.onPan s.core.pan fun n => { n with idle := s.cycle }
  match x.op with
  | .pak slot ls ctl =>
    let bytes := (List.range (czS ctl.toNat)).map fun i => (x.have? i).getD 0
    let s := (pakSpoilt ls ctl.toNat bytes (s.core.dirtyOf 6 x)).foldl (fun s u => s.scramble 6 x (slotGranule slot u)) s
    s.complete 6 x
  | .unp ls slot ctl =>
    let c := ctl.toNat
    let bytes := (List.range (czS c)).map fun i => (x.have? i).getD 0
    let r := unpackSlot (bits c 63 62) (czE c) (czN c) bytes
    let a := appendList slot x.idx r.2 (s.core.csrAt 0x30).toNat []
    let cells := a.2 ++ cellsFrom ls r.1
    let s := (s.engineWrite 6 x cells).spoilTiles cells
    let s := s.onCore fun co => co.setCsr 0x30 (BitVec.ofNat 64 a.1)
    s.complete 6 (s.watchOwn x 0 (cells.map fun e => .ls e.1))
  | _ => s

/-- COMMAND_COMPLETION: the oldest command of a copy queue or of the transform queue completes and pushes (R127,
R138, R149). -/
def execCommandCompletion (q : Nat) (s : State) : Out :=
  if q = 4 ∨ q = 5 then .next (s.copyCompletion q)
  else if q = 6 then
    match s.core.tfq.cmds with
    | [] => .next s
    | x :: _ =>
      let occ := match x.op with
        | .pak _ _ ctl => czOccupancy ctl.toNat
        | .unp _ _ ctl => czOccupancy ctl.toNat
        | _ => 0
      if x.stage = .begun ∧ x.todo = [] ∧ !s.awaits 6 x ∧ x.began + occ ≤ s.cycle then .next (s.czFinish x)
      else .next s
  else .next s

/-- CZ_IDLE_OFF: cz goes OFF after 4,096 cycles with an empty queue (R67). -/
def execCzIdleOff (die pan : Nat) (s : State) : Out :=
  let p := panOf die pan
  let n := s.dev.panAt p
  if die < 24 ∧ pan < 8 ∧ n.czOn s.cycle ∧ n.idle + 4096 ≤ s.cycle ∧ n.node = none
      ∧ (s.cores.all fun c => c.pan != p || c.tfq.cmds == []) then
    .next (s.onPan p fun n => { n with cz := .off })
  else .next s

/-! ### Vault sub-banks and the scrub (R67, R68, R87 to R89) -/

/-- The first page of 64 KiB of a region that lies where `here` says: its virtual address and DPA. -/
def State.firstPage (s : State) (r : Region) (here : Nat → Bool) : Option (Nat × Nat) := (s.regionParts r).find? fun e => here e.2

/-- Whether a DPA lies in a vault sub-bank. -/
def inSubbank (die pan bank d : Nat) : Bool := targetOf d == .vault die pan bank

/-- The DPA at which a sub-bank begins (R76). -/
def subbankBase (die pan bank : Nat) : Nat := 0x40000000000 + die * 0x40000000 + pan * 0x4000000 + bank * 0x600000

/-- A sub-bank whose contents are gone: every byte zero. -/
def State.zeroSubbank (s : State) (die pan bank : Nat) : State :=
  let b := subbankBase die pan bank
  { s with mem := s.mem.filter fun e => !(decide (b ≤ e.1) && decide (e.1 < b + 0x600000)) }

/-- Whether every page of 64 KiB of a sub-bank belongs to some region. -/
def State.bankCovered (s : State) (die pan bank : Nat) : Bool :=
  let mine := s.dev.regions.map fun r => ((s.regionParts r).filter fun e => inSubbank die pan bank e.2).length
  decide (96 ≤ mine.foldl (· + ·) 0)

/-- A sub-bank's retained contents are lost: zero, one machine check to each region with a granule in it, and a report to the
device owner if there are granules in no region (R68, R88, R89). -/
def State.loseSubbank (s : State) (die pan bank : Nat) : State :=
  let covered := s.bankCovered die pan bank
  let s := s.zeroSubbank die pan bank
  let s := s.dev.regions.foldl (fun s r => match s.firstPage r (inSubbank die pan bank) with
    | some e => s.machineCheck r.ctx e.1 2
    | none => s) s
  if covered then s else s.onDev fun d => { d with ownerReports := d.ownerReports + 1 }

/-- Whether a region has no granule in a sub-bank that is not ON (R67). -/
def State.banksOn (s : State) (r : Region) : Bool :=
  (s.firstPage r fun d => match targetOf d with
    | .vault die pan bank => look .off (s.dev.panAt (panOf die pan)).vt bank != .on
    | _ => false).isNone

/-- The placer wakes the sub-banks of a region before its first lend completes, within that lend's time (R67); one whose parity check
fails loses its contents (R68). -/
def State.wakeBanks (s : State) (r : Region) : State :=
  let banks := (s.regionParts r).filterMap fun e => match targetOf e.2 with
    | .vault die pan bank => some (die, pan, bank)
    | _ => none
  banks.eraseDups.foldl (fun s b =>
    let p := panOf b.1 b.2.1
    let old := look .off (s.dev.panAt p).vt b.2.2
    let s' := s.onPan p fun n => { n with vt := put .off n.vt b.2.2 .on }
    if old = .ret ∧ s.flip (slotOf 14 8 (8 * p + b.2.2)) then s'.loseSubbank b.1 b.2.1 b.2.2 else s') s

/-- VAULT_SUBBANK_WAKE: the placer wakes a sub-bank, which is ON 200 cycles later; one whose retained contents fail their
parity check is then zero, and each region with a granule in it takes one machine check; a granule outside every region is reported to
the device owner (R67, R68, R88, R89). -/
def execVaultSubbankWake (die pan bank : Nat) (parityFail : Bool) (s : State) : Out :=
  let p := panOf die pan
  let set (d : Dom) (s : State) : State := s.onPan p fun n => { n with vt := put .off n.vt bank d }
  if die < 24 ∧ pan < 8 ∧ bank < 8 then
    match look .off (s.dev.panAt p).vt bank with
    | .off => .next (set (.waking (s.cycle + 200) false) s)
    | .ret => .next (set (.waking (s.cycle + 200) true) s)
    | .on => .next s
    | .waking t fromRet =>
      if s.cycle < t then .next s
      else
        let s := set .on s
        if fromRet ∧ parityFail then .next (s.loseSubbank die pan bank) else .next s
  else .next s

/-- VAULT_SUBBANK_SLEEP: the placer puts a sub-bank into RET or OFF while no region in it is lent within a launch; an
OFF sub-bank loses its contents (R56, R67). -/
def execVaultSubbankSleep (die pan bank : Nat) (retain : Bool) (s : State) : Out :=
  let p := panOf die pan
  let used := s.dev.regions.any fun r => r.lentOut && (s.firstPage r (inSubbank die pan bank)).isSome
  if die < 24 ∧ pan < 8 ∧ bank < 8 ∧ look .off (s.dev.panAt p).vt bank = .on ∧ !used then
    let s := s.onPan p fun n => { n with vt := put .off n.vt bank (if retain then .ret else .off) }
    .next (if retain then s else s.zeroSubbank die pan bank)
  else .next s

/-- BACKGROUND_SCRUB: the scrub finds an uncorrectable error in the granule with a DPA, which becomes zero (R87,
R88). -/
def execBackgroundScrub (granule : Nat) (s : State) : Out :=
  let d := 32 * granule
  let real := match targetOf d with
    | .dram _ => true
    | .vault _ _ _ => true
    | _ => false
  if !real then .next s
  else
    let s := s.fillGranule d
    let owner := s.dev.regions.findSome? fun r =>
      (s.firstPage r fun e => decide (e ≤ d) && decide (d < e + 0x10000)).map fun e => (r, e)
    match owner with
    | some (r, va, page) => .next (s.machineCheck r.ctx (va + (d - page)) 2)
    | none => .next (s.onDev fun v => { v with ownerReports := v.ownerReports + 1 })

end Sys2Proof.Machine
end

