-- ==== Sys2Proof/Machine/Own.lean ====
section
/-! DEFINITION. Ownership of writable regions (R92 to R114): region and recipient operands, the home table and the
holdings, lends and returns, the ownership words and the queue that performs them. -/

namespace Sys2Proof.Machine

/-! ### Operands (R95, R96) -/

/-- Base and size of a region operand, and whether it is well formed. -/
def roBase (r : Nat) : Nat := 2 ^ 16 * bits r 55 16
def roSz (r : Nat) : Nat := bits r 5 0
def roOk (r : Nat) : Bool :=
  decide (bits r 63 56 = 0 ∧ bits r 15 6 = 0 ∧ 16 ≤ roSz r ∧ roSz r ≤ 40 ∧ roBase r % 2 ^ roSz r = 0)

/-- The region operand of a base and size. -/
def roOf (base sz : Nat) : Nat := base + sz

/-- The agent of a team of this device, the loom's for a launch, and an AQI's host agent (R96). -/
def State.teamAgent (s : State) (id : TeamId) : Agent := ⟨s.dev.weftId, 0, id.ltag, id.index⟩
def State.loomAgent (s : State) (ltag : Nat) : Agent := ⟨s.dev.weftId, 1, ltag, 0⟩
def State.hostAgent (s : State) (aqi : Nat) : Agent := ⟨s.dev.weftId, 2, 0, aqi⟩

/-- An AQI by number: unbound unless listed (R379). -/
def Aqi.unbound : Aqi := ⟨false, 0, 0, 0, 0, 0, 0, 0, 0, [], [], [], 0, 0, false, false, false, 0⟩
def Device.aqiAt (d : Device) (a : Nat) : Aqi := look Aqi.unbound d.aqis a

/-- The agent that a recipient operand names, for a team or, with none, a host agent of a context: none where the
operand is invalid (R96). The agent recorded for KIND 5 is the remote device's host agent of the named AQI (DESIGN CHOICE,
log 76). -/
def State.recipient (s : State) (me : Option TeamId) (ctx r : Nat) : Option Agent :=
  let kind := bits r 31 28
  let dev := bits r 27 20
  let idx := bits r 19 0
  if bits r 63 32 ≠ 0 then none
  else match kind with
    | 0 => match me with
      | some id =>
        let teams := ((s.launchAt id.ltag).map (·.teams)).getD 0
        if dev = 0 ∧ idx < teams ∧ idx ≠ id.index then some (s.teamAgent ⟨id.ltag, idx⟩) else none
      | none => none
    | 2 =>
      let a := s.dev.aqiAt idx
      if dev = 0 ∧ idx < 4096 ∧ a.bound ∧ a.ctx = ctx then some (s.hostAgent idx) else none
    | 5 => if dev < 192 ∧ dev ≠ s.dev.weftId ∧ idx < 4096 then some ⟨dev, 2, 0, idx⟩ else none
    | _ => none

/-! ### Holdings and home entries (R97, R98) -/

/-- Whether a holding is that of exactly a base and size. -/
def Holding.isAt (h : Holding) (base sz : Nat) : Bool := h.base == base && h.sz == sz

/-- The holding of exactly a region. -/
def Team.exact (t : Team) (base sz : Nat) : Option Holding := t.holdings.find? fun h => h.isAt base sz

/-- Updates the holding of exactly a region. -/
def Team.onHolding (t : Team) (base sz : Nat) (f : Holding → Holding) : Team :=
  { t with holdings := t.holdings.map fun h => if h.isAt base sz then f h else h }

/-- Removes a holding. -/
def Team.dropHolding (t : Team) (base sz : Nat) : Team :=
  { t with holdings := t.holdings.filter fun h => !h.isAt base sz }

/-- Adds an outstanding share of a mode to a holding, and takes one away (R94, R102, R104). -/
def Holding.lendShare (h : Holding) (mode : Nat) : Holding := { h with shares := h.shares + 1, smode := mode }
def Holding.unlendShare (h : Holding) : Holding :=
  { h with shares := h.shares - 1, smode := if h.shares ≤ 1 then 0 else h.smode }

/-- The home entry of exactly a region of a context. -/
def State.regionExact (s : State) (ctx base sz : Nat) : Option Region :=
  s.dev.regions.find? fun r => r.ctx == ctx && r.base == base && r.sz == sz

/-- Updates the home entry of exactly a region. -/
def State.onRegion (s : State) (ctx base sz : Nat) (f : Region → Region) : State :=
  s.onDev fun d => { d with regions := d.regions.map fun r =>
    if r.ctx = ctx ∧ r.base = base ∧ r.sz = sz then f r else r }

/-- The team of this device that an agent is. -/
def State.agentTeam (s : State) (a : Agent) : Option Team :=
  if a.kind = 0 ∧ a.dev = s.dev.weftId then s.teamAt ⟨a.launch, a.index⟩ else none

/-- The lender of record of an agent for the region that holds an address (R97, R104): a team's holding names it; the
loom took the token from the host agent of the launch's AQI; a host agent is its own, unless it was lent the token
(`Region.toHost`). -/
def State.lenderOf (s : State) (a : Agent) (va : Nat) : Agent :=
  if a.kind = 0 then
    match (s.agentTeam a).bind fun t => t.holdings.find? fun h => decide (h.base ≤ va) && decide (va < h.base + 2 ^ h.sz) with
    | some h => h.lender
    | none => a
  else if a.kind = 1 then
    match s.launchAt a.launch with
    | some l => s.hostAgent (((l.regions.find? fun r => decide (r.1 ≤ va) && decide (va < r.1 + 2 ^ r.2.1)).map (·.2.2)).getD l.aqi)
    | none => a
  else a

/-- The state of power and events of a team: an entry in the trace ring of each of its cores, saved ones too
(R362). -/
def State.ringTeam (s : State) (id : TeamId) (kind src data : Nat) : State :=
  let put1 (c : Core) : Core := c.ringAdd s.cycle kind src data
  let s := s.onCores fun c => if c.team = some id then put1 c else c
  s.onTeam id fun t => { t with image := t.image.map put1 }

/-- The DATA of an ownership event (R362). -/
def ownData (event base sz : Nat) : Nat := 2 ^ 48 * event + base / 2 ^ 16 * 2 ^ 6 + sz

/-- A holding divided down to a smaller region: both halves keep its state (R104). -/
def divideTo (base sz : Nat) : Nat → List Holding → List Holding
  | 0, hs => hs
  | fuel + 1, hs =>
    match hs.find? fun h => decide (h.base ≤ base) && decide (base < h.base + 2 ^ h.sz) && decide (h.sz > sz) with
    | none => hs
    | some h =>
      divideTo base sz fuel (hs.flatMap fun k =>
        if k = h then [{ h with sz := h.sz - 1 }, { h with base := h.base + 2 ^ (h.sz - 1), sz := h.sz - 1 }] else [k])

/-- How many entries dividing a team's holding down to a region adds (R104). -/
def Team.divideCost (t : Team) (base sz : Nat) : Nat := (divideTo base sz 32 t.holdings).length - t.holdings.length

/-! ### Moving tokens (R102 to R104, R107) -/

/-- The most entries of a holdings table and of a home table (R92, R98). -/
def holdingsMax : Nat := 256
def homeMax : Nat := 131072

/-- Whether an agent is lost or cannot be reached (R108). -/
def State.agentLost (s : State) (a : Agent) : Bool :=
  s.dev.lost.contains a || (a.dev != s.dev.weftId && s.dev.unreachable.contains a.dev)
    || (match s.agentTeam a with | some t => decide (t.status = .lost) | none => false)

/-- The kind with which a lend is refused when it would install, if it is (R107): a host agent whose AQI is no longer bound cannot
be reached. A recipient that already holds another
token of the region has no entry for this one. -/
def State.lendRefusal (s : State) (rec : Agent) (base sz mode : Nat) : Option Nat :=
  if s.agentLost rec ∨ (rec.kind = 2 ∧ rec.dev = s.dev.weftId ∧ !(s.dev.aqiAt rec.index).bound) then some 19
  else if rec.kind ≠ 0 then none
  else match s.agentTeam rec with
    | none => some 16
    | some t =>
      if t.status = .retired ∨ t.status = .ended then some 16
      else match t.exact base sz with
        | some h => if mode ≠ 0 ∧ h.mode = mode ∧ h.n < 65535 then none else some 17
        | none => if t.holdings.length ≥ holdingsMax then some 17 else none

/-- A host agent's WRITE token goes to another: whom it goes back to afterwards is kept (R104). -/
def Region.fromHost (r : Region) (lender : Agent) : Region := if lender.kind = 2 then { r with below := r.lender :: r.below } else r

/-- A WRITE token comes back to a host agent, whose own lender of record is LENDER again (R104). -/
def Region.toHost (r : Region) (host : Agent) : Region :=
  { r with owner := host, lender := r.below.headD host, below := r.below.drop 1 }

/-- A token enters its recipient's holdings and the home entry (R97, R98, R103). -/
def State.install (s : State) (ctx base sz : Nat) (rec : Agent) (mode : Nat) (lender : Agent) : State :=
  let s := s.onRegion ctx base sz fun r =>
    if mode = 0 then { r.fromHost lender with owner := rec, lender := lender }
    else { r with shares := r.shares + 1, smode := mode, holders := rec :: r.holders }
  match s.agentTeam rec with
  | none => s
  | some t =>
    let s := s.onTeam t.id fun t =>
      match t.exact base sz with
      | some _ => t.onHolding base sz fun h => { h with n := h.n + 1 }
      | none => { t with holdings := t.holdings ++ [⟨base, sz, mode, 1, false, 0, 0, lender, false⟩] }
    (s.acquireTeam t.id).ringTeam t.id 6 8 (ownData 5 base sz)

/-- A token goes back to its lender of record (R104): `holder` held it in a mode. -/
def State.giveBack (s : State) (ctx base sz mode : Nat) (holder lender : Agent) : State :=
  let s := match s.agentTeam lender with
    | none => s
    | some t =>
      let s := s.onTeam t.id fun t =>
        let t := { t with holdings := divideTo base sz 32 t.holdings }
        t.onHolding base sz fun h => if mode = 0 then { h with lent := false } else h.unlendShare
      (s.acquireTeam t.id).ringTeam t.id 6 8 (ownData 6 base sz)
  s.onRegion ctx base sz fun r =>
    if mode = 0 then (if lender.kind = 2 then r.toHost lender else { r with owner := lender, lender := s.lenderOf lender base })
    else { r with
      shares := r.shares - 1
      smode := if r.shares ≤ 1 then 0 else r.smode
      holders := r.holders.erase holder }

/-- The two halves of a region (R105). -/
def halfBases (base sz : Nat) : List Nat := [base, base + 2 ^ (sz - 1)]

/-- Entries of one home die's table. -/
def State.homeCount (s : State) (home : Nat) : Nat := (s.dev.regions.filter fun r => r.home == home).length

/-- Divides a home entry; the halves inherit what it records (R105). -/
def splitHome (ctx base sz : Nat) (rs : List Region) : List Region :=
  rs.flatMap fun r =>
    if r.ctx = ctx ∧ r.base = base ∧ r.sz = sz then (halfBases base sz).map fun b => { r with base := b, sz := sz - 1 }
    else [r]

/-- Merges the two halves of a region in the home table (R105). -/
def joinHome (ctx base sz : Nat) (rs : List Region) : List Region :=
  (rs.filter fun r => !(r.ctx == ctx && r.base == base + 2 ^ (sz - 1) && r.sz == sz - 1)).map fun r =>
    if r.ctx = ctx ∧ r.base = base ∧ r.sz = sz - 1 then { r with sz := sz } else r

/-! ### Reclaim (R109, R113) -/

/-- The lost holders of a region's shares. -/
def State.lostShares (s : State) (r : Region) : List Agent := r.holders.filter fun a => s.agentLost a

/-- Takes back an orphaned WRITE token for its lender of record (R109). -/
def State.takeOrphan (s : State) (r : Region) (me : Agent) : State :=
  let s' := match s.agentTeam me with
    | none => s
    | some t => s.onTeam t.id fun t =>
      let t := { t with holdings := divideTo r.base r.sz 32 t.holdings }
      t.onHolding r.base r.sz fun h => { h with lent := false, shares := r.shares, smode := r.smode }
  s'.onRegion r.ctx r.base r.sz fun e => { e with
    owner := me, lender := s'.lenderOf me r.base, orphan := s.lostShares r != [] }

/-- Recounts the shares of a region for its owner (R109). -/
def State.recount (s : State) (r : Region) (me : Agent) : State :=
  let left := r.holders.filter fun a => !s.agentLost a
  let mode := if left = [] then 0 else r.smode
  let s' := match s.agentTeam me with
    | none => s
    | some t => s.onTeam t.id fun t => t.onHolding r.base r.sz fun h => { h with shares := left.length, smode := mode }
  s'.onRegion r.ctx r.base r.sz fun e => { e with shares := left.length, smode := mode, holders := left, orphan := false }

/-- Reclaim by an agent: the state after it and the status (R113); with the home die lost none succeeds (R110). -/
def State.reclaim (s : State) (ctx base sz : Nat) (me : Agent) : State × Nat :=
  match s.regionExact ctx base sz with
  | none => (s, 3)
  | some r =>
    if r.owner ≠ me ∧ r.lender ≠ me then (s, 3)
    else if s.dev.lostDies.contains r.home then (s, 2)
    else if r.orphan ∧ r.lender = me ∧ r.owner ≠ me ∧ s.agentLost r.owner then (s.takeOrphan r me, 0)
    else if r.orphan ∧ r.owner = me ∧ s.lostShares r ≠ [] then (s.recount r me, 1)
    else (s, 2)

/-! ### At issue (R111) -/

/-- The holding that a region operand names exactly. -/
def State.myHolding (s : State) (rg : Nat) : Option Holding := s.team.bind fun t => t.exact (roBase rg) (roSz rg)

/-- The causes that all ownership words share: xe, the fault of the checks, the queue. -/
def State.ownTraps (s : State) (rg : Nat) (reason : Option Nat) : List Trap :=
  s.useDoms .x [25]
  ++ (match reason with
      | some r => [unownedTrap r rg]
      | none => [])
  ++ s.queueTraps 8

/-- The reason for which `own.lend` is refused at issue. -/
def State.lendReason (s : State) (rg rec mode : Nat) : Option Nat :=
  if !roOk rg then some 5
  else match s.myHolding rg with
    | none => some 4
    | some h =>
      if mode > 2 ∨ (s.core.team.bind fun id => s.recipient (some id) s.myCtx rec).isNone then some 6
      else if h.mode ≠ 0 ∨ h.lent then some 7
      else if mode = 0 ∧ h.shares ≠ 0 then some 7
      else if mode ≠ 0 ∧ ((h.shares ≠ 0 ∧ h.smode ≠ mode) ∨ h.shares = 65535) then some 7
      else none

/-- OWN_LEND (R102, R111). -/
def execOwnLend (l : Bool) (xa xb xc : Nat) (g : Guard) (t : Tok) (s : State) : Out :=
  let rg := s.readS 0 xa
  let rec_ := s.readS 1 xb
  let mode := s.readS 2 xc
  s.issue (xi l g t) (fun s => s.ownTraps rg.toNat (s.lendReason rg.toNat rec_.toNat mode.toNat)) fun s' =>
    let s' := s'.onMyTeam fun t => (t.remember s.cycle).onHolding (roBase rg.toNat) (roSz rg.toNat) fun h =>
      if mode = 0 then { h with lent := true } else h.lendShare mode.toNat
    let to_ := ((s.core.team.bind fun id => s.recipient (some id) s.myCtx rec_.toNat)).getD s.myAgent
    let s' := s'.acceptOp s 8 (.lend rg to_ mode) t
    s'.ring 6 8 (ownData 0 (roBase rg.toNat) (roSz rg.toNat))

/-- The reason for which `own.ret` is refused at issue. -/
def State.retReason (s : State) (rg : Nat) : Option Nat :=
  if !roOk rg then some 5
  else match s.myHolding rg with
    | none => some 4
    | some h => if h.mode = 0 ∧ (h.lent ∨ h.shares ≠ 0) then some 7 else none

/-- One token of a holding goes: the entry with the last (R98, R111). -/
def Team.takeToken (t : Team) (h : Holding) : Team :=
  if h.mode ≠ 0 ∧ h.n > 1 then t.onHolding h.base h.sz fun h => { h with n := h.n - 1 } else t.dropHolding h.base h.sz

/-- OWN_RET (R104, R111). -/
def execOwnRet (l : Bool) (xa : Nat) (g : Guard) (t : Tok) (s : State) : Out :=
  let rg := s.readS 0 xa
  s.issue (xi l g t) (fun s => s.ownTraps rg.toNat (s.retReason rg.toNat)) fun s' =>
    match s.myHolding rg.toNat with
    | none => s'
    | some h =>
      let s' := s'.onMyTeam fun t => (t.remember s.cycle).takeToken h
      let s' := s'.acceptOp s 8 (.ret rg h) t
      s'.ring 6 8 (ownData 1 h.base h.sz)

/-- Whether a holding is WRITE with nothing lent (R105). -/
def Holding.whole (h : Holding) : Bool := h.mode == 0 && !h.lent && h.shares == 0

/-- The reason for which `own.split` is refused at issue. -/
def State.splitReason (s : State) (rg : Nat) : Option Nat :=
  if !roOk rg then some 5
  else match s.myHolding rg with
    | none => some 4
    | some h =>
      if roSz rg = 16 ∨ !h.whole then some 8
      else if ((s.team.map (·.holdings.length)).getD 0) ≥ holdingsMax then some 9
      else none

/-- OWN_SPLIT (R105, R111). -/
def execOwnSplit (l : Bool) (xa : Nat) (g : Guard) (t : Tok) (s : State) : Out :=
  let rg := s.readS 0 xa
  s.issue (xi l g t) (fun s => s.ownTraps rg.toNat (s.splitReason rg.toNat)) fun s' => s'.acceptOp s 8 (.split rg) t

/-- The reason for which `own.join` is refused at issue. -/
def State.joinReason (s : State) (rg : Nat) : Option Nat :=
  if !roOk rg then some 5
  else
    let half (b : Nat) : Option Holding := s.team.bind fun t => t.exact b (roSz rg - 1)
    match half (roBase rg), half (roBase rg + 2 ^ (roSz rg - 1)) with
    | some a, some b => if !a.whole ∨ !b.whole ∨ a.lender ≠ b.lender then some 8 else none
    | _, _ => some 4

/-- OWN_JOIN (R105, R111). -/
def execOwnJoin (l : Bool) (xa : Nat) (g : Guard) (t : Tok) (s : State) : Out :=
  let rg := s.readS 0 xa
  s.issue (xi l g t) (fun s => s.ownTraps rg.toNat (s.joinReason rg.toNat)) fun s' => s'.acceptOp s 8 (.join rg) t

/-- OWN_QUERY (R111, R112). -/
def execOwnQuery (l : Bool) (xa xb : Nat) (g : Guard) (t : Tok) (s : State) : Out :=
  let rg := s.readS 1 xb
  s.issue (xi l g t) (fun s => s.ownTraps rg.toNat (if roOk rg.toNat then none else some 5))
    fun s' => s'.acceptOp s 8 (.query xa rg) t

/-- OWN_RECLAIM (R109, R111, R113). -/
def execOwnReclaim (l : Bool) (xa xb : Nat) (g : Guard) (t : Tok) (s : State) : Out :=
  let rg := s.readS 1 xb
  s.issue (xi l g t) (fun s => s.ownTraps rg.toNat (if roOk rg.toNat then none else some 5))
    fun s' => s'.acceptOp s 8 (.reclaim xa rg) t

/-! ### In the queue (R102 to R109, R111) -/

/-- The far ranges that a command names; none where a block table has yet to name them. -/
def CmdOp.farRanges : CmdOp → Option (List (Nat × Nat))
  | .copy g =>
    if g.bt ∧ g.table = [] then none
    else some ([false, true].flatMap fun dst =>
      if g.lsSide dst ∨ g.c0 = 0 then []
      else (List.range g.rows).map fun r => let a := patOf 64 (g.rowAt dst r); (a, a + g.c0))
  | .ovl _ a n => some [(a, a + n)]
  | .pak slot _ ctl => some [(slot, slot + czS ctl.toNat)]
  | .unp _ slot ctl => some [(slot, slot + czS ctl.toNat)]
  | op => some (op.units.map fun u => ((op.unitAt u).1, (op.unitAt u).1 + (op.unitAt u).2))

/-- Whether a command touches a region; one whose addresses are not known yet may. -/
def CmdOp.touchesRegion (op : CmdOp) (base sz : Nat) : Bool :=
  match op.farRanges with
  | none => true
  | some rs => rs.any fun r => decide (r.1 < base + 2 ^ sz) && decide (base < r.2)

/-- Whether far accesses of the core to a region that entered before a cycle are still on the way, a failed command's until it has
been replayed (R102, R136). -/
def Core.farBusy (c : Core) (base sz issue : Nat) : Bool :=
  [4, 5, 6].any fun q => (c.undone q).any fun x => decide (x.issue ≤ issue) && x.op.touchesRegion base sz

/-- The region that an ownership command awaits the accesses of. -/
def CmdOp.awaited : CmdOp → Option (Nat × Nat)
  | .lend rg _ _ => some (roBase rg.toNat, roSz rg.toNat)
  | .ret rg _ => some (roBase rg.toNat, roSz rg.toNat)
  | _ => none

/-- A late refusal: the command pushes and raises an imprecise transfer trap (R107). -/
def Cmd.refusedLate (x : Cmd) (kind : Nat) : Cmd := { x with late := some kind }

/-- The at-issue changes of a lend are undone (R111). -/
def Team.undoLend (t : Team) (base sz mode : Nat) : Team :=
  t.onHolding base sz fun h => if mode = 0 then { h with lent := false } else h.unlendShare

/-- The at-issue change of a return is undone (R111). -/
def Team.undoRet (t : Team) (h : Holding) : Team :=
  match t.exact h.base h.sz with
  | some _ => t.onHolding h.base h.sz fun k => { k with n := k.n + 1 }
  | none => { t with holdings := t.holdings ++ [{ h with n := 1 }] }

/-- What commands that have not performed changed at issue is undone, for a team that ends (R106). -/
def Team.undo (t : Team) (x : Cmd) : Team :=
  match x.op with
  | .lend rg _ mode => t.undoLend (roBase rg.toNat) (roSz rg.toNat) mode.toNat
  | .ret _ h => t.undoRet h
  | _ => t

/-- The value that `own.query` writes (R112). -/
def State.queryValue (s : State) (rg : Nat) : Nat :=
  match s.regionExact s.myCtx (roBase rg) (roSz rg) with
  | none => 0
  | some r =>
    let h := s.myHolding rg
    let held := (h.map fun h => h.mode + 1).getD 0
    let lent := (h.map fun h => h.mode == 0 && h.lent).getD false
    2 ^ 48 * r.shares + 2 ^ 6 * held + (if lent then 2 ^ 5 else 0) + (if r.orphan then 2 ^ 4 else 0) + 2 ^ 2 * r.smode + 2

/-- Whether the home die of a region is lost (R110). -/
def State.homeLost (s : State) (ctx base : Nat) : Bool :=
  match s.regionOf ctx base with
  | some r => s.dev.lostDies.contains r.home
  | none => false

/-- A lend performs (R102, R103, R107): the state after it and the command, refused late or not. -/
def State.doLend (s : State) (x : Cmd) (base sz : Nat) (rec : Agent) (mode : Nat) : State × Cmd :=
  let refusal := if s.homeLost s.myCtx base then some 19 else s.lendRefusal rec base sz mode
  match refusal, s.regionExact s.myCtx base sz with
  | some k, _ => (s.onMyTeam fun t => t.undoLend base sz mode, x.refusedLate k)
  | none, none => (s, x)
  | none, some _ => (s.install s.myCtx base sz rec mode s.myAgent, x)

/-- A return performs: to the lender of record as it then is (R104, R106, R107). -/
def State.doRet (s : State) (x : Cmd) (h : Holding) : State × Cmd :=
  let h := match s.regionExact s.myCtx h.base h.sz with
    | some r => { h with lender := if h.mode = 0 then r.lender else r.owner }
    | none => h
  let full := match s.agentTeam h.lender with
    | some t => decide (t.holdings.length + t.divideCost h.base h.sz > holdingsMax) && decide (t.divideCost h.base h.sz ≠ 0)
    | none => false
  if s.homeLost s.myCtx h.base then (s.onMyTeam fun t => t.undoRet h, x.refusedLate 19)
  else if full then (s.onMyTeam fun t => t.undoRet h, x.refusedLate 17)
  else (s.giveBack s.myCtx h.base h.sz h.mode s.myAgent h.lender, x)

/-- A split performs (R105, R107). The holdings were counted at issue; what came since may take them past 256, which nothing
refuses (DESIGN CHOICE, log 77). -/
def State.doSplit (s : State) (x : Cmd) (base sz : Nat) : State × Cmd :=
  match s.regionExact s.myCtx base sz with
  | none => (s, x)
  | some r =>
    if s.dev.lostDies.contains r.home then (s, x.refusedLate 19)
    else if s.homeCount r.home ≥ homeMax then (s, x.refusedLate 18)
    else
      let s := s.onDev fun d => { d with regions := splitHome s.myCtx base sz d.regions }
      let cut (h : Holding) : List Holding :=
        if h.isAt base sz then (halfBases base sz).map fun b => { h with base := b, sz := sz - 1 } else [h]
      let s := s.onMyTeam fun t => { t with holdings := t.holdings.flatMap cut }
      (s.ring 6 8 (ownData 2 base sz), x)

/-- A join performs (R105). -/
def State.doJoin (s : State) (x : Cmd) (base sz : Nat) : State × Cmd :=
  match s.regionExact s.myCtx base (sz - 1), s.regionExact s.myCtx (base + 2 ^ (sz - 1)) (sz - 1) with
  | some r, some _ =>
    if s.dev.lostDies.contains r.home then (s, x.refusedLate 19)
    else
      let s := s.onDev fun d => { d with regions := joinHome s.myCtx base sz d.regions }
      let s := s.onMyTeam fun t =>
        (t.dropHolding (base + 2 ^ (sz - 1)) (sz - 1)).onHolding base (sz - 1) fun h => { h with sz := sz }
      (s.ring 6 8 (ownData 3 base sz), x)
  | _, _ => (s, x)

/-- The head of the ownership queue performs, and completes with its push (R102 to R113). -/
def State.ownPerform (s : State) (x : Cmd) : State :=
  match x.op with
  | .lend rg a mode =>
    let base := roBase rg.toNat
    let sz := roSz rg.toNat
    if a.dev ≠ s.dev.weftId ∧ !s.agentLost a ∧ !s.homeLost s.myCtx base then
      let xid := s.newXid
      let s := s.sendFlit a.dev 2 6 xid
        (toBytes 8 (s.myAgent.bits48 + 2 ^ 48 * s.myCtx) ++ toBytes 8 rg.toNat ++ toBytes 8 (a.bits48 + 2 ^ 48 * mode.toNat))
      let s := s.onDev fun d => { d with
        weftWait := d.weftWait ++ [⟨xid, a.dev, s.cycle, s.core.place, 8, x.idx, x.issue, 0, []⟩] }
      s.onCore fun c => c.setCmd 8 { x with stage := .begun, began := s.cycle }
    else let r := s.doLend x base sz a mode.toNat; r.1.complete 8 r.2
  | .ret _ h => let r := s.doRet x h; r.1.complete 8 r.2
  | .split rg => let r := s.doSplit x (roBase rg.toNat) (roSz rg.toNat); r.1.complete 8 r.2
  | .join rg => let r := s.doJoin x (roBase rg.toNat) (roSz rg.toNat); r.1.complete 8 r.2
  | .query xa rg =>
    if s.homeLost s.myCtx (roBase rg.toNat) then s.complete 8 (x.refusedLate 19) else
    (s.onCore fun c => c.store (.s xa) (s.queryValue rg.toNat)).complete 8 x
  | .reclaim xa rg =>
    let r := s.reclaim s.myCtx (roBase rg.toNat) (roSz rg.toNat) s.myAgent
    let s := r.1.ring 6 8 (ownData 4 (roBase rg.toNat) (roSz rg.toNat))
    (s.onCore fun c => c.store (.s xa) r.2).complete 8 x
  | _ => s

/-- OWNERSHIP_QUEUE_EXECUTE: the head of the ownership queue takes its pops; or, its awaited accesses done, performs
(R38, R102, R104, R111). -/
def execOwnershipQueueExecute (s : State) : Out :=
  match s.core.owq.cmds with
  | [] => .next s
  | x :: _ =>
    match x.stage with
    | .waiting =>
      if s.core.ready 8 = some x ∧ s.core.mayTake 8 x.pops then
        .next (s.onCore fun c => (c.takePops x.pops).setCmd 8 { x with stage := .popped })
      else .next s
    | .popped =>
      let busy := (x.op.awaited.map fun r => s.core.farBusy r.1 r.2 x.issue).getD false
      if busy then .next s else .next (s.ownPerform x)
    | .begun => .next s

end Sys2Proof.Machine
end

