-- ==== Sys2Proof/Machine/Peer.lean ====
section
/-! DEFINITION. Teams of a launch and `send` and `recv` between cores (R304 to R306, R325, R331). -/

namespace Sys2Proof.Machine

/-! ### Indices and die groups (R325, R331) -/

/-- The spatial indices of a linear team index, innermost first (R325). -/
def spatialIdx : List Nat → Nat → List Nat
  | [], _ => []
  | c :: cs, t => t % c :: spatialIdx cs (t / c)

/-- The cohort of a team: itself if the tables do not list it. -/
def Launch.cohortOf (l : Launch) (index : Nat) : List Nat := (l.cohorts.find? fun c => c.contains index).getD [index]

/-- The indices of a team at the SPATIAL-DIE levels. -/
def Launch.dieKey (l : Launch) (index : Nat) : List Nat :=
  l.dieLevels.map fun p => (spatialIdx l.spatial index).getD p 0

/-- The die group of a team: the teams of its cohort with its SPATIAL-DIE indices (R331). -/
def Launch.dieGroup (l : Launch) (index : Nat) : List Nat :=
  (l.cohortOf index).filter fun t => l.dieKey t == l.dieKey index

/-- Whether a peer may be reached by `send` and `recv` (R304). -/
def Launch.peerOk (l : Launch) (me team rank : Nat) : Bool :=
  let g := l.dieGroup me
  g.contains team && decide (g.length * 2 ^ l.gw ≤ 32) && decide (rank < 2 ^ l.gw)

/-- Whether the resident team may reach a peer. -/
def State.peerOk (s : State) (team rank : Nat) : Bool :=
  match s.core.team with
  | none => false
  | some id => match s.launchAt id.ltag with
    | some l => l.peerOk id.index team rank
    | none => false

/-! ### send and recv (R304, R305) -/

/-- The issue of `send` and `recv`. -/
def peerWord (l : Bool) (g : Guard) : Issue := { st := .x, cls := 14, l := l, g := some g }

/-- The causes of `send` and `recv`: `kind` is that of their LS access. -/
def State.peerTraps (s : State) (a peer kind : Nat) : List Trap :=
  let outside := decide (a % 64 ≠ 0 ∨ a > 0x1FFE00)
  (if bits peer 63 22 ≠ 0 then [s.operandTrap .x] else [])
  ++ (if outside then [alignTrap .x a]
      else s.useDoms .x (rangeDoms [(a, a + 512)] ++ [25]) ++ s.portTraps .x [s.portNow .x a 512]
        ++ s.watchTraps .x kind ((List.range 512).map (a + ·)))
  ++ (if s.core.region.isNone then [timingTrap 3 12] else [])
  ++ (if !s.peerOk (bits peer 19 0) (bits peer 21 20) then [timingTrap 3 15] else [])

/-- SEND (R304, R305). -/
def execSend (l : Bool) (tag xa xb : Nat) (g : Guard) (s : State) : Out :=
  let a := (s.readS 0 xa).toNat
  let peer := (s.readS 1 xb).toNat
  s.issue (peerWord l g) (fun s => s.peerTraps a peer 1) fun s' =>
    let s' := s'.usePorts [s.portNow .x a 512]
    match s.core.team with
    | none => s'
    | some id =>
      let d : Delivery := ⟨id.ltag, bits peer 19 0, bits peer 21 20, id.index, s.core.rank, tag,
        s.cycle + s.core.bound 14, s.readLsN 2 a 512⟩
      s'.onDev fun v => { v with deliveries := v.deliveries ++ [d] }

/-- Whether a delivery is for the focus core. -/
def State.isMine (s : State) (d : Delivery) : Bool :=
  match s.core.team with
  | none => false
  | some id => d.ltag == id.ltag && d.toTeam == id.index && d.toRank == s.core.rank

/-- The deliveries that arrive at the focus core in this cycle. -/
def State.arrived (s : State) : List Delivery :=
  s.dev.deliveries.filter fun d => s.isMine d && d.at_ == s.cycle

/-- Takes this cycle's deliveries away. -/
def State.dropArrived (s : State) : State :=
  s.onDev fun v => { v with deliveries := v.deliveries.filter fun d => !(s.isMine d && d.at_ == s.cycle) }

/-- RECV (R304, R305). -/
def execRecv (l : Bool) (tag xa xb : Nat) (g : Guard) (s : State) : Out :=
  let a := (s.readS 0 xa).toNat
  let peer := (s.readS 1 xb).toNat
  s.issue (peerWord l g) (fun s => s.peerTraps a peer 0) fun s' =>
    let s' := (s'.usePorts [s.portNow .x a 512]).dropArrived
    match s.arrived with
    | [] => s'.raiseAfter (timingTrap 3 9)
    | [d] =>
      if d.fromTeam = bits peer 19 0 ∧ d.fromRank = bits peer 21 20 ∧ d.tag = tag then
        s'.writeLsAt (s.cycle + s.core.bound 14) (cellsFrom a d.bytes)
      else s'.raiseAfter (timingTrap 3 10)
    | _ => s'.raiseAfter (timingTrap 3 10)

/-- SEND_DELIVERY: a delivery for the focus core that no `recv` has taken in its cycle: a timing trap, or discarded
where the core does not issue (R305). -/
def execSendDelivery (s : State) : Out :=
  if s.arrived = [] then .next s
  else
    let s' := s.dropArrived
    if s.core.handler.isSome ∨ s.core.isDone ∨ s.core.stopped then .next s' else .next (s'.raiseAfter (timingTrap 3 10))

end Sys2Proof.Machine
end

