-- ==== Sys2Proof/Machine/Access.lean ====
section
/-! DEFINITION. Far accesses of agents other than cores (R93, R101, R319, R336), and the end of a team: its tokens and
counts (R106, R182). -/

namespace Sys2Proof.Machine

/-! ### Rights at the home entry (R93, R101) -/

/-- Whether an agent may access a region with a right, by its home entry: the owner with nothing but shares out, or the
holder of a share. -/
def Region.allows (r : Region) (a : Agent) (right : Right) : Bool :=
  if r.owner = a then
    r.shares == 0 || right == .read || (right == .atomic && r.smode == 2)
  else if r.holders.contains a then (if r.smode = 1 then right == .read else right == .atomic)
  else false

/-- The mode in which a host agent's lend of a region to another device waits for its response, if one does: from its request on
the region is in its lent state (R102). -/
def State.lending (s : State) (r : Region) : Option Nat :=
  (s.dev.weftWait.find? fun w => decide (768 ≤ w.place) && w.queue == 8 && w.issue == r.ctx && w.item == roOf r.base r.sz).map fun w =>
    w.bytes.getD 2 0
def State.beingLent (s : State) (r : Region) : Bool := (s.lending r).isSome

/-- The home entry of a region as its owner's rights are judged. -/
def State.asLent (s : State) (r : Region) : Region :=
  match s.lending r with
  | none => r
  | some 0 => { r with owner := ⟨s.dev.weftId, 15, 0, 0⟩ }
  | some m => { r with shares := r.shares + 1, smode := m }

/-- Whether an agent may access every byte of a run: regions are whole 64 KiB blocks (R92). -/
def State.agentMay (s : State) (ctx : Nat) (a : Agent) (va n : Nat) (right : Right) : Bool :=
  (pageOffs va n).all fun o => match s.regionOf ctx (va + o) with
    | some r => (s.asLent r).allows a right
    | none => false

/-- Whether a host agent holds WRITE of every byte of a run and has lent nothing of it. -/
def State.hostWhole (s : State) (ctx aqi va n : Nat) : Bool :=
  (pageOffs va n).all fun o => match s.regionOf ctx (va + o) with
    | some r => (s.asLent r).owner == s.hostAgent aqi && (s.asLent r).shares == 0
    | none => false

/-! ### Accesses through translation (R78 to R82) -/

/-- The kind of the first page of a run that does not translate. -/
def State.xlateFail (s : State) (pasid va n : Nat) (write : Bool) : Option Nat :=
  (pageOffs va n).findSome? fun o => match s.xlate pasid (va + o) write with
    | .error k => some k
    | .ok _ => none

/-- The DPA of an address, if it translates for the access: by one page's translation for all of an access (R83). -/
def State.dpaAt? (s : State) (pasid va : Nat) (write : Bool := false) : Option Nat :=
  match s.xlate pasid va write with
  | .ok p => some (p.dpa + (va - p.va))
  | .error _ => none
/-- The same of an address that is known to translate. -/
def State.dpaOf (s : State) (pasid va : Nat) : Nat := (s.dpaAt? pasid va).getD 0

/-- Bytes of far memory by virtual address; those of another device are whatever it answers. -/
def State.peek (s : State) (pasid va n : Nat) : List Byte :=
  (List.range n).map fun i =>
    match s.dpaAt? pasid (va + i) with
    | none => s.free (slotOf 14 1 (va + i)) 8
    | some d => match targetOf d with
      | .remote _ => s.free (slotOf 14 1 (va + i)) 8
      | _ => if s.vagueAt d then s.free (slotOf 14 1 (va + i)) 8 else s.mem.read d

/-- Writes bytes of far memory by virtual address, on this device. -/
def State.poke (s : State) (pasid va : Nat) (bs : List Byte) : State :=
  let put1 (m : Memory) (e : Nat × Byte) : Memory :=
    match s.dpaAt? pasid e.1 true with
    | none => m
    | some d => match targetOf d with
      | .remote _ => m
      | _ => m.write d e.2
  { s with mem := (cellsFrom va bs).foldl put1 s.mem }

/-- Unspecified bytes. -/
def State.freeBytes (s : State) (base n : Nat) : List Byte := (List.range n).map fun i => s.free (slotOf 14 0 (base + i)) 8

/-! ### Statistic counts of a context (R182) -/

/-- Adds a team's table to its context's counter block, each counter saturating at 64 bits. -/
def Device.addCounts (d : Device) (ctx : Nat) (stats : SMap Stat) : Device :=
  let add (m : SMap Stat) (e : Nat × Stat) : SMap Stat :=
    let k := 4096 * ctx + e.1
    let x := look ⟨0, 0, 0⟩ m k
    let top := 2 ^ 64 - 1
    put ⟨0, 0, 0⟩ m k ⟨min (x.sat + e.2.sat) top, min (x.ftz + e.2.ftz) top, min (x.nan + e.2.nan) top⟩
  { d with counters := stats.foldl add d.counters }

/-! ### The end of a team (R106) -/

/-- Whether a region lies within another. -/
def within (base sz b z : Nat) : Bool := decide (b ≤ base) && decide (base + 2 ^ sz ≤ b + 2 ^ z)

/-- What an agent lent of a region becomes its own lender's (R106). -/
def State.reparent (s : State) (ctx : Nat) (me : Agent) (h : Holding) : State :=
  let move (k : Holding) : Holding :=
    if k.lender = me ∧ within k.base k.sz h.base h.sz then { k with lender := h.lender } else k
  let moveTeam (t : Team) : Team := if t.ctx = ctx then { t with holdings := t.holdings.map move } else t
  let moveRegion (r : Region) : Region :=
    if r.ctx = ctx ∧ r.lender = me ∧ within r.base r.sz h.base h.sz then { r with lender := h.lender } else r
  let s := { s with teams := s.teams.map moveTeam }
  s.onDev fun d => { d with regions := d.regions.map moveRegion }

/-- Outstanding shares of a region pass to the lender with the token (R106). -/
def State.passShares (s : State) (h : Holding) : State :=
  match s.agentTeam h.lender with
  | none => s
  | some t => s.onTeam t.id fun t => t.onHolding h.base h.sz fun k => { k with shares := h.shares, smode := h.smode }

/-- Repeats a step. -/
def times (n : Nat) (f : State → State) (s : State) : State := (List.range n).foldl (fun s _ => f s) s

/-- One holding of an ended team goes back (R106). -/
def State.releaseHolding (s : State) (ctx : Nat) (me : Agent) (h : Holding) : State :=
  let s := s.reparent ctx me h
  if h.mode = 0 then
    if h.lent then s
    else
      let s := s.giveBack ctx h.base h.sz 0 me h.lender
      if h.shares = 0 then s else s.passShares h
  else times h.n (fun s => s.giveBack ctx h.base h.sz h.mode me h.lender) s

/-- Every token of a team goes back to its lender (R106). -/
def State.releaseTeam (s : State) (t : Team) : State :=
  let me := s.teamAgent t.id
  let s := s.onTeam t.id fun t => { t with holdings := [] }
  t.holdings.foldl (fun s h => s.releaseHolding t.ctx me h) s

/-- Whether nothing of a core's work is left (R293). -/
def Core.quiet (c : Core) : Bool :=
  [4, 5, 6, 7, 8].all (fun q => (c.queue q).cmds == []) && c.pend == [] && c.lsPend == [] && c.counts == []
    && c.gev == none && c.gevEnds == [] && c.rows == [] && c.gpush == [] && c.pmarks == []

/-- A core that no team occupies any more: every domain OFF (R55). -/
def Core.vacate (c : Core) : Core := Core.reset c.place

/-- On an island with no team resident every crystallizer that runs no node is OFF (R70). -/
def State.idleIslands (s : State) : State :=
  let busy (die : Nat) : Bool := s.cores.any fun c => c.place / 32 == die && c.team.isSome
  let pan (e : Nat × Pan) : Nat × Pan := if busy (e.1 / 8) ∨ e.2.node.isSome then e else (e.1, { e.2 with cz := .off })
  s.onDev fun d => { d with pans := d.pans.map pan }

/-- Takes a team off its cores; what it still awaited from other devices is forgotten, and no command of it leaves granules
unspecified any more. -/
def State.vacate (s : State) (id : TeamId) : State :=
  let places := (s.coresOf id).map (·.place)
  let s := s.onDev fun d => { d with
    weftWait := d.weftWait.filter fun r => !places.contains r.place
    vague := d.vague.filter fun v => v.team != id }
  (s.onCores fun c => if c.team = some id then c.vacate else c).idleIslands

/-- A team ends with a status: ownership commands that have not performed change nothing, its tokens go back, its counts are added, it counts as arrived at its barriers, its cores
are free (R106, R182, R309). -/
def State.endTeam (s : State) (t : Team) (status : TeamStatus) : State :=
  let queued := (s.coresOf t.id).flatMap fun c => c.owq.cmds
  let s := s.onTeam t.id fun t => queued.foldl Team.undo t
  let s := s.releaseTeam ((s.teamAt t.id).getD t)
  let s := s.onDev fun d => d.addCounts t.ctx t.stats
  let s := s.goneFrom t.id
  let s := s.vacate t.id
  s.onTeam t.id fun t => { t with status := status, image := [] }

/-- TEAM_RETIRE: every core of the gang has issued `done` and its work has completed (R106, R182, R293). -/
def execTeamRetire (team : TeamId) (s : State) : Out :=
  match s.teamAt team with
  | none => .next s
  | some t =>
    let cs := s.coresOf team
    if t.status = .resident ∧ t.fatal = none ∧ cs.length = t.width ∧ cs.all (fun c => c.isDone && c.quiet) then
      .next (s.endTeam t .retired)
    else .next s

end Sys2Proof.Machine
end

