-- ==== Sys2Proof/Machine/Homes.lean ====
section
/-! DEFINITION. Regions' storage (R29, R79, R85, R92): the region placer's choice, the host-stage leaves that the loom
writes for it, moves, and islands that a partition switch takes OFF (R23, R70, R331). -/

namespace Sys2Proof.Machine

/-! ### Storage of a region's own (R29, R92) -/

/-- The size of the blocks in which the placer gives storage, as a power of two: a page of the host stage (R79). -/
def blkOf (vault : Bool) (sz : Nat) : Nat := if sz < 21 then 16 else if vault || decide (sz < 30) then 21 else 30

/-- How many blocks a die's vaults or its DRAM have, and where the i-th begins (R76). -/
def dieBlocks (vault : Bool) (blk : Nat) : Nat := if vault then 8 * (0x3000000 / 2 ^ blk) else 0x800000000 / 2 ^ blk
def dieBlock (vault : Bool) (die blk i : Nat) : Nat :=
  let per := 0x3000000 / 2 ^ blk
  if vault then 0x40000000000 + die * 0x40000000 + i / per * 0x4000000 + i % per * 2 ^ blk
  else die * 0x1000000000 + i * 2 ^ blk

/-- Whether a die's memory can serve. -/
def State.dieServes (s : State) (d : Nat) : Bool :=
  !s.dev.fenced.contains d && !s.dev.lostDies.contains d && !s.dev.islandOff.contains d

/-- Whether an address lies in some region's storage. -/
def Homed.holds (h : Homed) (a : Nat) : Bool := h.store.any fun b => decide (b ≤ a) && decide (a < b + 2 ^ h.blk)

/-- Takes blocks that `ok` allows, in order, until none is wanted; `fuel` bounds the search. -/
def takeBlocks (ok : Nat → Bool) (at_ : Nat → Nat) : Nat → Nat → Nat → Option (List Nat)
  | _, _, 0 => some []
  | 0, _, _ + 1 => none
  | fuel + 1, i, n + 1 =>
    if ok (at_ i) then (takeBlocks ok at_ fuel (i + 1) n).map (at_ i :: ·) else takeBlocks ok at_ fuel (i + 1) (n + 1)

/-- Storage for a region of a home die, from a place `f` on: vault storage lies wholly in the home die's vaults, DRAM
storage begins in its stack (R29). -/
def State.storageFor (s : State) (home : Nat) (vault : Bool) (sz f : Nat) : Option (List Nat) :=
  let blk := blkOf vault sz
  let per := dieBlocks vault blk
  let die (i : Nat) : Nat := (home + i / per) % 24
  let at_ (i : Nat) : Nat := dieBlock vault (die i) blk ((f + i) % per)
  let ok (a : Nat) : Bool := s.unbacked a (2 ^ blk) && (List.range 24).any fun d => onDie d a && s.dieServes d
  takeBlocks ok at_ (if vault then per else 24 * per) 0 (2 ^ (sz - blk))

/-- The region placer's choice for a region: vault or DRAM and the blocks, if there is room. Which it takes is its own affair;
a region too large for the vaults has DRAM (R29). -/
def State.newStorage (s : State) (ctx base sz home : Nat) : Option Homed :=
  let f := Config.freeNat s.fresh (slotOf 15 1 4097)
  let with_ (vault : Bool) : Option Homed :=
    (s.storageFor home vault sz f).map fun b => ⟨ctx, base, sz, home, vault, blkOf vault sz, b⟩
  if s.flip (slotOf 15 1 4098) then with_ true <|> with_ false else with_ false

/-- The dies that may be a region's home (R92, R97). -/
def State.homeDies (s : State) : List Nat := (List.range 24).filter fun d => s.dieServes d && decide (s.homeCount d < homeMax)

/-! ### Host-stage leaves (R79, R80, R85) -/

/-- The IA page of a virtual address under a valid PASID entry. -/
def State.ctxPage (s : State) (e va : Nat) : Option (Nat × Nat) :=
  if !bitOf e 0 then none
  else match s.ctxStage e false va with
    | .ok p => if p.2 then none else some p.1
    | .error _ => none

/-- The leaf for a run of a region's storage of `2 ^ log` bytes, if its context page maps the whole of it. -/
def State.leafAt (s : State) (e va log dpa : Nat) : Option HostLeaf :=
  match s.ctxPage e va with
  | some p => if 2 ^ log ≤ p.2 then some ⟨hrootOf e, inPage p va / 2 ^ log, log, dpa⟩ else none
  | none => none

/-- The leaves for the storage of a region under a PASID: one for each block, or for each 64 KiB of it where context pages are
smaller. -/
def State.leavesOf (s : State) (pasid : Nat) (h : Homed) : List HostLeaf :=
  let e := (look 0 s.dev.pasids pasid).toNat
  ((List.range h.store.length).zip h.store).flatMap fun b =>
    let va := h.base + b.1 * 2 ^ h.blk
    match s.leafAt e va h.blk b.2 with
    | some l => [l]
    | none => (List.range (2 ^ (h.blk - 16))).filterMap fun i => s.leafAt e (va + 0x10000 * i) 16 (b.2 + 0x10000 * i)

/-- Adds a leaf, unless another maps some of its IAs. -/
def addLeaf (ls : List HostLeaf) (l : HostLeaf) : List HostLeaf :=
  if ls.any fun k => k.root == l.root && decide (k.ia * 2 ^ k.log < (l.ia + 1) * 2 ^ l.log)
      && decide (l.ia * 2 ^ l.log < (k.ia + 1) * 2 ^ k.log)
  then ls else ls ++ [l]

/-- Whether a region in a storage has a token lent. -/
def State.homeLent (s : State) (h : Homed) : Bool :=
  s.dev.regions.any fun r => r.ctx == h.ctx && within r.base r.sz h.base h.sz && r.lentOut

/-- The loom writes the host-stage entries of the homed regions, as the context tables then stand; those of a region of which a
token is lent stay (R85, log 74). -/
def State.writeLeaves (s : State) : State :=
  let of_ (h : Homed) : List HostLeaf :=
    match s.dev.regions.find? fun r => r.ctx == h.ctx && within r.base r.sz h.base h.sz with
    | some r => s.leavesOf r.pasid h
    | none => []
  let lent := s.dev.homed.filter s.homeLent
  let kept := s.dev.leaves.filter fun l => lent.any fun h => h.holds l.dpa
  if s.dev.homed = [] ∧ s.dev.leaves = [] then s
  else s.onDev fun d => { d with leaves := ((d.homed.filter fun h => !lent.contains h).flatMap of_).foldl addLeaf kept }

/-- Storage in which no region lies any more is given up. -/
def State.dropHomes (s : State) : State :=
  s.onDev fun d => { d with homed := d.homed.filter fun h => d.regions.any fun r => r.ctx == h.ctx && within r.base r.sz h.base h.sz }

/-- Copies a run of far memory to another place. -/
def Memory.copyRun (m : Memory) (src dst n : Nat) : Memory :=
  let cells := m.filter fun e => decide (src ≤ e.1) && decide (e.1 < src + n)
  let m := m.filter fun e => !(decide (dst ≤ e.1) && decide (e.1 < dst + n))
  cells.foldl (fun m e => m.write (dst + (e.1 - src)) e.2) m

/-- A region's storage is exchanged for another: its bytes are copied, block parts of 64 KiB one after another, and the
host-stage entries rewritten (R85). -/
def State.rehome (s : State) (old new : Homed) : State :=
  let mem := (List.range (2 ^ (old.sz - 16))).foldl (fun m i => Memory.copyRun m (old.part i) (new.part i) 0x10000) s.mem
  let move (r : Region) : Region := if r.ctx = old.ctx ∧ within r.base r.sz old.base old.sz then { r with home := new.home } else r
  let s := { s with mem := mem }
  (s.onDev fun d => { d with
    homed := d.homed.map fun h => if h = old then new else h
    regions := d.regions.map move }).writeLeaves

/-! ### Partition switches (R23, R70, R331) -/

/-- Whether a region's storage lies on a die. -/
def State.stores (s : State) (die : Nat) : Bool :=
  s.dev.regions.any (fun r => r.home == die) || s.dev.homed.any fun h => h.store.any fun b => onDie die b

/-- A die that leaves its partition goes through OFF: its units are zeroed, but for storage of regions that there still are, and
it stays OFF until it is bound again, unless it holds such storage (DESIGN CHOICE, log 78). -/
def State.islandThroughOff (s : State) (die : Nat) : State :=
  let kept := s.stores die
  let backed (a : Nat) : Bool := s.dev.homed.any fun h => h.holds a
  let bankKept (pan bank : Nat) : Bool := s.dev.homed.any fun h => h.store.any fun b =>
    (List.range (2 ^ (h.blk - 16))).any fun i => targetOf (b + 0x10000 * i) == .vault die pan bank
  let pan (p : Nat × Pan) : Nat × Pan :=
    if p.1 / 8 = die then (p.1, { p.2 with cz := .off, last := 3, vt := p.2.vt.filter fun e => bankKept (p.1 % 8) e.1 }) else p
  let core (c : Core) : Core := if c.place / 32 = die ∧ c.team = none then Core.reset c.place else c
  let s := { s with mem := s.mem.filter fun e => !onDie die e.1 || backed e.1 }
  (s.onCores core).onDev fun d => { d with
    pans := d.pans.map pan
    islandOff := if kept ∨ d.islandOff.contains die then d.islandOff else die :: d.islandOff }

/-- Whether a tenant's partition holds a die. AQI 0 is the owner's, on every die: it keeps none from a switch between tenants
(DESIGN CHOICE, log 78). -/
def Device.bindsDie (d : Device) (die : Nat) : Bool := d.aqis.any fun a => a.1 != 0 && a.2.bound && bitOf a.2.dies die

/-- Whether a team runs on a die. -/
def State.occupied (s : State) (die : Nat) : Bool := s.cores.any fun c => c.place / 32 == die && c.team.isSome

/-- The dies of a set that are in no tenant's partition any more go through OFF, but for one on which a team of the owner runs. -/
def State.leavePartition (s : State) (dies : Nat) : State :=
  ((List.range 24).filter fun d => bitOf dies d && !s.dev.bindsDie d && !s.occupied d).foldl State.islandThroughOff s

/-- The dies of a set enter a partition: their islands run again. -/
def State.enterPartition (s : State) (dies : Nat) : State :=
  s.onDev fun d => { d with islandOff := d.islandOff.filter fun k => !bitOf dies k }

end Sys2Proof.Machine
end

