-- ==== Sys2Proof/Machine/CoreEvents.lean ====
section
/-! DEFINITION. Imprecise traps, the watchdog, context images and the dump of a team that ends after a fatal trap (R334,
R340, R348 to R352, R358, R359). -/

namespace Sys2Proof.Machine

/-! ### Traps at a boundary (R334, R340) -/

/-- IMPRECISE_TRAP_TAKEN: the first pending imprecise trap is taken, unless the core is in handler mode (R340). -/
def execImpreciseTrapTaken (s : State) : Out :=
  match s.core.impr with
  | [] => .next s
  | t :: ts =>
    if s.core.handler.isSome ∨ s.core.team.isNone ∨ s.core.isDone ∨ s.core.stopped then .next s
    else .next ((s.onCore fun c => { c with impr := ts }).takeTrap t)

/-- WATCHDOG_EXPIRY: the count has reached zero; the team takes a fatal trap at this boundary, in handler mode too
(R334, R342). -/
def execWatchdogExpiry (s : State) : Out :=
  match s.team with
  | none => .next s
  | some t =>
    if t.wdog = 0 ∧ (t.status = .resident ∨ t.status = .draining) ∧ t.fatal = none then
      let trap : Trap := ⟨24, info 13 0⟩
      .next (({ s.trapRegs trap with trapped := some trap }).fatal 24 trap 0)
    else .next s

/-! ### Context images (R358, R359) -/

/-- A number of cells of one width. -/
def cells (w n : Nat) (f : Nat → Nat) : List Byte := (List.range n).flatMap fun i => toBytes w (f i)

/-- A control register as the image holds it: unspecified where no register has the selector. -/
def State.csrImage (s : State) (c : Core) (t : Team) (sel : Nat) : Nat :=
  if sel = 3 then s.cycle
  else if sel = 4 then t.wdog
  else if sel = 8 then c.trapCause
  else if sel = 0x20 then c.pdstate
  else if sel = 0x21 then c.pdwake
  else if sel = 0x22 then c.pdlost
  else if sel = 0x23 then c.inrush
  else if [0, 1, 2, 9, 0xA, 0x28, 0x29, 0x2A, 0x2B, 0x30].contains sel || (0xC ≤ sel && sel ≤ 0x1F) || 0x40 ≤ sel then
    (c.csrAt sel).toNat
  else (s.free (slotOf 14 2 sel) 64).toNat

/-- Pads a part of an image with zeros. -/
def padTo (n : Nat) (bs : List Byte) : List Byte := bs ++ List.replicate (n - bs.length) 0

/-- A strand in an image, in eight words (layout of the model, log 46): the first holds the program counter, what the strand is in,
and ten bits more. -/
def Thread.image (extra : Nat) (t : Thread) : List Byte :=
  let l := t.loop.getD ⟨0, 0, 0, 0, 0, [], false⟩
  let head := t.pc % 2 ^ 18 + 2 ^ 18 * t.inLock.toNat + 2 ^ 19 * t.loop.isSome.toNat + 2 ^ 20 * l.l.toNat + 2 ^ 22 * extra
  cells 4 8 fun i => [head, t.gap, t.rep, l.start, l.n, l.count, l.trip, l.slot].getD i 0

/-- The four strands in an image, with forty bits more. -/
def Threads.image (extra : Nat) (t : Threads) : List Byte :=
  [t.s, t.v, t.m, t.x].zip (List.range 4) |>.flatMap fun e => e.1.image (bits extra (10 * e.2 + 9) (10 * e.2))

/-- A hold as a kind and an operand, and back. -/
def Hold.code : Hold → Nat × Nat
  | .none => (0, 0)
  | .waitK k => (1, k)
  | .pwait m => (2, m)
  | .realign n => (3, n)
  | .barWait h => (4, h)
def Hold.ofCode (kind n : Nat) : Hold :=
  match kind with
  | 1 => .waitK n
  | 2 => .pwait n
  | 3 => .realign n
  | 4 => .barWait n
  | _ => .none

/-- The strand state of an image: the strands, with whether the core has issued `done`, the instruction that holds it and the cause
its handler serves; the strand state kept with that trap (R337, R355, R359, log 46). -/
def Core.strandImage (c : Core) : List Byte :=
  let h := c.hold.code
  let extra := c.isDone.toNat + 2 * h.1 + 2 ^ 4 * (h.2 % 2 ^ 26) + 2 ^ 30 * ((c.handler.map Saved.cause).getD 0)
  let none_ : Thread := ⟨0, false, 0, 0, none⟩
  let kept : Threads := (c.handler.map Saved.threads).getD ⟨none_, none_, none_, none_⟩
  c.thr.image extra ++ kept.image 0

/-- The power record in an image: PDSTATE, PDWAKE, PDLOST, INRUSH, and the wake cycles that each domain has left (R65,
R355). -/
def Core.powerImage (c : Core) (cycle : Nat) : List Byte :=
  let left (d : Nat) : Nat := match c.domAt d with
    | .waking t _ => t - cycle
    | _ => 0
  padTo 64 (cells 8 4 (fun i => [c.pdstate, c.pdwake, c.pdlost, c.inrush].getD i 0) ++ cells 1 26 left)

/-- The restart point in an image (R290). -/
def Restart.image (r : Restart) : List Byte :=
  padTo 0x1000 (padTo 0x100 (r.threads.image 0) ++ toBytes 8 r.lockmask.toNat ++ cells 8 16 (fun m => (look 0 r.amax m).toNat) ++ toBytes 8 r.at_)

/-- The nest registers of the nest that has begun, behind the shadow set (R355, log 46). -/
def NestSnap.image (n : NestSnap) : List Byte :=
  cells 8 6 (fun i => (n.levels.getD i 0).toNat) ++ toBytes 8 n.slot.toNat ++ toBytes 16 n.qa.toNat ++ toBytes 16 n.qb.toNat
    ++ toBytes 8 n.tcfg.toNat ++ toBytes 8 (n.share + 4 * n.meets.toNat)
def Core.activeNest (c : Core) : List Byte :=
  match (c.mxq.cmds.find? fun x => x.stage == .begun).map Cmd.op with
  | some (.nest n) => n.image
  | _ => []

/-- The core state section: each part at the place that R359 gives it, laid out within it as the model has it (log 46). -/
def State.coreSection (s : State) (c : Core) (t : Team) : List Byte :=
  cells 8 64 (fun i => (look 0 c.s i).toNat)
  ++ cells 128 16 (fun i => if i = 0 then 2 ^ 1024 - 1 else (look 0 c.p i).toNat)
  ++ cells 8 0x50 (s.csrImage c t)
  ++ cells 16 16 (fun i => (look 0 c.q i).toNat)
  ++ padTo 0x100 ((cells 8 8 fun i => if i = 7 then c.gang else (look (if i = 6 then 0x01000000 else 0) c.nest i).toNat)
      ++ c.activeNest)
  ++ c.strandImage ++ c.powerImage (if t.status = .preempted then c.stopAt else s.cycle) ++ cells 4 16 c.tokens ++ c.restart.image
  ++ padTo 0x2000 (cells 16 4 fun i => (look 0 c.wp i).toNat)

/-- The ge section: rule values, depth tags two to a byte, the configuration, its VALID bit, the `gstat` counters (R246, R359,
log 46). -/
def Core.geImage (c : Core) : List Byte :=
  let rv (i : Nat) : Rv := look ⟨0, 0⟩ c.rvf i
  padTo 0x28000 (cells 4 0x8000 (fun i => (rv i).sum.toNat) ++ cells 1 0x4000 (fun i => (rv (2 * i)).depth + 16 * (rv (2 * i + 1)).depth)
    ++ toBytes 32 c.gcfg.toNat ++ toBytes 8 (if c.gvalid then 1 else 0) ++ cells 8 4 (fun g => look 0 c.gstat g))

/-- A holding in an image (R98). -/
def Holding.image (h : Holding) : List Byte :=
  cells 8 8 fun i => [h.base + h.sz, h.mode, h.n, (if h.lent then 1 else 0) + (if h.orphan then 2 else 0), h.shares, h.smode,
    h.lender.bits48, 1].getD i 0

/-- A statistic table in an image: its counters of each tensor id (R178). -/
def statImage (m : SMap Stat) : List Byte :=
  (List.range 4096).flatMap fun i => let x := look ⟨0, 0, 0⟩ m i; toBytes 4 x.sat ++ toBytes 4 x.ftz ++ toBytes 4 x.nan ++ toBytes 4 0

/-- The team section: holdings table, statistic table and restart snapshot, watchdog, and with them the mark and the intervals whose
counts are void, the latest 1,020 of them (R181, R359, log 46). -/
def Team.section (t : Team) : List Byte :=
  padTo 0x28000 (padTo 0x4000 (t.holdings.flatMap Holding.image) ++ statImage t.stats ++ statImage t.snap
    ++ toBytes 8 t.wdog ++ toBytes 8 t.mark ++ toBytes 8 (min 1020 t.voids.length)
    ++ (t.voids.take 1020).flatMap fun v => toBytes 8 v.1 ++ toBytes 8 v.2)

/-- The stateful domains whose contents an image holds (R358). -/
def Core.present (c : Core) : List Nat :=
  (List.range 26).filter fun d => stateful d && (c.domAt d == .on || c.domAt d == .ret)

/-- Features whose state is not at its reset value (R358). -/
def Core.live (c : Core) : Nat :=
  maskNat [c.domAt 24 != .off, c.gang != 0, c.csrAt 0x30 != 0, c.oldestRecord.isSome,
    (List.range 4).any fun n => bits (look 0 c.wp n).toNat 75 74 != 0]

/-- A queued nest in an entry, but for its fifth and sixth level (R359, log 46). -/
def NestSnap.packed (n : NestSnap) : List Byte :=
  toBytes 4 n.slot.toNat ++ toBytes 4 n.tcfg.toNat ++ toBytes 10 (n.qa.toNat / 2 ^ 54) ++ toBytes 10 (n.qb.toNat / 2 ^ 54)
    ++ toBytes 1 (n.share + 4 * n.meets.toNat) ++ cells 6 4 fun i => (n.levels.getD i 0).toNat / 2 ^ 16

/-- A queue entry: the command's words, its index, queue and stage, and the operand values read at issue (R359, log 46). -/
def Cmd.entry (q : Nat) (x : Cmd) : List Byte :=
  let stage := match x.stage with | .waiting => 0 | .popped => 1 | .begun => 2
  toBytes 4 x.word ++ toBytes 4 x.word1 ++ toBytes 2 x.idx ++ toBytes 1 (stage + 4 * x.fail.toNat + 16 * q)
    ++ padTo 53 (match x.op with
      | .nest n => n.packed
      | _ => x.args.flatMap fun a => toBytes 8 a.toNat)

/-- The fault records of the queues. -/
def Core.records (c : Core) : List (Nat × Cmd) := [4, 5, 6, 7].filterMap fun q => (c.queue q).record.map fun e => (q, e.2)

/-- The queues section: how many commands each queue holds and its next index, markers and fault records, which queues halt; then their entries
(R359, log 46). -/
def Core.queueImage (c : Core) : List Byte :=
  let halted := ([4, 5, 6, 7, 8].filter fun q => (c.queue q).halted).foldl (fun m q => m + 2 ^ q) 0
  cells 8 8 (fun i => if i = 5 then c.pmarks.length else if i = 6 then c.records.length else if i = 7 then halted
    else let q := c.queue (if i < 4 then 4 + i else 8); q.cmds.length + 2 ^ 16 * q.next)
  ++ [4, 5, 6, 7, 8].flatMap (fun q => (c.queue q).cmds.flatMap (Cmd.entry q))
  ++ c.pmarks.flatMap (fun p => padTo 64 (toBytes 4 p.ch ++ toBytes 4 p.mask ++ toBytes 8 p.issue))
  ++ c.records.flatMap fun e => e.2.entry e.1

/-- The sections after the core state (R359). -/
def Core.imageRest (c : Core) (t : Team) : List Byte :=
  c.queueImage
  ++ cells 4 0x10000 (fun i => (look 0 c.code i).toNat)
  ++ cells 16 512 (fun i => (look 0 c.ring i).toNat) ++ toBytes 64 c.ringPos
  ++ (c.present.flatMap fun d =>
      if d < 8 then (List.range 0x40000).map fun i => look 0 c.ls (0x40000 * d + i)
      else if d < 18 then cells 512 128 (fun i => (look 0 c.v (128 * (d - 8) + i)).toNat)
      else c.geImage)
  ++ (if c.rank = 0 then t.section else [])

/-- A core's context image (R358, R359). -/
def State.imageBytes (s : State) (c : Core) (t : Team) : List Byte :=
  let body := s.coreSection c t ++ c.imageRest t
  let pres := (c.present.map fun d => 2 ^ d).foldl (· + ·) 0
  let head := 2 ^ 480 * (1 + body.length / 64) + 2 ^ 472 * 0x30 + 2 ^ 440 * 0x1F + 2 ^ 408 * c.live + 2 ^ 392 * t.ctx
    + 2 ^ 376 * t.id.ltag + 2 ^ 356 * t.id.index + 2 ^ 354 * c.rank + 2 ^ 352 * t.gw + 2 ^ 326 * pres
    + (if c.handler.isSome then 2 ^ 325 else 0) + (if c.rank = 0 then 2 ^ 324 else 0)
  toBytes 64 head ++ body

/-! ### The dump (R349 to R352) -/

/-- A barrier record (R352). -/
def Barrier.record (b : Barrier) (t : Team) : Nat :=
  let arr := ((List.range t.width).map fun r => b.arrivals t.id.index r)
  let ep := arr.foldl min (arr.headD 0)
  let there := ((List.range (b.countM1 + 1)).filter fun u => b.teamIn t.width (b.first + u) (b.done + 1)).length
  2 ^ 120 * b.handle + 2 ^ 88 * (ep % 2 ^ 32) + 2 ^ 56 * (b.done % 2 ^ 32) + 2 ^ 20 * b.pending + there % 2 ^ 20

/-- A core trap record (R352): the fatal trap's own, or the trap registers of a core stopped by a peer's. -/
def coreRecord (c : Core) (f : FatalRec) : Nat :=
  let own := decide (f.rank = c.rank)
  let cause := if own then f.cause else c.trapCause
  let inf := if own then f.info.toNat else (c.csrAt 9).toNat
  2 ^ 448 * (f.tick % 2 ^ 64) + 2 ^ 438 * c.place + 2 ^ 422 * cause + 2 ^ 414 * (if own then f.cause2 else 0)
    + 2 ^ 320 * inf + 2 ^ 288 * (c.csrAt 0xC).toNat + 2 ^ 256 * (c.csrAt 0xD).toNat + 2 ^ 224 * (c.csrAt 0xE).toNat
    + 2 ^ 192 * (c.csrAt 0xF).toNat

/-- Cores in ascending gang rank. -/
def byRank (width : Nat) (cs : List Core) : List Core := (List.range width).filterMap fun r => cs.find? fun c => c.rank == r

/-- A team's dump (R351). -/
def State.dumpBytes (s : State) (t : Team) (f : FatalRec) : List Byte :=
  let bars := s.dev.barriers.filter fun b => b.ltag == t.id.ltag && b.has t.id.index
  let recs := bars.flatMap fun b => toBytes 16 (b.record t)
  let padded := recs ++ List.replicate ((64 - recs.length % 64) % 64) 0
  let body := padded ++ (byRank t.width (s.coresOf t.id)).flatMap fun c => toBytes 64 (coreRecord c f) ++ s.imageBytes c t
  let head := 2 ^ 480 * (1 + body.length / 64) + 2 ^ 464 * t.ctx + 2 ^ 448 * t.id.ltag + 2 ^ 428 * t.id.index
    + 2 ^ 426 * t.gw + 2 ^ 418 * 0x30 + 2 ^ 410 * f.code + 2 ^ 400 * bars.length
  toBytes 64 head ++ body

/-- Writes a dump into a region if there is room, else counts a drop (R350): the result of R349. -/
def State.putDump (s : State) (ctx aqi pasid : Nat) (rg : Option Nat) (dump : List Byte) : State × Nat :=
  match rg with
  | none => (s, 1)
  | some g =>
    let base := roBase g
    let size := 2 ^ roSz g
    if (s.regionExact ctx base (roSz g)).isNone ∨ !s.hostWhole ctx aqi base size ∨ (s.xlateFail pasid base size true).isSome then
      (s, 3)
    else
      let next := leNat (s.peek pasid base 8)
      if next + dump.length ≤ size then
        let s := s.poke pasid (base + next) dump
        (s.poke pasid base (toBytes 8 (next + dump.length)), 0)
      else
        let drop := leNat (s.peek pasid (base + 8) 8)
        (s.poke pasid (base + 8) (toBytes 8 (drop + 1)), 2)

/-- Which dump a launch's record reports: the first team's, of one cycle's the lowest index's (R349). -/
def Launch.noteDump (l : Launch) (cycle index code : Nat) : Launch :=
  match l.dump with
  | none => { l with dump := some (cycle, index, code) }
  | some d => if d.1 = cycle ∧ index < d.2.1 then { l with dump := some (cycle, index, code) } else l

/-- Updates a launch. -/
def State.onLaunch (s : State) (ltag : Nat) (f : Launch → Launch) : State :=
  s.onDev fun d => { d with launches := d.launches.map fun l => if l.ltag = ltag then f l else l }

/-- Removes the barrier bytes of commands that are dropped (R126, R349). -/
def State.dropWork (s : State) (id : TeamId) : State :=
  let cmds := (s.coresOf id).flatMap fun c => [4, 5, 6].flatMap fun q => (c.queue q).cmds
  cmds.foldl (fun s x => if x.fail then s else s.dropPending id.ltag x.bar) s

/-- DUMP_WRITE: every core of a team with a fatal trap has stopped and its results have landed; what is still queued is
dropped, the dump is written or counted, and the team ends (R106, R182, R349 to R352). -/
def execDumpWrite (team : TeamId) (s : State) : Out :=
  match s.teamAt team with
  | none => .next s
  | some t =>
    match t.fatal with
    | none => .next s
    | some f =>
      let cs := s.coresOf team
      if (t.status = .resident ∨ t.status = .draining) ∧ cs.all fun c => (c.stopped || c.isDone) && c.pend == [] && c.lsPend == [] && c.rows == [] && c.counts == [] then
        let aqi := ((s.launchAt team.ltag).map (·.aqi)).getD 0
        let rg := look 0 s.dev.dumpRegs t.ctx
        let r := s.putDump t.ctx aqi t.pasid (if rg = 0 then none else some rg) (s.dumpBytes t f)
        let s := r.1.onLaunch team.ltag fun l => l.noteDump s.cycle team.index r.2
        let s := if r.2 = 2 then s.event aqi 0 5 0 (2 ^ 20 * team.ltag + team.index) else s
        .next ((s.dropWork team).endTeam t .ended)
      else .next s

end Sys2Proof.Machine
end

