-- ==== Sys2Proof/Machine/Loader.lean ====
section
/-! DEFINITION. Code objects (R26, R34, R43, R50, R51, R367 to R376): what the loader and Ozuth accept, and what they
load. -/

namespace Sys2Proof.Machine

/-- What a launch loads: the five sections, the contract bounds, the object's revision; of a Govel object, NEXT and the operations of
each block (R372). -/
structure Code where
  sections : List (List Word32)
  contract : List Nat
  rev : Nat
  blocks : List (Nat × List Nat)
deriving DecidableEq, Repr

/-- The longest declared lengths of the sections, in words, in the order S, V, M, X and trap (R26, R367). -/
def sectionMax : List Nat := [20480, 20480, 8192, 8192, 8192]

/-- The scratchpad offset at which each section begins (R26). -/
def sectionBase : List Nat := [0, 0x14000, 0x28000, 0x30000, 0x38000]

/-- The strand whose map decodes each section: trap code is the S strand's (R347). -/
def sectionStrand : List Strand := [.s, .v, .m, .x, .s]

/-! ### Native objects (R34, R51, R369) -/

/-- A group of registers with a size that the instruction alone fixes lies below v256 (R51, R189), and a conversion's
selector is a type (R184, R210). -/
def groupsFit : Instr → Bool
  | .vcvt _ _ _ t => decide (t ≤ 10)
  | .vwmul _ vd _ _ => decide (vd < 255)
  | .vwadd _ vd _ _ => decide (vd < 255)
  | .vnarrow _ _ va => decide (va < 255)
  | .vcvtMx _ vd va _ _ _ => decide (vd < 255) && decide (va < 255)
  | .vwfUpd _ vd va _ => decide (vd < 254) && decide (va < 254)
  | .vwfMrg _ vd va vb => decide (vd < 254) && decide (va < 254) && decide (vb < 254)
  | _ => true

/-- Whether an instruction is class E (R50). -/
def classE : Instr → Bool
  | .replay _ _ _ => true
  | _ => false

/-- Whether the loader accepts an instruction's words. -/
def wordOk (rev : Nat) (st : Strand) (w w1 : Nat) : Bool :=
  match decodeWords st w w1 with
  | .ok i => groupsFit i && (!classE i || rev == 0x30)
  | .error _ => false

/-- A section decoded linearly, trailing words with their instructions (R34). -/
def sectionOk (rev : Nat) (st : Strand) : List Nat → Bool
  | [] => true
  | [w] => !hasTrail st w && wordOk rev st w 0
  | w :: w1 :: ws =>
    if hasTrail st w then wordOk rev st w w1 && sectionOk rev st ws
    else wordOk rev st w 0 && sectionOk rev st (w1 :: ws)

/-- Words of an object from a byte offset. -/
def wordsAt (obj : List Byte) (at_ n : Nat) : List Nat :=
  (List.range n).map fun i => leNat ((obj.drop (at_ + 4 * i)).take 4)

/-- The offsets of the sections in the object, each at a multiple of 64 (R368). -/
def sectionOffs : Nat → List Nat → List Nat
  | _, [] => []
  | at_, n :: ns => at_ :: sectionOffs (at_ + (4 * n + 63) / 64 * 64) ns

/-- The lengths that a header declares (R367). -/
def declaredLens (h : Nat) : List Nat := [bits h 255 240, bits h 239 224, bits h 223 208, bits h 207 192, bits h 191 176]

/-- The contract table of a header (R43, R367). -/
def headContract (h : Nat) : List Nat := (List.range 16).map fun n => bits h (256 + 16 * n + 15) (256 + 16 * n)

/-- A native object as the loader takes it, or nothing where a check of R369 refuses it. -/
def loadNative (h : Nat) (obj : List Byte) : Option Code :=
  let lens := declaredLens h
  let offs := sectionOffs 64 lens
  let rev := bits h 167 160
  let words := (offs.zip lens).map fun e => wordsAt obj e.1 e.2
  if rev / 16 > 3 ∨ (lens.zip sectionMax).any (fun e => decide (e.1 > e.2)) then none
  else if (offs.zip lens).any (fun e => decide (e.1 + 4 * e.2 > 64 * bits h 159 128)) then none
  else if (List.range 16).any (fun n => decide ((headContract h).getD n 0 < ownLatency n)) then none
  else if (words.zip sectionStrand).all (fun e => sectionOk rev e.2 e.1) then
    some ⟨words.map fun ws => ws.map (BitVec.ofNat 32), headContract h, rev, []⟩
  else none

/-! ### Govel objects (R372 to R376) -/

/-- The fields of an operation record (R373). -/
def gStr (r : Nat) : Nat := bits r 127 126
def gOp (r : Nat) : Nat := bits r 125 119
def gFn (r : Nat) : Nat := bits r 118 106
def gCons (r : Nat) : List Nat := [bits r 105 96, bits r 95 86]
def gSrc (r : Nat) : List Nat := [bits r 31 24, bits r 23 16, bits r 15 8]
def gDst (r : Nat) : Nat := bits r 7 0
def gImm (r : Nat) : Nat := bits r 63 32

/-- The strand of a number. -/
def strandOf : Nat → Strand
  | 0 => .s | 1 => .v | 2 => .m | _ => .x

/-- The native word of an operation, its other fields zero: FN is the fn, the selector of a conversion or a control register, the
size of a scalar access (R46 to R49, R373). An opcode or FN outside its field gives the word zero, which no strand has. -/
def govelWord (r : Nat) : Nat :=
  let op := gOp r
  let fn := gFn r
  match gStr r with
  | 0 => if op < 64 ∧ (fn = 0 ∨ (1 ≤ op ∧ op ≤ 6 ∧ fn < 8) ∨ (op = 0x18 ∧ fn < 512) ∨ (0x20 ≤ op ∧ op ≤ 0x23)) then
      2 ^ 25 * op + fn else 0
  | 1 => if fn = 0 ∨ ((op = 0x3E ∨ op = 0x3F) ∧ fn < 256) then 2 ^ 24 * op + fn else 0
  | 2 => if op < 32 ∧ fn < 16 then 2 ^ 26 * op + 2 ^ 22 * fn else 0
  | _ => if op < 64 ∧ (fn = 0 ∨ (op = 7 ∧ fn < 8)) then 2 ^ 25 * op + fn
    else if (op = 5 ∨ op = 6) ∧ fn < 64 then 2 ^ 25 * op + 2 ^ 7 * fn else 0

/-- The native instruction that an operation names: none where its strand has none (R46 to R49). -/
def govelInstr (r : Nat) : Option Instr :=
  (decodeWords (strandOf (gStr r)) (govelWord r) (if gOp r = 0x1B ∧ gStr r = 3 then 0x0FFF0000 else 0)).toOption

/-- Whether an operation is an asynchronous command, whose TOK may be set (R33, R373). -/
def govelAsync (r : Nat) : Bool := decide (2 ≤ gStr r) && hasTrail (strandOf (gStr r)) (govelWord r)

/-- The instructions that a Govel object may not hold (R374). -/
def govelBarred : Instr → Bool
  | .gap _ _ => true
  | .rpt _ _ => true
  | .loop _ _ _ => true
  | .call _ _ => true
  | .ret _ => true
  | .realign _ _ => true
  | .unalign _ => true
  | .send _ _ _ _ _ => true
  | .recv _ _ _ _ _ => true
  | .markR _ => true
  | .eret _ => true
  | .eretR _ => true
  | .csrwLockmask _ _ => true
  | _ => false

/-- Whether an instruction is a branch, and whether it ends a block with no successor. -/
def isBranch : Instr → Bool
  | .br _ _ _ _ => true
  | .jmp _ _ => true
  | _ => false
def endsBlock : Instr → Bool
  | .jmp _ _ => true
  | .done _ => true
  | _ => false

/-- The register file of a field: 0 scalar, 1 predicate, 2 vector; `dst` for DST, otherwise slot `k`. -/
def govelFile (r : Nat) (dst : Bool) (k : Nat) : Nat :=
  let op := gOp r
  match gStr r with
  | 0 => if op = 5 ∧ (gFn r < 4 ∨ (k = 2 ∧ !dst)) then 1 else if op = 4 ∧ dst then 1 else if op = 0x19 ∧ k = 0 ∧ !dst then 1 else 0
  | 1 =>
    if 0x18 ≤ op ∧ op ≤ 0x1D ∧ dst then 1
    else if op = 0x15 ∨ op = 0x30 ∨ op = 0x31 ∨ op = 0x28 then (if dst then 2 else 0)
    else if (op = 0x29 ∨ (0x48 ≤ op ∧ op ≤ 0x4A)) ∧ !dst ∧ k = 1 then 0
    else 2
  | 2 => 0
  | _ => if 8 ≤ op ∧ op ≤ 0xB ∧ !dst ∧ k = 0 then 2 else 0

/-- Whether a register belongs to the translator (R373). -/
def translatorReg (file n : Nat) : Bool :=
  if file = 0 then decide (48 ≤ n) && decide (n ≤ 62)
  else if file = 1 then decide (12 ≤ n)
  else decide (192 ≤ n)

/-- The checks of one operation, the `i`-th of a block's `n` (R374). -/
def govelOpOk (nblk n i r : Nat) : Bool :=
  match govelInstr r with
  | none => false
  | some ins =>
    groupsFit ins && bits r 69 64 == 0 && (govelAsync r || bits r 85 70 == 0) && !govelBarred ins
    && (gCons r).all (fun c => !bitOf c 9 || (decide (bits c 6 0 > i) && decide (bits c 6 0 < n) && decide (bits c 8 7 < 3)))
    && (List.range 3).all (fun k => let x := (gSrc r).getD k 0xFF; x == 0xFF || !translatorReg (govelFile r false k) x)
    && (gDst r == 0xFF || !translatorReg (govelFile r true 0) (gDst r))
    && (!isBranch ins || (decide (i + 1 = n) && decide (gImm r < nblk)))

/-- The slots that producers of a block feed: consumer and slot. -/
def govelFed (rs : List Nat) : List (Nat × Nat) :=
  rs.flatMap fun r => (gCons r).filterMap fun c => if bitOf c 9 then some (bits c 6 0, bits c 8 7) else none

/-- Whether a list repeats an entry. -/
def repeats : List (Nat × Nat) → Bool
  | [] => false
  | x :: xs => xs.contains x || repeats xs

/-- The checks of one block (R372, R374): header and operations. -/
def govelBlockOk (nblk h : Nat) (rs : List Nat) : Bool :=
  let n := rs.length
  let fed := govelFed rs
  let next := bits h 103 88
  let dsts := rs.filterMap fun r => if gDst r = 0xFF then none else some (govelFile r true 0, gDst r)
  bits h 120 104 == 0 && bits h 87 0 == 0
  && ((List.range n).zip rs).all (fun e => govelOpOk nblk n e.1 e.2)
  && !repeats fed && fed.all (fun f => (gSrc (rs.getD f.1 0)).getD f.2 0xFF == 0xFF) && !repeats dsts
  && (if next = 0xFFFF then ((govelInstr (rs.getLastD 0)).map endsBlock).getD false else decide (next < nblk))

/-- The blocks of an object, given as records of 16 bytes, all good: `fuel` counts the blocks still to come. -/
def govelBlocksOk (nblk : Nat) : Nat → List Nat → Bool
  | 0, _ => true
  | _ + 1, [] => false
  | fuel + 1, h :: rs =>
    let n := bits h 127 121 + 1
    decide (n ≤ rs.length) && govelBlockOk nblk h (rs.take n) && govelBlocksOk nblk fuel (rs.drop n)

/-- The blocks of an object: NEXT and the operations of each. -/
def govelBlocks : Nat → List Nat → List (Nat × List Nat)
  | 0, _ => []
  | _ + 1, [] => []
  | fuel + 1, h :: rs =>
    let n := bits h 127 121 + 1
    (bits h 103 88, rs.take n) :: govelBlocks fuel (rs.drop n)

/-- A Govel object as Ozuth takes it (R374 to R376): the translation's offsets and words are Ozuth's, its contract this
device's own latencies. -/
def loadGovel (h : Nat) (obj : List Byte) : Option Code :=
  let nblk := bits h 255 240
  let records := (List.range ((obj.length - 64) / 16)).map fun i => leNat ((obj.drop (64 + 16 * i)).take 16)
  if bits h 511 256 ≠ 0 ∨ bits h 239 176 ≠ 0 ∨ nblk = 0 ∨ !govelBlocksOk nblk nblk records then none
  else
    let body := obj.drop 64
    let words (k : Nat) : List Word32 :=
      (List.range (Config.ozuthLen body k % (sectionMax.getD k 0 + 1))).map fun i => Config.ozuthWord body k i
    some ⟨(List.range 5).map words, (List.range 16).map ownLatency, 0x30, govelBlocks nblk records⟩

/-- A code object by its bytes, or nothing where DETAIL 5 refuses it (R369, R374). -/
def loadObject (obj : List Byte) : Option Code :=
  let h := leNat (obj.take 64)
  let kind := bits h 175 168
  if (crc32c (obj.drop 64)).toNat ≠ bits h 31 0 ∨ kind > 1 ∨ bits h 127 32 ≠ 0 then none
  else if kind = 0 then loadNative h obj
  else loadGovel h obj

end Sys2Proof.Machine
end

