-- ==== Sys2Proof/Machine/Graph.lean ====
section
/-! DEFINITION. The task graph (R151, R316 to R322, R336, R380): request packets, the order of an AQI's nodes, and the
nodes other than launches. -/

namespace Sys2Proof.Machine

/-! ### Packets (R316, R317) -/

/-- The fields of a node's header, and its body. -/
def Node.h (n : Node) : Nat := n.packet.toNat % 2 ^ 256
def Node.body (n : Node) : Nat := n.packet.toNat / 2 ^ 256
def Node.crec (n : Node) : Nat := bits n.h 255 192
def Node.slist (n : Node) : Nat := bits n.h 191 128
def Node.nsucc (n : Node) : Nat := bits n.h 79 69
def Node.prio (n : Node) : Nat := bits n.h 15 13
def Node.bf (n : Node) : Bool := bitOf n.h 12
def Node.rerun (n : Node) : Bool := bitOf n.h 11
def Node.pack (n : Node) : Bool := bitOf n.h 10
def Node.kind (n : Node) : Nat := bits n.h 3 0

/-- The two addresses of a transfer or transform body, a transfer's count, a signal's or wait's address and value. -/
def Node.src (n : Node) : Nat := bits n.body 255 192
def Node.dst (n : Node) : Nat := bits n.body 191 128
def Node.count (n : Node) : Nat := bits n.body 127 96
def Node.addr (n : Node) : Nat := bits n.body 255 192
def Node.value (n : Node) : Nat := bits n.body 191 128

/-- A transform's control operand, its direction and its list (R151). -/
def Node.ctl (n : Node) : Nat := 2 ^ 43 * bits n.body 127 107 + bits n.body 103 64
def Node.unpacks (n : Node) : Bool := bitOf n.body 106
def Node.list (n : Node) : Nat := 2 ^ 16 * bits n.body 55 16
def Node.lcap (n : Node) : Nat := bits n.body 12 0

/-- Whether a packet has no reserved field or value set, and every address at the multiple that its field names (R151,
R316, R317). -/
def Node.wellFormed (n : Node) : Bool :=
  let h := n.h
  let b := n.body
  decide (bits h 68 16 = 0 ∧ bits h 9 4 = 0 ∧ n.kind ≤ 4 ∧ n.nsucc ≤ 1024 ∧ n.crec % 64 = 0 ∧ n.slist % 4 = 0)
  && (match n.kind with
      | 0 => decide (bits b 191 0 = 0) && decide (n.addr % 64 = 0)
      | 1 => decide (bits b 95 0 = 0)
      | 2 => decide (bits b 105 104 = 0 ∧ bits b 63 56 = 0 ∧ bits b 15 13 = 0 ∧ n.lcap ≤ 4096
          ∧ bits n.ctl 63 62 ≠ 3 ∧ bits n.ctl 61 60 ≠ 3 ∧ bits n.ctl 59 43 = 0 ∧ bits n.ctl 39 39 = 0
          ∧ bits n.ctl 22 20 = 0)
      | _ => decide (bits b 127 0 = 0) && decide (n.addr % 8 = 0))

/-- The node at a place in the list, and the pending node of an AQI by id (R318). -/
def State.nodeAt (s : State) (i : Nat) : Option Node := s.dev.nodes[i]?
def State.nodeOf (s : State) (aqi id : Nat) : Option Node := s.dev.nodes.find? fun n => n.aqi == aqi && n.id == id

/-- Updates the pending node of an AQI by id. -/
def State.onNode (s : State) (aqi id : Nat) (f : Node → Node) : State :=
  s.onDev fun d => { d with nodes := d.nodes.map fun n => if n.aqi = aqi ∧ n.id = id then f n else n }

/-! ### Submission (R318, R380, R383) -/

/-- Updates an AQI. -/
def State.onAqi (s : State) (a : Nat) (f : Aqi → Aqi) : State :=
  s.onDev fun d => { d with aqis := put Aqi.unbound d.aqis a (f (d.aqiAt a)) }

/-- Whether the host reaches the device: the CXL port is not lost, and the device is not in recovery (R391). -/
def State.hostUp (s : State) : Bool := !s.dev.cxlLost && !s.dev.recovery

/-- Whether an AQI takes a write at all: it is bound, and the loom accepts packets (R380, R391). -/
def State.aqiOpen (s : State) (a : Nat) : Bool := (s.dev.aqiAt a).bound && decide (s.dev.stage ≥ 5) && s.hostUp

/-- The code of a PASID check: the prefix is the AQI's, and its entry has V = 1 and REVOKED = 0 (R78, R380). -/
def State.pasidOk (s : State) (a : Nat) (pasid : Option Nat) : Bool :=
  let q := s.dev.aqiAt a
  let e := (look 0 s.dev.pasids q.pasid).toNat
  decide (pasid = some q.pasid) && bitOf e 0 && !bitOf e 1

/-- REQUEST_SUBMIT: a write to SUBMIT is discarded, refused with an event, or accepted as a node (R316, R318, R380,
R383). -/
def execRequestSubmit (aqi : Nat) (pasid : Option Nat) (bytes : Nat) (packet : BitVec 512) (s : State) : Out :=
  let q := s.dev.aqiAt aqi
  let id := bits packet.toNat 127 96
  let deps := bits packet.toNat 95 80
  let n : Node := { aqi := aqi, id := id, seq := q.seq, packet := packet, deps := deps
                    ready := if deps = 0 then some s.cycle else none, begun := false, finished := false
                    status := 0, detail := 0, nentry := 0, ltag := 0, work := [] }
  if !s.aqiOpen aqi then .next s
  else if q.waiting.length ≥ 256 then .next (s.onAqi aqi fun q => { q with ovf := (q.ovf + 1) % 2 ^ 32 })
  else if bytes ≠ 64 then .next (s.event aqi 0 1 2 id)
  else if !s.pasidOk aqi pasid then .next (s.event aqi 0 1 1 id)
  else if !n.wellFormed then .next (s.event aqi 0 1 2 id)
  else if (s.nodeOf aqi id).isSome then .next (s.event aqi 0 1 3 id)
  else .next ((s.onDev fun d => { d with nodes := d.nodes ++ [n] }).onAqi aqi fun q => { q with seq := q.seq + 1 })

/-! ### Order within an AQI (R320, R321) -/

/-- Whether a node has started: a launch when its first team has been created (R320). -/
def State.hasStarted (s : State) (n : Node) : Bool :=
  n.begun && (n.kind != 0 || n.finished || match s.launchAt n.ltag with
    | some l => l.started != [] || l.nrerun != 0
    | none => true)

/-- Whether a node may start as far as its AQI's other nodes go: it is ready; no earlier ready node of its priority has
still to start; a barrier node waits for every earlier node. -/
def State.mayStart (s : State) (n : Node) : Bool :=
  n.ready.isSome && !n.begun
  && s.dev.nodes.all fun m =>
    !(m.aqi == n.aqi && decide (m.seq < n.seq)) || (!n.bf && !(m.ready.isSome && !s.hasStarted m && m.prio == n.prio))

/-- A node ends with a status. -/
def State.endNode (s : State) (n : Node) (status detail : Nat) : State :=
  s.onNode n.aqi n.id fun n => { n with begun := true, finished := true, status := status, detail := detail, work := [] }

/-! ### Regions lent to a node (R96, R319) -/

/-- The agent of a task-graph node (R96): such a node has no launch, so its launch field is zero; its index is its place in the
order of submission (DESIGN CHOICE, log 79). -/
def State.nodeAgent (s : State) (n : Node) : Agent := ⟨s.dev.weftId, 3, 0, n.seq % 2 ^ 20⟩

/-- The context and PASID of a node. -/
def State.nodeCtx (s : State) (n : Node) : Nat := (s.dev.aqiAt n.aqi).ctx
def State.nodePasid (s : State) (n : Node) : Nat := (s.dev.aqiAt n.aqi).pasid

/-- The regions that hold the addresses a node names; none if one is not the AQI's host agent's to lend. -/
def State.nodeRegions (s : State) (n : Node) (as : List Nat) : Option (List Region) :=
  let rs := as.map fun a => s.regionOf (s.nodeCtx n) a
  if rs.all fun r => match r with
    | some r => r.owner == s.hostAgent n.aqi && r.shares == 0
    | none => false
  then some ((rs.filterMap id).eraseDups) else none

/-- Lends regions to a node in WRITE. -/
def State.lendToNode (s : State) (n : Node) (rs : List Region) : State :=
  rs.foldl (fun s r => s.onRegion r.ctx r.base r.sz fun r => { r with owner := s.nodeAgent n, lender := s.hostAgent n.aqi }) s

/-- Every region of a node goes back to the host agent. -/
def State.returnFromNode (s : State) (n : Node) : State :=
  let back (r : Region) : Region :=
    if r.owner = s.nodeAgent n ∧ r.lender = s.hostAgent n.aqi then { r with owner := s.hostAgent n.aqi, lender := s.hostAgent n.aqi } else r
  s.onDev fun d => { d with regions := d.regions.map back }

/-- Whether the regions lent to a node cover a run. -/
def covers (rs : List Region) (a n : Nat) : Bool :=
  (pageOffs a n).all fun o => rs.any fun r => decide (r.base ≤ a + o) && decide (a + o < r.base + 2 ^ r.sz)

/-! ### The far accesses of a node (R72, R87, R90, R319) -/

/-- A command of a node: its accesses under pages pinned at its start. -/
def State.nodeCmd (s : State) (n : Node) (op : CmdOp) (pins : List Pin) (got : List (Nat × Byte)) : Cmd where
  idx := 0
  word := 0
  word1 := 0
  args := []
  op := op
  push := 15
  pops := []
  issue := n.seq
  accepted := s.cycle
  stage := .begun
  pins := pins
  todo := op.work
  got := got
  bar := none
  fail := false
  watch := none
  late := none
  began := s.cycle

/-- A row of bytes from one far address to another, or between a far address and a crystallizer's own store, whose bytes are
numbered from 0 (`dir` as in R119). -/
def row (dir src dst n : Nat) : CmdOp := .copy ⟨dir, n, [], [], [], src, dst, false, false, 0, []⟩

/-- The place under which the accesses of an AQI's nodes wait for another device's answers. -/
def aqiPlace (aqi : Nat) : Nat := 768 + aqi

/-- A node as one that makes accesses. -/
def State.nodeDoer (s : State) (n : Node) : Doer := ⟨s.nodeAgent n, s.nodeCtx n, aqiPlace n.aqi, 9⟩

/-- The accesses that a node's command may make now. Bytes fetched into a crystallizer are written nowhere. -/
def State.nodeActs (s : State) (n : Node) (x : Cmd) : List Act :=
  let inner := match x.op with
    | .copy g => g.dir == 0
    | _ => false
  x.actions.filter fun a => (a.fetch || !inner) && !s.waitsFor (s.nodeDoer n) x a

/-- Whether a node's command has nothing left to do. -/
def Cmd.spent (x : Cmd) : Bool :=
  match x.op with
  | .copy g => if g.dir = 0 then x.missing == [] else x.todo == []
  | _ => x.todo == []

/-- The list entries of an unpack by a node (R146): the queue index of an entry has no meaning for a node, so it is any. -/
def State.nodeEntries (s : State) (n : Node) (es : List (Nat × Nat)) : List Byte :=
  let entry (i : Nat) (e : Nat × Nat) : List Byte :=
    toBytes 16 (2 ^ 64 * n.src + 2 ^ 48 * (s.free (slotOf 14 3 i) 16).toNat + 2 ^ 32 * e.1 + e.2)
  (((List.range es.length).zip es).take n.lcap).flatMap fun e => entry e.1 e.2

/-- A transform node has all its source bytes: the stores that follow, its status and detail, the entries appended (R141 to
R146, R151). Of an overrun each slot granule keeps its contents or is unspecified (R144). Where DST and LIST of an unpack overlap the
list entries are written last (DESIGN CHOICE, log 95). -/
def State.transform (s : State) (n : Node) (x : Cmd) (bytes : List Byte) : List Cmd × Nat × Nat × Nat :=
  let c := n.ctl
  let k := czE c
  let size := czS c
  let store (a : Nat) (bs : List Byte) : Cmd := s.nodeCmd n (row 1 0 a bs.length) x.pins (indexed 0 bs)
  if n.unpacks then
    let r := unpackSlot (bits c 63 62) k (czN c) bytes
    let es := s.nodeEntries n r.2
    (store n.dst r.1 :: if es = [] then [] else [store n.list es], 0, 0, r.2.length)
  else
    let img := imageOf (bits c 63 62) k (pieces k (czN c) bytes)
    if img.length > czC c then
      let lost := store n.dst (s.freeBytes n.dst size)
      let hit := lost.todo.filter fun key => !s.flip (slotOf 12 1 key)
      ((if hit = [] then [] else [{ lost with todo := hit }]), 4, 26, 0)
    else ([store n.dst (buildSlot size img)], 0, 0, 0)

/-- A node whose command has changed: the next stands in its place when it is done, and a node with none left has finished;
an access that another device refused ends it with status 4 (R101, R107, R319). -/
def State.nodeSettle (s : State) (n : Node) (x : Cmd) : State :=
  let awaited := s.dev.weftWait.any fun r => r.place == aqiPlace n.aqi && r.queue == 9 && r.issue == x.issue
  let set (f : Node → Node) : State := s.onNode n.aqi n.id f
  if n.kind = 4 ∨ !x.spent ∨ awaited then set fun m => { m with work := x :: n.work.drop 1 }
  else match x.late with
    | some k => set fun m => { m with work := [], finished := true, status := 4, detail := k }
    | none =>
      match x.op with
      | .copy g =>
        if g.dir = 0 then
          let t := s.transform n x ((List.range g.c0).map fun i => (x.have? i).getD 0)
          set fun m => { m with work := t.1, finished := decide (t.1 = []), status := t.2.1, detail := t.2.2.1, nentry := t.2.2.2 }
        else set fun m => { m with work := n.work.drop 1, finished := decide (n.work.drop 1 = []) }
      | _ => set fun m => { m with work := [], finished := true }

/-- A node's access on this device is performed, as one action on one granule (R72, R259); where a granule is both read and
written it is unspecified (R124). -/
def State.nodeHome (s : State) (n : Node) (x : Cmd) (a : Act) (ecc : Bool) : State × Cmd :=
  let ctx := s.nodeCtx n
  if x.op.size = 0 then
    let u := x.op.unitAt a.n
    let d := pinnedDpa x.pins u.1
    match x.op with
    | .fst _ _ v => (s.homeWrite ctx u.1 (cellsFrom d (toBytes u.2 v.toNat)) ecc, { x with todo := x.todo.erase a.n })
    | _ =>
      let r := s.homeRead ctx u.1 d u.2 ecc
      (r.1, { x with todo := x.todo.erase a.n, got := indexed 0 r.2 })
  else if a.fetch then
    let is := x.moved a
    let r := s.homeRead ctx (32 * a.n) (pinnedDpa x.pins (32 * a.n)) 32 ecc
    (r.1, { x with got := x.got ++ fetched x.op is (32 * a.n) r.2 })
  else
    let own := x.cells a.n
    let cells := if x.selfFed.contains a.n then
        (x.op.granule a.n).map fun l => (l, s.free (slotOf 14 0 l.addr) 8)
      else own
    let far := cells.filterMap fun | (.far v, b) => some (pinnedDpa x.pins v, b) | _ => none
    (s.homeWrite ctx (32 * a.n) far ecc, { x with todo := x.todo.erase a.n })

/-- A node's access is performed, or sent to another device (R90). -/
def State.nodeAct (s : State) (n : Node) (x : Cmd) (a : Act) (ecc : Bool) : State :=
  match x.remoteOf a with
  | some dev => s.sendRequest (s.nodeDoer n) x a dev
  | none => let r := s.nodeHome n x a ecc; r.1.nodeSettle n r.2

/-- The j-th of all the accesses that nodes may make now. -/
def State.nodeAccess (s : State) (j : Nat) (ecc : Bool) : State :=
  let acts := s.dev.nodes.flatMap fun n => match n.work with
    | [] => []
    | x :: _ => (s.nodeActs n x).map fun a => (n, x, a)
  match acts[j]? with
  | some (n, x, a) => s.nodeAct n x a ecc
  | none => s

/-- FAR_ACCESS_AT_HOME: the j-th access that a queue of the focus core allows, or, for 9, that a node may make (R72, R116, R259,
R319). -/
def execFarAccessAtHome (q j : Nat) (ecc : Bool) (s : State) : Out :=
  if q = 9 then .next (s.nodeAccess j ecc) else s.coreAccess q j ecc

/-- A node that has passed its checks starts with a command, whose first access is made at once (R320). -/
def State.startNode (s : State) (n : Node) (x : Cmd) : State :=
  let s := x.pins.foldl (fun s p => s.cacheXlate (s.nodePasid n) p) s
  let n := { n with begun := true, work := [x] }
  let s := s.onNode n.aqi n.id fun _ => n
  let acts := s.nodeActs n x
  match acts[s.pick (slotOf 14 4 2) (acts.length - 1)]? with
  | some a => s.nodeAct n x a (s.flip (slotOf 14 4 3))
  | none => s.nodeSettle n x

/-! ### Transfer nodes (R120, R124, R125, R319) -/

/-- TRANSFER_NODE_START: a ready transfer node takes its regions and starts to copy, or fails (R125, R319). -/
def execTransferNodeStart (node : Nat) (s : State) : Out :=
  match s.nodeAt node with
  | none => .next s
  | some n =>
    if n.kind ≠ 1 ∨ !s.mayStart n then .next s
    else match s.nodeRegions n [n.src, n.dst] with
      | none => .next (s.endNode n 4 20)
      | some rs =>
        if !rs.all s.banksOn then .next s
        else
          let op := row 2 n.src n.dst n.count
          let s := s.lendToNode n rs
          if n.count ≠ 0 ∧ (!covers rs n.src n.count ∨ !covers rs n.dst n.count) then .next (s.endNode n 4 20)
          else match s.pinAll (s.nodePasid n) op.pageVisits [] with
            | .error k => .next (s.endNode n 4 k)
            | .ok pins => .next (s.startNode n (s.nodeCmd n op pins []))

/-! ### Transform nodes (R138, R151) -/

/-- The pans on which a node may run: on the partition's dies, with no resident team, their crystallizers free. -/
def State.idlePans (s : State) (n : Node) : List Nat :=
  (List.range 192).filter fun p =>
    bitOf (s.dev.aqiAt n.aqi).dies (p / 8) && s.dieServes (p / 8)
    && (s.dev.panAt p).node.isNone && s.cores.all fun c => !(c.pan == p && c.team.isSome)

/-- The far runs of a transform node, each with whether it is written: its source, its destination, its list (R151). -/
def Node.runs (n : Node) : List (Nat × Nat × Bool) :=
  let slot := czS n.ctl
  let elems := czN n.ctl * czE n.ctl
  [(n.src, if n.unpacks then slot else elems, false), (n.dst, if n.unpacks then elems else slot, true)]
    ++ if n.lcap ≠ 0 then [(n.list, 16 * n.lcap, true)] else []

/-- A pan for a transform node: one whose crystallizer is ON, else one that wakes or may be woken. -/
def State.panFor (s : State) (n : Node) : Option Nat :=
  let pans := s.idlePans n
  let on := pans.filter fun p => (s.dev.panAt p).czOn s.cycle
  let waking := pans.filter fun p => (s.dev.panAt p).cz ≠ .off
  let of_ := if on ≠ [] then on else if waking ≠ [] then waking else pans
  of_[s.pick (slotOf 14 4 1) (of_.length - 1)]?

/-- The DETAIL for which a transform node fails before its accesses, or its pins: its operands, its rights, its translations.
DETAIL of a bad operand is not given, so it is any; a run outside its regions is kind 20 (DESIGN CHOICE, log 80). -/
def State.transformPins (s : State) (n : Node) (rs : List Region) : Except Nat (List Pin) :=
  let slot := if n.unpacks then n.src else n.dst
  let els := if n.unpacks then n.dst else n.src
  if czN n.ctl = 0 ∨ czS n.ctl = 0 ∨ slot % 32 ≠ 0 ∨ els % czE n.ctl ≠ 0 then .error (s.pick (slotOf 14 4 0) 255)
  else if n.runs.any fun r => !covers rs r.1 r.2.1 then .error 20
  else s.pinAll (s.nodePasid n) (n.runs.flatMap fun r => (pageOffs r.1 r.2.1).map fun o => (r.2.2, r.1 + o)) []

/-- TRANSFORM_NODE_START: a ready transform node takes its regions and an idle pan's crystallizer, which wakes first, and
starts or fails (R67, R138, R151, R319). -/
def execTransformNodeStart (node : Nat) (s : State) : Out :=
  match s.nodeAt node with
  | none => .next s
  | some n =>
    if n.kind ≠ 2 ∨ !s.mayStart n then .next s
    else match s.panFor n with
      | none => .next s
      | some pan =>
        match s.nodeRegions n (n.runs.map (·.1)) with
        | none => .next (s.endNode n 4 20)
        | some rs =>
          if !rs.all s.banksOn then .next s
          else match s.transformPins n rs with
            | .error k => .next ((s.lendToNode n rs).endNode n 4 k)
            | .ok pins =>
              let z := (s.dev.panAt pan).cz
              if z = .off then .next (s.onPan pan fun x => { x.wakeCz s.cycle with idle := s.cycle + 32 })
              else if !(s.dev.panAt pan).czOn s.cycle then .next s
              else
                let s := s.lendToNode n rs
                let s := s.onPan pan fun x => { x with cz := .on, node := some (n.aqi * 2 ^ 32 + n.id) }
                let len := (n.runs.map (·.2.1)).headD 0
                .next (s.startNode n (s.nodeCmd n (row 0 n.src 0 len) pins []))

/-! ### Signal and wait nodes (R319) -/

/-- The command of a signal, or of a wait whose word is in another device's memory, under its pinned page. -/
def State.wordCmd (s : State) (n : Node) : Except Nat Cmd :=
  let op := if n.kind = 3 then CmdOp.fst n.addr 3 (BitVec.ofNat 64 n.value) else .fld 0 n.addr 3
  match s.pinAll (s.nodePasid n) [(n.kind == 3, n.addr)] [] with
  | .error k => .error k
  | .ok pins => .ok (s.nodeCmd n op pins [])

/-- SIGNAL_NODE: a ready signal node writes VALUE to ADDR as one action, and completes (R72, R319). -/
def execSignalNode (node : Nat) (s : State) : Out :=
  match s.nodeAt node with
  | none => .next s
  | some n =>
    if n.kind ≠ 3 ∨ !s.mayStart n then .next s
    else if !s.hostWhole (s.nodeCtx n) n.aqi n.addr 8 then .next (s.endNode n 4 20)
    else match s.wordCmd n with
      | .error k => .next (s.endNode n 4 k)
      | .ok x => .next (s.startNode n x)

/-- WAIT_NODE_CHECK: the loom checks a ready wait node's word (R319); one in another device's memory is read there first. -/
def execWaitNodeCheck (node : Nat) (s : State) : Out :=
  match s.nodeAt node with
  | none => .next s
  | some n =>
    if n.kind ≠ 4 ∨ n.finished ∨ !(n.begun || s.mayStart n) then .next s
    else
      let held := match s.regionOf (s.nodeCtx n) n.addr with
        | some r => r.owner == s.hostAgent n.aqi
        | none => false
      let judge (s : State) (v : Nat) : State :=
        if v ≥ n.value then s.endNode n 0 0 else s.onNode n.aqi n.id fun n => { n with begun := true, work := [] }
      match n.work with
      | x :: _ =>
        match x.late with
        | some k => .next (s.endNode n 4 k)
        | none => if x.todo ≠ [] then .next s else .next (judge s (leNat (x.got.map (·.2))))
      | [] =>
        if !held then .next (s.endNode n 4 20)
        else match s.wordCmd n with
          | .error k => .next (s.endNode n 4 k)
          | .ok x =>
            match x.remoteOf ⟨false, 0⟩ with
            | some dev => .next ((s.onNode n.aqi n.id fun m => { m with begun := true, work := [x] }).sendRequest (s.nodeDoer n) x ⟨false, 0⟩ dev)
            | none =>
              let r := s.nodeHome n x ⟨false, 0⟩ (s.flip (slotOf 14 4 3))
              .next (judge r.1 (leNat (r.2.got.map (·.2))))

/-! ### Completion (R318, R322, R335, R336, R385) -/

/-- The teams of a launch. -/
def State.teamsOf (s : State) (ltag : Nat) : List Team := s.teams.filter fun t => t.id.ltag == ltag

/-- The loom's pieces of the regions that a launch took. -/
def State.launchPieces (s : State) (l : Launch) : List Region :=
  s.dev.regions.filter fun r => r.ctx == l.ctx && l.regions.any fun e => within r.base r.sz e.1 e.2.1

/-- Whether no token of a piece of a launch's region is out but with agents that are lost, or its home die is lost (R109, R110,
R335). -/
def State.pieceBack (s : State) (l : Launch) (r : Region) : Bool :=
  let me := s.loomAgent l.ltag
  s.dev.lostDies.contains r.home
    || ((r.owner == me || (r.orphan && s.agentLost r.owner && (r.lender == me || s.agentLost r.lender)))
      && (if r.orphan then r.holders.all s.agentLost else r.shares == 0))

/-- Whether a launch has nothing left to do: its cohorts have started, its teams have ended, every token is back or
orphaned (R322, R335). -/
def State.launchDone (s : State) (l : Launch) : Bool :=
  (s.teamsOf l.ltag).all (fun t => decide (t.status = .retired ∨ t.status = .ended ∨ t.status = .lost))
  && (s.launchPieces l).all (s.pieceBack l)

/-- The regions of a launch, joined and returned to their host agents; orphans are reclaimed (R104, R109, R328). -/
def State.returnRegions (s : State) (l : Launch) : State :=
  let one (s : State) (e : Nat × Nat × Nat) : State :=
    let inside (r : Region) : Bool := r.ctx == l.ctx && within r.base r.sz e.1 e.2.1
    match s.dev.regions.find? inside with
    | none => s
    | some r =>
      let h := s.hostAgent e.2.2
      let whole : Region := { r with
        base := e.1, sz := e.2.1, owner := h, lender := r.below.getLastD h, shares := 0, smode := 0, holders := [], below := []
        orphan := s.agentLost h }
      s.onDev fun d => { d with regions := whole :: d.regions.filter fun r => !inside r }
  l.regions.foldl one s

/-- What a launch's record reports: status, detail, the listed teams (R335, R349). -/
def State.launchResult (s : State) (l : Launch) : Nat × Nat × List Nat :=
  let ts := s.teamsOf l.ltag
  let un := (List.range l.teams).filter fun i => ts.any fun t => t.id.index == i && decide (t.status ≠ .retired)
  if ts.any fun t => decide (t.status = .ended) then (2, (l.dump.map (·.2.2)).getD 0, un)
  else if un ≠ [] then (1, 0, un)
  else (0, 0, [])

/-- A completion record and what follows it (R336): energy is whatever the device measured, and so is the mean frequency of a
node that had no resident cycle; it is rounded down (DESIGN CHOICE, log 43). `la` is a launch node's launch. -/
def State.record (s : State) (n : Node) (la : Option Launch) (status detail : Nat) (dangle : Bool) (un : List Nat)
    (mcs : List MCheck) : List Byte :=
  let f (i : Nat) : Nat := (s.free (slotOf 14 5 i) 64).toNat
  let slow (k : Nat) : Nat := (la.map fun l => look 0 l.slow k).getD 0
  let mean := match la with
    | some l => if l.resident = 0 then f 1 % 2 ^ 16 else l.mhzSum / l.resident
    | none => f 1 % 2 ^ 16
  let r := 2 ^ 480 * n.id + 2 ^ 464 * n.ltag + 2 ^ 456 * status + 2 ^ 448 * (detail % 256) + 2 ^ 384 * f 0
    + 2 ^ 368 * (mean % 2 ^ 16) + (if dangle then 2 ^ 352 else 0) + 2 ^ 320 * un.length + 2 ^ 304 * mcs.length
    + 2 ^ 288 * (la.map (·.nrerun)).getD 0 + 2 ^ 256 * n.nentry + 2 ^ 192 * (slow 0 % 2 ^ 64) + 2 ^ 128 * (slow 1 % 2 ^ 64)
    + 2 ^ 64 * (slow 2 % 2 ^ 64) + slow 3 % 2 ^ 64
  toBytes 64 r ++ un.flatMap (toBytes 4)
    ++ mcs.flatMap fun m => toBytes 8 m.base ++ toBytes 8 m.off ++ toBytes 8 m.finder

/-- The ids of a node's successor list (R318); a list that does not translate names none. -/
def State.successors (s : State) (n : Node) : List Nat :=
  if (s.xlateFail (s.nodePasid n) n.slist (4 * n.nsucc) false).isSome then []
  else (List.range n.nsucc).map fun i => leNat (s.peek (s.nodePasid n) (n.slist + 4 * i) 4)

/-- A successor's counter goes down by one (R318). -/
def State.decrement (s : State) (aqi id : Nat) : State :=
  s.onNode aqi id fun m =>
    { m with deps := m.deps - 1, ready := if m.deps ≤ 1 ∧ m.ready.isNone then some s.cycle else m.ready }

/-- A node completes: tokens go back, its record is written or reported, its event waits, its successors' counters go
down; it is pending until its record is written, so its list may name it (R316, R318, R322, R336, R385). -/
def State.completeNode (s : State) (n : Node) (la : Option Launch) (status detail : Nat) (un : List Nat) : State :=
  let s := s.returnFromNode n
  let free (p : Pan) : Pan := if p.node = some (n.aqi * 2 ^ 32 + n.id) then { p with node := none, idle := s.cycle } else p
  let s := s.onDev fun d => { d with pans := d.pans.map fun p => (p.1, free p.2) }
  let ctx := s.nodeCtx n
  let ids := s.successors n
  let dangle := ids.any fun i => (s.nodeOf n.aqi i).isNone
  let mine (m : MCheck) : Bool := n.kind == 0 && m.ctx == ctx
  let rec_ := s.record n la status detail dangle un (s.dev.mchecks.filter mine)
  let ok := s.hostWhole ctx n.aqi n.crec rec_.length && (s.xlateFail (s.nodePasid n) n.crec rec_.length true).isNone
  let s :=
    if n.crec = 0 then s
    else if ok then
      (s.poke (s.nodePasid n) n.crec rec_).onDev fun d => { d with mchecks := d.mchecks.filter fun m => !mine m }
    else s.event n.aqi 0 4 0 n.id
  let s := s.event n.aqi 0 2 0 n.id
  let s := s.onDev fun d => { d with nodes := d.nodes.filter fun m => !(m.aqi == n.aqi && m.id == n.id) }
  ids.foldl (fun s i => s.decrement n.aqi i) s

/-- NODE_COMPLETION: a node that has finished completes; a launch once its teams and tokens are done (R104, R109, R318,
R322, R335, R336). -/
def execNodeCompletion (node : Nat) (s : State) : Out :=
  match s.nodeAt node with
  | none => .next s
  | some n =>
    if n.finished then .next (s.completeNode n none n.status n.detail [])
    else if n.kind = 0 ∧ n.begun then
      match s.launchAt n.ltag with
      | none => .next s
      | some l =>
        if s.launchDone l then
          let r := s.launchResult l
          let s := s.returnRegions l
          let s := { s with teams := s.teams.filter fun t => t.id.ltag != l.ltag }
          let s := s.onDev fun d => { d with
            launches := d.launches.filter (fun k => k.ltag != l.ltag)
            barriers := d.barriers.filter fun b => b.ltag != l.ltag }
          .next (s.completeNode n (some l) r.1 r.2.1 r.2.2)
        else .next s
    else .next s

end Sys2Proof.Machine
end

