-- ==== Sys2Proof/Machine/Launch.lean ====
section
/-! DEFINITION. Launches (R25, R29, R32, R322 to R332, R369): the descriptor and its checks, placement, the start of a
launch and of a cohort. -/

namespace Sys2Proof.Machine

/-! ### The descriptor (R323, R324) -/

/-- A nest level's KIND and COUNT. -/
def levelKind (x : Nat) : Nat := bits x 23 22
def levelCount (x : Nat) : Nat := bits x 19 0

/-- The six levels of a descriptor. -/
def descLevels (d : Nat) : List Nat := (List.range 6).map fun n => bits d (24 * n + 23) (24 * n)

/-- The present levels: level number, KIND and COUNT. -/
def presentLevels (d : Nat) : List (Nat × Nat × Nat) :=
  ((List.range 6).zip (descLevels d)).filterMap fun e =>
    if levelKind e.2 = 0 then none else some (e.1, levelKind e.2, levelCount e.2)

/-- The spatial levels, innermost first. -/
def spatialLevels (d : Nat) : List (Nat × Nat × Nat) := (presentLevels d).filter fun e => e.2.1 != 1

/-- Whether the fields of a descriptor are no reserved ones (R323). -/
def descFieldsOk (d : Nat) : Bool :=
  decide (bits d 182 144 = 0 ∧ bits d 199 198 ≠ 3 ∧ bits d 255 224 ≠ 0 ∧ bits d 223 215 ≤ 256 ∧ bits d 214 206 ≤ 256
    ∧ bits d 447 384 % 16 = 0 ∧ bits d 383 320 % 16 = 0 ∧ bits d 319 256 % 64 = 0)

/-- Whether every SPATIAL-DIE level lies outside every SPATIAL-CORE level. -/
def dieOutside : List (Nat × Nat × Nat) → Bool
  | [] => true
  | e :: es => (e.2.1 != 3 || es.all fun f => f.2.1 == 3) && dieOutside es

/-- The number of teams. -/
def teamCount (sp : List (Nat × Nat × Nat)) : Nat := (sp.map (·.2.2)).foldl (· * ·) 1

/-- Whether a nest keeps to R324. -/
def nestOk (d : Nat) : Bool :=
  let ls := descLevels d
  let sp := spatialLevels d
  ls.all (fun x => bits x 21 20 == 0 && (levelKind x != 0 || levelCount x == 0))
  && (presentLevels d).map (·.1) == List.range (presentLevels d).length
  && decide (sp.length ≤ 3) && dieOutside sp && decide (teamCount sp ≤ 2 ^ 20)

/-! ### Regions and barriers (R308, R327 to R329) -/

/-- A region table entry's fields. -/
def entRegion (e : Nat) : Nat := bits e 127 64
def entMode (e : Nat) : Nat := bits e 63 60
def entDist (e : Nat) : Nat := bits e 59 58
def entLevel (e : Nat) : Nat := bits e 57 55

/-- The parts of a SPLIT along a level, and the number of teams of each: products of the spatial counts from that level
out, and within it. -/
def splitParts (sp : List (Nat × Nat × Nat)) (level : Nat) : Nat := teamCount (sp.filter fun e => decide (level ≤ e.1))
def splitStride (sp : List (Nat × Nat × Nat)) (level : Nat) : Nat := teamCount (sp.filter fun e => decide (e.1 < level))

/-- Whether a region entry keeps to R327 and R328. -/
def State.entryOk (s : State) (ctx : Nat) (sp : List (Nat × Nat × Nat)) (e : Nat) : Bool :=
  let r := entRegion e
  let q := splitParts sp (entLevel e)
  bits e 54 0 == 0 && roOk r && decide (entMode e ≤ 2) && decide (entDist e ≤ 2)
  && (s.regionExact ctx (roBase r) (roSz r)).isSome
  && (if entDist e = 1 then
        entMode e == 0 && sp.any (fun x => x.1 == entLevel e) && 2 ^ q.log2 == q && decide (16 + q.log2 ≤ roSz r)
      else entLevel e == 0)
  && (entDist e != 2 || (entMode e != 0 && decide (teamCount sp ≤ 65535)))

/-- Whether ranges of a list are disjoint. -/
def disjointRegions : List Nat → Bool
  | [] => true
  | e :: es =>
    let a := entRegion e
    es.all (fun f => let b := entRegion f
      decide (roBase a + 2 ^ roSz a ≤ roBase b ∨ roBase b + 2 ^ roSz b ≤ roBase a)) && disjointRegions es

/-- Whether a barrier descriptor keeps to R308 and R329. -/
def barrierOk (teams b : Nat) : Bool :=
  decide (bits b 127 108 = 0 ∧ bits b 87 64 = 0 ∧ bits b 51 40 = 0 ∧ 3 ≤ bits b 63 56 ∧ bits b 95 88 ≤ 191
    ∧ (bits b 95 88 = 0 → bits b 107 96 = 0) ∧ bits b 19 0 + bits b 39 20 < teams)

/-- Joins a range of teams with those that it overlaps (R329). -/
def joinRange (r : Nat × Nat) (rs : List (Nat × Nat)) : List (Nat × Nat) :=
  let hit := rs.filter fun x => decide (x.1 ≤ r.2) && decide (r.1 ≤ x.2)
  (hit.foldl (fun a x => (min a.1 x.1, max a.2 x.2)) r) :: rs.filter fun x => !hit.contains x

/-- The cohorts from a team on, the lowest index first; `fuel` bounds their number. -/
def cohortsFrom (rs : List (Nat × Nat)) (teams : Nat) : Nat → Nat → List (List Nat)
  | 0, _ => []
  | fuel + 1, t =>
    if t ≥ teams then []
    else match rs.find? fun r => r.1 == t with
      | some r => ((List.range (r.2 + 1 - r.1)).map (r.1 + ·)) :: cohortsFrom rs teams fuel (r.2 + 1)
      | none => [t] :: cohortsFrom rs teams fuel (t + 1)

/-- The cohorts of a launch (R329). -/
def cohortsOf (teams : Nat) (bars : List Nat) : List (List Nat) :=
  let rs := (bars.map fun b => (bits b 19 0, bits b 19 0 + bits b 39 20)).foldl (fun rs r => joinRange r rs) []
  cohortsFrom rs teams teams 0

/-! ### The checks at launch start (R326, R330, R369) -/

/-- Reads a number of bytes under a PASID, or fails with DETAIL 7. -/
def State.readFor (s : State) (pasid a n : Nat) : Except Nat (List Byte) :=
  if (s.xlateFail pasid a n false).isSome then .error 7 else .ok (s.peek pasid a n)

/-- Fails with a DETAIL unless a condition holds. -/
def check (c : Bool) (detail : Nat) : Except Nat Unit := if c then .ok () else .error detail

/-- Entries of 16 bytes. -/
def entries16 (bs : List Byte) : List Nat := (List.range (bs.length / 16)).map fun i => leNat ((bs.drop (16 * i)).take 16)

/-- The code object of a launch. One that does not translate has DETAIL 5 or 7, as the manual gives neither. -/
def State.readCode (s : State) (pasid a : Nat) : Except Nat Code := do
  let bad := if s.flip (slotOf 14 6 0) then 5 else 7
  check (s.xlateFail pasid a 64 false).isNone bad
  let n := 64 * bits (leNat (s.peek pasid a 64)) 159 128
  check (s.xlateFail pasid a n false).isNone bad
  match loadObject (s.peek pasid a n) with
  | some c => .ok c
  | none => .error 5

/-- The dies of an AQI's partition that can be used (R331, R391). -/
def State.partition (s : State) (dies : Nat) : List Nat := (List.range 24).filter fun d => bitOf dies d && s.dieServes d

/-- The launch of a node that is not refused, without cohorts if a level has a count
of zero; else the DETAIL of R330 with which it is refused, in the order of that table. -/
def State.launchPlan (s : State) (n : Node) (ltag : Nat) : Except Nat Launch := do
  let q := s.dev.aqiAt n.aqi
  let d := leNat (← s.readFor q.pasid n.addr 64)
  check (descFieldsOk d) 1
  check (nestOk d) 2
  let sp := spatialLevels d
  let blank : Launch := {
    ltag := ltag, aqi := n.aqi, node := n.id, ctx := q.ctx, pasid := q.pasid, prio := n.prio, rerun := n.rerun
    pack := n.pack, gw := bits d 199 198, wdog := bits d 255 224, levels := descLevels d, spatial := sp.map (·.2.2)
    dieLevels := ((List.range sp.length).zip sp).filterMap fun e => if e.2.2.1 = 3 then some e.1 else none
    teams := 0, regions := [], entries := [], barriers := [], arg := [], argLs := 64 * bits d 197 183, sections := [], contract := []
    cohorts := [], started := [], dump := none, nrerun := 0, rev := 0x30, resident := 0, mhzSum := 0, slow := []
    blocks := [] }
  if (presentLevels d).any fun e => e.2.2 == 0 then .ok blank
  else
    let teams := teamCount sp
    let es := entries16 (← s.readFor q.pasid (bits d 447 384) (16 * bits d 223 215))
    check (es.all (s.entryOk q.ctx sp) && disjointRegions es) 3
    let bars := entries16 (← s.readFor q.pasid (bits d 383 320) (16 * bits d 214 206))
    check (bars.all (barrierOk teams)) 4
    let code ← s.readCode q.pasid (bits d 511 448)
    let cohorts := cohortsOf teams bars
    check (cohorts.all fun c => decide (c.length * 2 ^ bits d 199 198 ≤ 32 * (s.partition q.dies).length)) 6
    let len := 64 * bits d 205 200
    let a := bits d 319 256
    check (decide (64 * bits d 197 183 + len ≤ 0x200000)) 7
    let arg ← s.readFor q.pasid a len
    check (s.agentMay q.ctx (s.hostAgent n.aqi) a len .read) 7
    .ok { blank with
      teams := teams
      regions := es.map fun e => (roBase (entRegion e), roSz (entRegion e), n.aqi)
      entries := es
      barriers := bars.map (BitVec.ofNat 128), arg := arg, sections := code.sections, contract := code.contract
      cohorts := cohorts, rev := code.rev, blocks := code.blocks }

/-! ### Placement (R25, R29, R32, R331) -/

/-- Free cores by pan: pan index and core numbers. -/
abbrev Avail := List (Nat × List Nat)

/-- The free cores of a partition: those without a team, or whose team `gone` gives up. -/
def State.avail (s : State) (dies : Nat) (gone : TeamId → Bool) : Avail :=
  (s.partition dies).flatMap fun d => (List.range 8).filterMap fun k =>
    let p := 8 * d + k
    if (s.dev.panAt p).node.isSome then none
    else some (p, (List.range 4).filter fun i => match s.panCore p i with
      | some c => (c.team.map gone).getD true
      | none => false)

/-- A placed team: index, pan, core numbers in gang rank order. -/
abbrev Placed := List (Nat × Nat × List Nat)

/-- The entry of a list with the greatest key, the first of equals. -/
def bestBy {α : Type} (key : α → Nat) : List α → Option α
  | [] => none
  | x :: xs => match bestBy key xs with
    | none => some x
    | some y => if key x < key y then some y else some x

/-- Whether a pan, or a die, is in use already: some core of it is not free. -/
def panUsed (e : Nat × List Nat) : Bool := decide (e.2.length < 4)
def dieUsed (av : Avail) (d : Nat) : Bool := av.any fun e => e.1 / 8 == d && panUsed e

/-- How many cores of a die are free. -/
def dieFree (av : Avail) (d : Nat) : Nat := ((av.filter fun e => e.1 / 8 == d).map fun e => e.2.length).foldl (· + ·) 0

/-- Places one gang in a pan of those that `ok` allows: under PACK the fullest that is in use, and if none is, one on a die in use,
or the one with most pans free; else the emptiest, on the emptiest die (R29, R331). -/
def placeGang (pack : Bool) (w : Nat) (ok : Nat → Bool) (t : Nat) (st : Avail × Placed) : Option (Avail × Placed) :=
  let (av, done) := st
  let key (e : Nat × List Nat) : Nat :=
    if pack then (if panUsed e then 1000 else 0) + (if dieUsed av (e.1 / 8) then 500 else 0) + (4 - e.2.length)
      + 10 * (av.filter fun x => x.1 / 8 == e.1 / 8 && !panUsed x).length
    else 100 * e.2.length + dieFree av (e.1 / 8)
  match bestBy key (av.filter fun e => ok e.1 && decide (w ≤ e.2.length)) with
  | none => none
  | some e =>
    some (av.map (fun x => if x.1 = e.1 then (x.1, x.2.drop w) else x), done ++ [(t, e.1, e.2.take w)])

/-- Places the gangs of teams in the pans that `ok` allows. -/
def placeGangs (pack : Bool) (w : Nat) (ok : Nat → Bool) : List Nat → Avail × Placed → Option (Avail × Placed)
  | [], st => some st
  | t :: ts, st => match placeGang pack w ok t st with
    | none => none
    | some st => placeGangs pack w ok ts st

/-- How many gangs a die has room for. -/
def dieRoom (av : Avail) (w d : Nat) : Nat := ((av.filter fun e => e.1 / 8 == d).map fun e => e.2.length / w).foldl (· + ·) 0

/-- The ways in which a die group may be placed: on each die that has room for it if its gangs need at most 32 cores, else
anywhere (R331). -/
def placeGroup (pack : Bool) (w total : Nat) (ts : List Nat) (st : Avail × Placed) : List (Avail × Placed) :=
  if total * w > 32 then (placeGangs pack w (fun _ => true) ts st).toList
  else ((List.range 24).filter fun d => decide (ts.length ≤ dieRoom st.1 w d)).filterMap fun d =>
    placeGangs pack w (fun p => p / 8 == d) ts st

/-- Inserts a group before the first one that is no longer than it. -/
def insertGroup (g : List Nat) : List (List Nat) → List (List Nat)
  | [] => [g]
  | x :: xs => if x.length ≤ g.length then g :: x :: xs else x :: insertGroup g xs

/-- The die groups of a cohort's teams, those for one die first, the longest first. -/
def Launch.groups (l : Launch) (cohort : List Nat) : List (List Nat) :=
  let gs := (cohort.map l.dieGroup).eraseDups
  let small (g : List Nat) : Bool := decide (g.length * 2 ^ l.gw ≤ 32)
  ((gs.filter small).foldr insertGroup []) ++ gs.filter fun g => !small g

/-- The ways in which die groups may be placed, one after another. -/
def placeGroups (pack : Bool) (w : Nat) (who : Nat → Bool) : List (List Nat) → Avail × Placed → List Placed
  | [], st => [st.2]
  | g :: gs, st => (placeGroup pack w g.length (g.filter who) st).flatMap (placeGroups pack w who gs)

/-- What a placement is worth: under PACK the fewer pans that were not in use, then the fewer such dies; else the more (R331). -/
def placedKey (pack : Bool) (av : Avail) (p : Placed) : Nat :=
  let pans := ((p.map (·.2.1)).eraseDups.filter fun k => av.any fun e => e.1 == k && !panUsed e).length
  let dies := ((p.map fun e => e.2.1 / 8).eraseDups.filter fun d => !dieUsed av d).length
  if pack then 100 * (192 - pans) + (24 - dies) else 100 * pans + dies

/-- Where a cohort's teams that `who` names would go, if they fit. -/
def Launch.place (l : Launch) (cohort : List Nat) (who : Nat → Bool) (av : Avail) : Option Placed :=
  bestBy (placedKey l.pack av) (placeGroups l.pack (2 ^ l.gw) who (l.groups cohort) (av, []))

/-! ### What waits for cores (R320, R332) -/

/-- A cohort that waits: its launch, its teams that are to start, the cycle in which its node became ready, the place of
its node in its AQI's order. -/
structure Want where
  launch : Launch
  cohort : List Nat
  ready : Nat
  seq : Nat
deriving DecidableEq, Repr

/-- The next cohort of a launch that has not started, with its number. -/
def Launch.nextCohort (l : Launch) : Option (Nat × List Nat) :=
  ((List.range l.cohorts.length).zip l.cohorts).find? fun e => !l.started.any fun x => x.1 == e.1

/-- The regions of a plan that are free: none overlaps one of a launch that has not completed, and a host agent holds
each whole. -/
def State.regionsFree (s : State) (l : Launch) : Bool :=
  l.regions.all fun e =>
    (s.dev.launches.all fun k => k.ctx != l.ctx || k.regions.all fun f =>
      decide (f.1 + 2 ^ f.2.1 ≤ e.1 ∨ e.1 + 2 ^ e.2.1 ≤ f.1))
    && match s.regionExact l.ctx e.1 e.2.1 with
      | some r => r.owner.kind == 2 && r.owner.dev == s.dev.weftId && r.shares == 0 && !r.orphan && !s.beingLent r
      | none => false

/-- Every cohort that waits for cores: the next of each launch that has begun, and the first of each ready launch whose regions are
free: one whose region another launch holds cannot start, and stands before none (R320). -/
def State.wants (s : State) : List Want :=
  s.dev.nodes.filterMap fun n =>
    if n.kind ≠ 0 ∨ n.finished then none
    else if n.begun then
      (s.launchAt n.ltag).bind fun l => l.nextCohort.map fun c => ⟨l, c.2, n.ready.getD 0, n.seq⟩
    else if s.mayStart n then
      match s.launchPlan n 0x10000 with
      | .ok l => if s.regionsFree l then l.nextCohort.map fun c => ⟨l, c.2, n.ready.getD 0, n.seq⟩ else none
      | .error _ => none
    else none

/-- The dies of a launch's partition. -/
def State.diesOf (s : State) (l : Launch) : Nat := (s.dev.aqiAt l.aqi).dies

/-- Whether two waiting cohorts are of one priority and their partitions share a die. -/
def State.compete (s : State) (a b : Want) : Bool :=
  a.launch.prio == b.launch.prio && (s.diesOf a.launch &&& s.diesOf b.launch) != 0

/-- Whether a waiting cohort is its AQI's offer at its priority: the earliest submitted (R332). -/
def State.offered (s : State) (w : Want) : Bool :=
  s.wants.all fun v => !(v.launch.aqi == w.launch.aqi && v.launch.prio == w.launch.prio && decide (v.seq < w.seq))

/-- Whether one AQI's offer is taken before another's: by the cycle of readiness, then the AQI number. -/
def Want.sooner (a b : Want) : Bool :=
  decide (a.ready < b.ready) || (a.ready == b.ready && decide (a.launch.aqi < b.launch.aqi))

/-- Whether a waiting cohort is its AQI's offer, and no other AQI's offer is taken before it (R332). -/
def State.firstInLine (s : State) (w : Want) : Bool :=
  s.offered w && s.wants.all fun v => !(s.compete v w && v.launch.aqi != w.launch.aqi && s.offered v && v.sooner w)

/-- The pre-empted cohorts of a launch: numbers. -/
def State.preemptedCohorts (s : State) (l : Launch) : List Nat :=
  ((s.teamsOf l.ltag).filterMap fun t => if t.status = .preempted then some t.cohort else none).eraseDups

/-- Whether a pre-empted cohort of at least a priority waits on dies. -/
def State.preemptedAhead (s : State) (dies prio : Nat) : Bool :=
  s.dev.launches.any fun l => decide (prio ≤ l.prio) && (s.diesOf l &&& dies) != 0 && s.preemptedCohorts l != []

/-- Whether a team of a launch has still to start. -/
def State.toStart (s : State) (ltag index : Nat) : Bool :=
  match s.teamAt ⟨ltag, index⟩ with
  | some t => decide (t.status = .waiting)
  | none => true

/-- Where the teams of a waiting cohort that have still to start would go on the free cores. -/
def State.fit (s : State) (w : Want) (gone : TeamId → Bool) : Option Placed :=
  w.launch.place w.cohort (s.toStart w.launch.ltag) (s.avail (s.diesOf w.launch) gone)

/-! ### Launch start (R322, R326, R328, R330) -/

/-- A launch tag that no pending launch has. -/
def State.newTag (s : State) : Nat :=
  ((List.range 0x10000).map fun i => (s.dev.nextTag + i) % 0x10000).find? (fun t => (s.launchAt t).isNone) |>.getD 0

/-- A team before it starts (R98, R325). -/
def Team.fresh (l : Launch) (index cohort : Nat) : Team where
  id := ⟨l.ltag, index⟩
  ctx := l.ctx
  pasid := l.pasid
  gw := l.gw
  cohort := cohort
  status := .waiting
  wdog := l.wdog
  halted := false
  holdings := []
  stats := []
  snap := []
  mark := 0
  voids := []
  fatal := none
  image := []
  since := 0
  wanted := false
  heldWas := none

/-- Divides a region into halves `k` times over. -/
def splitTimes (ctx base sz : Nat) : Nat → List Region → List Region
  | 0, rs => rs
  | k + 1, rs =>
    let half (b : Nat) (rs : List Region) : List Region := splitTimes ctx b (sz - 1) k rs
    (halfBases base sz).foldl (fun rs b => half b rs) (splitHome ctx base sz rs)

/-- Lends one entry of the region table to the launch's teams that `who` names (R328). -/
def State.lendEntry (s : State) (l : Launch) (sp : List (Nat × Nat × Nat)) (who : Nat → Bool) (e : Nat) : State :=
  let base := roBase (entRegion e)
  let sz := roSz (entRegion e)
  let me := s.loomAgent l.ltag
  let team (i : Nat) : Agent := s.teamAgent ⟨l.ltag, i⟩
  let give (s : State) (b z i mode : Nat) : State := if who i then s.install l.ctx b z (team i) mode me else s
  match entDist e with
  | 0 => give s base sz 0 (entMode e)
  | 1 =>
    let q := splitParts sp (entLevel e)
    let s := s.onDev fun d => { d with regions := splitTimes l.ctx base sz q.log2 d.regions }
    (List.range q).foldl (fun s i =>
      give s (base + i * 2 ^ (sz - q.log2)) (sz - q.log2) (i * splitStride sp (entLevel e)) 0) s
  | _ => (List.range l.teams).foldl (fun s i => give s base sz i (entMode e)) s

/-- The loom takes the regions of a launch from the host agents that hold them (R97, R328). -/
def State.takeRegions (s : State) (l : Launch) : State × List (Nat × Nat × Nat) :=
  let from_ (e : Nat × Nat × Nat) : Nat × Nat × Nat :=
    (e.1, e.2.1, ((s.regionExact l.ctx e.1 e.2.1).map (·.owner.index)).getD e.2.2)
  let es := l.regions.map from_
  (es.foldl (fun s e => s.onRegion l.ctx e.1 e.2.1 fun r =>
    { r.fromHost (s.hostAgent e.2.2) with owner := s.loomAgent l.ltag, lender := s.hostAgent e.2.2 }) s, es)

/-- The spatial levels of a launch, as in its descriptor. -/
def Launch.spatialLevels (l : Launch) : List (Nat × Nat × Nat) :=
  ((List.range 6).zip l.levels).filterMap fun e =>
    if levelKind e.2 ≤ 1 then none else some (e.1, levelKind e.2, levelCount e.2)

/-- A launch that passed its checks starts: its teams, barriers and regions. -/
def State.beginLaunch (s : State) (l : Launch) : State :=
  let (s, regions) := s.takeRegions l
  let l := { l with regions := regions }
  let teams := ((List.range l.cohorts.length).zip l.cohorts).flatMap fun c => c.2.map fun i => Team.fresh l i c.1
  let bars : List Barrier := ((List.range l.barriers.length).zip l.barriers).map fun b =>
    ⟨l.ltag, b.1, b.2, [], [], 0, 0, [], [], 0, 0⟩
  let s := { s with teams := s.teams ++ teams }
  let s := s.onDev fun d => { d with launches := d.launches ++ [l], barriers := d.barriers ++ bars }
  l.entries.foldl (fun s e => s.lendEntry l l.spatialLevels (fun _ => true) e) s

/-- Whether the vault sub-banks of a launch's regions are ON: the placer wakes them before the first lend completes (R67). -/
def State.launchBanksOn (s : State) (l : Launch) : Bool :=
  l.regions.all fun e => ((s.regionExact l.ctx e.1 e.2.1).map s.banksOn).getD true

/-- LAUNCH_START: a ready launch is refused, or is complete at once with no team, whichever nodes stand before it, or, when its
first cohort fits, its regions are free and their sub-banks ON, takes and lends them (R67, R320, R322, R326, R328 to R332,
R369, R375). -/
def execLaunchStart (node : Nat) (s : State) : Out :=
  match s.nodeAt node with
  | none => .next s
  | some n =>
    if n.kind ≠ 0 ∨ n.begun ∨ n.ready = none ∨ (n.bf ∧ !s.mayStart n) then .next s
    else
      let tag := s.newTag
      let tagged (s : State) : State :=
        (s.onDev fun d => { d with nextTag := (tag + 1) % 0x10000 }).onNode n.aqi n.id fun n => { n with ltag := tag }
      match s.launchPlan n tag with
      | .error k => if s.mayStart n then .next ((tagged s).endNode n 3 k) else .next s
      | .ok l =>
        match l.nextCohort with
        | none => .next ((tagged s).endNode n 0 0)
        | some c =>
          let w : Want := ⟨l, c.2, n.ready.getD 0, n.seq⟩
          if s.mayStart n ∧ s.firstInLine w ∧ !s.preemptedAhead (s.diesOf l) l.prio ∧ (s.fit w fun _ => false).isSome
              ∧ s.regionsFree l ∧ s.launchBanksOn l then
            .next ((tagged (s.beginLaunch l)).onNode n.aqi n.id fun n => { n with begun := true })
          else .next s

/-! ### Cohort start (R55, R325, R326, R331, R332, R369) -/

/-- The scratchpad of a launch: its sections at their offsets, every other byte zero. -/
def Launch.codeMap (l : Launch) : SMap Word32 :=
  let place (base : Nat) (ws : List Word32) : SMap Word32 :=
    (((List.range ws.length).zip ws).filter fun w => w.2 != 0).map fun w => (base / 4 + w.1, w.2)
  (sectionBase.zip l.sections).flatMap fun e => place e.1 e.2

/-- The argument copy that stands in a core's load queue at team start (R326). -/
def argCmd (l : Launch) (cycle : Nat) : Cmd where
  idx := 0
  word := 0
  word1 := 0
  args := []
  op := .arg l.argLs l.arg
  push := 15
  pops := []
  issue := cycle
  accepted := cycle
  stage := .waiting
  pins := []
  todo := []
  got := []
  bar := none
  fail := false
  watch := none
  late := none
  began := 0

/-- The window of the argument copy. -/
def argWindow (l : Launch) (cycle : Nat) : Window where
  queue := 4
  idx := 0
  issue := cycle
  push := 15
  pushed := false
  taken := false
  from_ := cycle
  writes := [(l.argLs, l.argLs + l.arg.length)]
  reads := []
  banks := []
  tile := none
  vregs := []
  sreg := 0
  closed := false
  spoilt := []
  dirty := []
  olds := []
  vague := []
  fed := none

/-- A core as it starts a team, a Govel object's at block 0 (R325, R372): team index, spatial indices, argument address, gang rank and width in s1 to s7. -/
def Launch.startCore (l : Launch) (cycle actions place index rank : Nat) : Core :=
  let ix := spatialIdx l.spatial index
  let c := Core.reset place
  let regs : List Nat := [index, ix.getD 0 0, ix.getD 1 0, ix.getD 2 0, l.argLs, rank, 2 ^ l.gw]
  let load (m : SMap Word) (e : Nat × Nat) : SMap Word := put 0 m (e.1 + 1) (BitVec.ofNat 64 e.2)
  let sregs := ((List.range 7).zip regs).foldl load []
  let c := { c with
    team := some ⟨l.ltag, index⟩
    rank := rank
    s := sregs
    code := l.codeMap
    lens := l.sections.map List.length
    restart := ⟨.entry, 0xF, [], cycle⟩
    acq := actions
    govel := if l.blocks = [] then none else some ⟨0, false, 0, false, []⟩ }
  let c := (c.setCsr 0 (BitVec.ofNat 64 l.ctx)).setCsr 1 (BitVec.ofNat 64 l.pasid)
  let c := ((List.range 16).zip l.contract).foldl (fun c e => c.setCsr (0x10 + e.1) (BitVec.ofNat 64 e.2)) c
  if l.arg = [] then c
  else { c with ldq := ⟨[argCmd l cycle], 1, false, none⟩, opens := [argWindow l cycle] }

/-- The place of a core of a placed team: its pan and number. -/
def placedCore (p : Placed) (c : Core) : Option (Nat × Nat) :=
  (p.find? fun e => e.2.1 == c.pan && e.2.2.contains (c.place % 4)).map fun e => (e.1, e.2.2.idxOf (c.place % 4))

/-- Cores start the placed teams of a launch. -/
def State.startTeams (s : State) (l : Launch) (p : Placed) : State :=
  let s := s.onCores fun c => match placedCore p c with
    | some (i, rank) => l.startCore s.cycle s.dev.actions c.place i rank
    | none => c
  p.foldl (fun s e => s.onTeam ⟨l.ltag, e.1⟩ fun t => { t with status := .resident, wdog := l.wdog, mark := s.cycle }) s

/-- Counts a cycle of every core that a launch's teams occupy: with the frequency of its island, and under the loom's reason if
that is below 1.9 GHz (R336). -/
def State.tally (s : State) : State :=
  let one (l : Launch) (c : Core) : Launch :=
    let mhz := look 1900 s.dev.mhz c.die
    let k := look 0 s.dev.why c.die
    if (c.team.map (·.ltag)) ≠ some l.ltag then l
    else { l with
      resident := l.resident + 1
      mhzSum := l.mhzSum + mhz
      slow := if mhz < 1900 then put 0 l.slow k (look 0 l.slow k + 1) else l.slow }
  if s.dev.launches = [] then s
  else s.onDev fun d => { d with launches := d.launches.map fun l => s.cores.foldl one l }

/-- COHORT_START: the next cohort of a launch, being first in line and fitting, is placed and its teams begin; of a
cohort that runs again only the teams that still wait (R325, R326, R331, R332, R335). One that an imported image stands in is
restored as a whole (R32). -/
def execCohortStart (ltag : Nat) (s : State) : Out :=
  match s.launchAt ltag with
  | none => .next s
  | some l =>
    match l.nextCohort, s.nodeOf l.aqi l.node with
    | some (k, c), some n =>
      let w : Want := ⟨l, c, n.ready.getD 0, n.seq⟩
      let imported := (s.teamsOf ltag).any fun t => t.cohort == k && decide (t.status = .preempted)
      if !s.firstInLine w ∨ s.preemptedAhead (s.diesOf l) l.prio ∨ imported then .next s
      else match s.fit w fun _ => false with
        | none => .next s
        | some p => .next ((s.startTeams l p).onLaunch ltag fun l => { l with started := (k, s.cycle) :: l.started })
    | _, _ => .next s

end Sys2Proof.Machine
end

