-- ==== Sys2Proof/Machine/Loom.lean ====
section
/-! DEFINITION. Pre-emption, saving and restoring (R32, R65, R114, R128, R150, R231, R256, R286, R332, R333, R354 to
R357), lost paths (R91, R108 to R110, R335, R390), and the loom's own steps (R69, R85). -/

namespace Sys2Proof.Machine

/-! ### Working on any core -/

/-- Brings the core at a place into focus, the focus core into its stead. -/
def State.swap (s : State) (place : Nat) : State :=
  match s.others.find? fun c => c.place == place with
  | some c => { s with core := c, others := s.others.map fun x => if x.place = place then s.core else x }
  | none => s

/-- Runs a step with the core at a place in focus. -/
def State.atCore (s : State) (place : Nat) (f : State → State) : State :=
  if s.core.place = place then f s else (f (s.swap place)).swap s.core.place

/-! ### Pre-emption (R302, R332, R333, R354) -/

/-- The teams of a cohort that stand where `status` says. -/
def State.cohortTeams (s : State) (ltag k : Nat) (status : TeamStatus) : List Team :=
  (s.teamsOf ltag).filter fun t => t.cohort == k && decide (t.status = status)

/-- The resident cohorts of an AQI's partition below a priority, those of which no pre-emption is decided yet: launch and
cohort number, with the cycle of its start. -/
def State.victims (s : State) (dies prio : Nat) : List (Launch × Nat × Nat) :=
  s.dev.launches.flatMap fun l =>
    if s.diesOf l = dies ∧ l.prio < prio then
      l.started.filterMap fun e =>
        if (s.cohortTeams l.ltag e.1 .resident).all (·.wanted) then none else some (l, e.1, e.2)
    else []

/-- Whether a victim goes before another: lower priority, then the later start. -/
def victimBefore (a b : Launch × Nat × Nat) : Bool :=
  decide (a.1.prio < b.1.prio) || (a.1.prio == b.1.prio && decide (b.2.2 < a.2.2))

/-- Whether a waiting cohort calls for a pre-emption: first in line, it does not fit even when the teams that are to go
are gone, and would fit if every team of lower priority in its partition were. -/
def State.callsFor (s : State) (w : Want) : Bool :=
  let gone (id : TeamId) : Bool := match s.teamAt id with
    | some t => decide (t.status = .draining) || t.wanted
    | none => false
  let low (id : TeamId) : Bool := match s.launchAt id.ltag with
    | some l => decide (s.diesOf l = s.diesOf w.launch ∧ l.prio < w.launch.prio)
    | none => false
  s.firstInLine w && (s.fit w gone).isNone && (s.fit w fun id => gone id || low id).isSome

/-- Whether a team may still be pre-empted: not once all its cores are done, nor when a fatal trap ends it (R354). -/
def State.yields (s : State) (t : Team) : Bool := t.fatal.isNone && !(s.coresOf t.id).all (·.isDone)

/-- A team is to stop, each core at its first boundary from the one in front of this cycle on at which it may (R302, R354). -/
def State.startDrain (s : State) (t : Team) : State :=
  s.onTeam t.id fun x => { x with status := .draining, since := s.cycle, wanted := false }

/-- The cohort of a decided pre-emption begins to stop. -/
def State.preemptCohort (s : State) (ltag cohort : Nat) : State :=
  ((s.cohortTeams ltag cohort .resident).filter fun t => t.wanted && s.yields t).foldl State.startDrain s

/-- Issue stops on a core for a pre-emption at the boundary in front of a cycle (R354, R362). -/
def Core.stopFor (c : Core) (cycle : Nat) : Core :=
  { c.ringAdd cycle 7 13 c.place with stopped := true, stopAt := cycle }

/-- A draining team at the boundary in front of this cycle: once every core has issued `done` it is not pre-empted (R293,
R354); once all others have stopped, cores that have issued `done` stop with them. -/
def State.settleDrain (s : State) (t : Team) : State :=
  let cs := s.coresOf t.id
  if t.status ≠ .draining then s
  else if cs.all (·.isDone) then s.onTeam t.id fun x => { x with status := .resident }
  else if cs.all fun c => c.isDone || c.stopped then
    s.onCores fun c => if c.team = some t.id ∧ c.isDone ∧ !c.stopped then c.stopFor s.cycle else c
  else s

/-- PREEMPTION: a waiting cohort of higher priority does not fit, and this is the next cohort to give way: of the lowest
priority, the most recently started. All its teams stop together, each core at its next boundary at which it may (R302, R332,
R354). -/
def execPreemption (ltag cohort : Nat) (s : State) : Out :=
  match s.launchAt ltag with
  | none => .next s
  | some l =>
    let ts := (s.cohortTeams ltag cohort .resident).filter s.yields
    let chosen (w : Want) : Bool :=
      let vs := s.victims (s.diesOf w.launch) w.launch.prio
      s.callsFor w && vs.any (fun v => v.1.ltag == ltag && v.2.1 == cohort
        && vs.all fun u => !victimBefore u v)
    if ts ≠ [] ∧ l.cohorts.length > cohort ∧ s.wants.any chosen then
      .next (ts.foldl (fun s t => s.onTeam t.id fun t => { t with wanted := true }) s)
    else .next s

/-! ### Saving (R128, R150, R333, R355, R356) -/

/-- Whether a command has been sent to its home and cannot be rolled back (R114, R128). -/
def Cmd.sent (q : Nat) (x : Cmd) : Bool := decide (x.stage = .begun) && (q == 8 || (q != 6 && x.op.size == 0))

/-- Whether a core has drained: issue has stopped, its results have landed, and what cannot be rolled back has
completed. -/
def State.drained (s : State) (c : Core) : Bool :=
  c.stopped && c.pend == [] && c.lsPend == [] && c.counts == [] && c.gpush == [] && c.rows == [] && c.gevEnds == [] && c.arrivals == []
  && [4, 5, 6, 8].all (fun q => (c.queue q).cmds.all fun x => !x.sent q)
  && s.dev.weftWait.all fun r => r.place != c.place

/-- A begun command goes back to its first byte; it keeps its pins and its pops (R128), and what it has matched (R365). -/
def Cmd.rollBack (q : Nat) (x : Cmd) : Cmd :=
  if x.stage ≠ .begun ∨ q = 7 then x
  else if q = 6 then { x with stage := .popped, todo := [], got := [] }
  else { x with todo := x.op.work, got := [] }

/-- The bytes that a begun command writes: its destination, a slot, or the elements of an unpack (R128, R150). -/
def CmdOp.writesTo (op : CmdOp) : List Loc :=
  match op with
  | .pak slot _ ctl => (List.range (czS ctl.toNat / 32)).flatMap (slotGranule slot)
  | .unp ls _ ctl => (List.range (czN ctl.toNat * czE ctl.toNat)).map fun i => .ls (ls + i)
  | .ovl _ _ _ => []
  | _ => ((List.range op.size).map op.dst).eraseDups

/-- The LS bytes that a command writes, from CZLIST as it stands: of an unpack its elements, and the list entries that it may append
from NEXT on (R146, R150). -/
def CmdOp.lsTargets (czl : Nat) : CmdOp → List (Nat × Nat)
  | .unp ls _ ctl =>
    let c := ctl.toNat
    let base := 16 * bits czl 20 4
    let next := bits czl 63 48
    [(ls, ls + czN c * czE c), (base + 16 * next, base + 16 * min (bits czl 47 32) (next + (czS c + 4095) / 4096))]
  | op => op.lsWrites 0

/-- A rolled-back command leaves its destination granules unspecified until it completes, and the bytes that it writes in them
for good if it never does (R128). The words of an `ovl` are old or new as before (R135). -/
def State.leaveVague (s : State) (q : Nat) (x : Cmd) : State :=
  let locs := x.op.writesTo
  let s := s.scramble q x locs
  let ls := x.op.lsTargets (s.core.csrAt 0x30).toNat
  let mark (w : Window) : Window := if w.of q x then { w with vague := ls } else w
  let far := (locs.filterMap fun | .far a => some (pinnedDpa x.pins a / 32) | _ => none).eraseDups
  let team := s.core.team.getD ⟨0, 0⟩
  let s := s.onCore fun c => { c with opens := c.opens.map mark }
  s.onDev fun d => { d with vague := d.vague ++ far.map fun g => ⟨team, s.core.rank, q, x.idx, g⟩ }

/-- The commands of a core that have begun are rolled back (R128, R150). -/
def State.rollBackCore (s : State) (place : Nat) : State :=
  s.atCore place fun s =>
    let begun := [4, 5, 6].flatMap fun q => ((s.core.queue q).cmds.filter fun x => decide (x.stage = .begun)).map fun x => (q, x)
    let s := begun.foldl (fun s e => s.leaveVague e.1 e.2) s
    s.onCore fun c => [4, 5, 6, 7, 8].foldl (fun c q =>
      c.setQueue q { c.queue q with cmds := (c.queue q).cmds.map (Cmd.rollBack q) }) c

/-- A core as it is saved: loops without captured words (R286, R355); its balance has stood since the boundary (R356). -/
def Core.saved (c : Core) : Core := { c with thr := c.thr.mapAll Thread.dropCaptured, landed := [] }

/-- CONTEXT_SAVE: a drained team's state is saved and its cores are free (R355, R356). -/
def execContextSave (team : TeamId) (s : State) : Out :=
  match s.teamAt team with
  | none => .next s
  | some t =>
    let cs := s.coresOf team
    if t.status = .draining ∧ t.fatal = none ∧ cs.all s.drained then
      let s := cs.foldl (fun s c => s.rollBackCore c.place) s
      let image := (byRank t.width (s.coresOf team)).map Core.saved
      let vague := s.dev.vague
      let s := (s.vacate team).onDev fun d => { d with vague := vague }
      .next (s.onTeam team fun t => { t with status := .preempted, image := image })
    else .next s

/-! ### Restoring (R32, R65, R332, R357) -/

/-- A cycle that a saved timetable names, moved by the length of the pre-emption. -/
def Dom.shift (n : Nat) : Dom → Dom
  | .waking t fromRet => .waking (t + n) fromRet
  | d => d

/-- Accesses to the core port, moved by the length of the pre-emption. -/
def PortUse.shift (n : Nat) (p : PortUse) : PortUse := { p with fr := p.fr + n, upTo := p.upTo + n }

/-- A saved core on a core of the device, which issues from a cycle on: wakes under way, the evaluator's segment and its banks
go on from where they stood (R65, R256). -/
def Core.resume (c : Core) (place cycle : Nat) : Core :=
  let n := cycle - c.stopAt
  let gev (g : Gev) : Gev := { g with at_ := g.at_ + n, due := g.due + n, late := g.late + n }
  let moved (e : Nat × Nat × Nat) : Nat × Nat × Nat := (e.1, e.2.1, e.2.2 + n)
  let dom (e : Nat × Dom) : Nat × Dom := (e.1, e.2.shift n)
  let c := { c with
    place := place
    stopped := false
    stopAt := cycle
    dom := c.dom.map dom
    ports := c.ports.map (PortUse.shift n)
    gev := c.gev.map gev
    gevBusy := c.gevBusy + n
    rvfOpen := c.rvfOpen.map moved }
  c.ringAdd cycle 8 13 place

/-- A restored `bar.wait` whose phase opened during the pre-emption holds no more (R315). -/
def State.reopen (s : State) (t : Team) (stop : Nat) (c : Core) : Core :=
  match c.hold with
  | .barWait h =>
    let opened := (s.barrierAt t.id.ltag h).bind fun b => b.opensAt t.id.index c.die (c.arrivalOf h)
    match opened with
    | some o =>
      if stop ≤ o ∧ o ≤ s.cycle + 1 then
        { c with hold := .none, thr := { c.thr with s := (c.capture c.thr.s 4).advance 4 false }, acq := s.dev.actions, seen := []
                 govel := c.govel.map Govel.step }
      else c
    | none => c
  | _ => c

/-- A team resumes on placed cores (R315, R357). -/
def State.resumeTeam (s : State) (p : Nat × Nat × List Nat) (t : Team) : State :=
  let on (c : Core) : Core :=
    if c.pan = p.2.1 ∧ p.2.2.contains (c.place % 4) then
      match t.image.find? fun o => o.rank == p.2.2.idxOf (c.place % 4) with
      | some o => s.reopen t o.stopAt (o.resume c.place (s.cycle + 1))
      | none => c
    else c
  (s.onCores on).onTeam t.id fun t => { t with status := .resident, image := [] }

/-- A placed team resumes, or starts if it has yet to. -/
def State.enterTeam (l : Launch) (s : State) (p : Nat × Nat × List Nat) : State :=
  match s.teamAt ⟨l.ltag, p.1⟩ with
  | some t => if t.status = .preempted then s.resumeTeam p t else s.startTeams l [p]
  | none => s

/-- CONTEXT_RESTORE: a pre-empted cohort fits, with no cohort of higher priority that fits in line on its dies, and resumes
together; teams of it that have yet to start, as an imported image leaves them, start with it (R32, R332, R357, R360). -/
def execContextRestore (ltag cohort : Nat) (s : State) : Out :=
  match s.launchAt ltag with
  | none => .next s
  | some l =>
    let ts := s.cohortTeams ltag cohort .preempted
    let who (i : Nat) : Bool := (ts ++ s.cohortTeams ltag cohort .waiting).any fun t => t.id.index == i
    let higher := s.wants.any fun w => decide (w.launch.prio > l.prio) && (s.diesOf w.launch &&& s.diesOf l) != 0
      && (s.fit w fun _ => false).isSome
    if ts = [] ∨ s.cohortTeams ltag cohort .draining ≠ [] ∨ higher then .next s
    else match l.place (l.cohorts.getD cohort []) who (s.avail (s.diesOf l) fun _ => false) with
      | none => .next s
      | some ps =>
        let first (l : Launch) : Launch :=
          if l.started.any fun e => e.1 == cohort then l else { l with started := (cohort, s.cycle) :: l.started }
        .next ((ps.foldl (State.enterTeam l) s).onLaunch ltag first)

/-! ### Lost paths (R91, R108, R335) -/

/-- The far addresses that a command has still to access. -/
def Cmd.farLeft (x : Cmd) : List Nat := x.placesLeft.filterMap fun
  | .far a => some a
  | _ => none

/-- Whether a command that has its pages pinned, begun or rolled back, has an access left over a lost path (R91). -/
def State.onLostPath (s : State) (pasid : Nat) (x : Cmd) : Bool :=
  (if x.stage = .begun then x.farLeft else if x.pins = [] then [] else x.op.units.map fun u => (x.op.unitAt u).1).any fun va =>
    s.pathLost pasid va (pinnedDpa x.pins va)

/-- The begun commands of a running core over a lost path fail with kind 10 (R91). -/
def State.failCore (s : State) (place : Nat) : State :=
  let fail (q : Nat) (s : State) (x : Cmd) : State :=
    (s.failCmd q x (transferTrap q x.idx 0 10)).onDev fun d => { d with weftWait := d.weftWait.filter fun r =>
      !(r.place == s.core.place && r.queue == q && r.idx == x.idx && r.issue == x.issue) }
  s.atCore place fun s =>
    [4, 5, 6].foldl (fun s q => ((s.core.queue q).cmds.filter (s.onLostPath s.myPasid)).foldl (fail q) s) s

/-- So do those saved with a pre-empted team (R84, R91, R128). -/
def State.failSaved (s : State) (t : Team) : State :=
  let lost (c : Core) : List (Nat × Cmd) := [4, 5, 6].flatMap fun q =>
    ((c.queue q).cmds.filter (s.onLostPath t.pasid)).map fun x => (q, x)
  let all := t.image.flatMap lost
  let fail (c : Core) : Core := (lost c).foldl (fun c e => c.failCmd s.cycle e.1 e.2 (transferTrap e.1 e.2.idx 0 10)) c
  if all = [] then s
  else
    let s := all.foldl (fun s e => s.dropPending t.id.ltag e.2.bar) s
    let gone (v : Vague) : Bool := v.team == t.id && all.any fun e => e.1 == v.queue && e.2.idx == v.idx
    let s := s.onDev fun d => { d with vague := d.vague.filter fun v => !gone v }
    s.onTeam t.id fun t => { t with image := t.image.map fail }

/-- A node's accesses over a lost path end it with kind 10 (R91, R319). -/
def State.failNode (s : State) (n : Node) : State :=
  if n.work.any (s.onLostPath (s.nodePasid n)) then
    (s.endNode n 4 10).onDev fun d => { d with weftWait := d.weftWait.filter fun r =>
      !(r.place == aqiPlace n.aqi && r.queue == 9 && r.issue == n.seq) }
  else s

/-- Everything that has an access left over a lost path fails (R91). -/
def State.failLost (s : State) : State :=
  let s := ((s.cores.filter fun c => c.team.isSome).map (·.place)).foldl State.failCore s
  let s := s.teams.foldl State.failSaved s
  s.dev.nodes.foldl State.failNode s

/-- A write that an agent had under way as it was lost is performed at its home or is not, each granule's as one (R91, R108,
log 81). -/
def State.strayAct (q : Nat) (s : State) (e : Cmd × Act) : State :=
  let (x, a) := e
  if a.fetch ∨ (x.op.size = 0 ∧ x.op.kind = 1) ∨ (x.remoteOf a).isSome ∨ s.flip (slotOf 12 2 (2 ^ 24 * x.idx + a.n)) then s
  else if x.op.size = 0 then (s.unitHome x a.n false).1
  else s.writeItem q x (x.cells a.n) false

/-- The writes that a core had under way. -/
def State.strayWrites (s : State) (place : Nat) : State :=
  s.atCore place fun s => [4, 5, 6].foldl (fun s q => (s.allowed q).foldl (State.strayAct q) s) s

/-- Home entries of a die that still reaches the loom that touch a lost agent are orphans, and teams that lent to one see it in their
rings (R108, R362). HOLDERS bit 24 or 25 does not tell which host agent or device holds a share: the model marks the shares of
the lost one alone (DESIGN CHOICE, log 91). -/
def State.markOrphans (s : State) : State :=
  let touched (r : Region) : Bool :=
    !r.orphan && !s.dev.lostDies.contains r.home && (s.agentLost r.owner || r.holders.any s.agentLost)
  let hit := s.dev.regions.filter touched
  let mark (r : Region) : Region := if touched r then { r with orphan := true } else r
  let s' := s.onDev fun d => { d with regions := d.regions.map mark }
  hit.foldl (fun s' r => match s.agentTeam (if s.agentLost r.owner then r.lender else r.owner) with
    | some t => s'.ringTeam t.id 6 8 (ownData 7 r.base r.sz)
    | none => s') s'

/-- What a lost team lent onward passes to its own lender (R108). -/
def State.reparentAll (s : State) (t : Team) : State :=
  t.holdings.foldl (fun s h => s.reparent t.ctx (s.teamAgent t.id) h) s

/-- A team is lost with its die: it counts as arrived at its barriers, its tokens stay where they are (R108, R309). -/
def State.loseTeam (s : State) (t : Team) : State :=
  let s := ((s.coresOf t.id).map (·.place)).foldl State.strayWrites s
  let s := s.reparentAll t
  let s := s.goneFrom t.id
  let s := s.vacate t.id
  let s := s.onDev fun d => { d with lost := s.teamAgent t.id :: d.lost }
  s.onTeam t.id fun t => { t with status := .lost, image := [] }

/-- Whether a team has still to run again when its launch is rerun. -/
def Team.unretired (t : Team) : Bool :=
  match t.status with
  | .resident => true
  | .draining => true
  | .preempted => true
  | .lost => true
  | _ => false

/-- The loom takes the regions of a launch back whole, whoever holds their parts (R109, R335). -/
def State.retakeRegions (s : State) (l : Launch) : State :=
  let one (s : State) (e : Nat × Nat × Nat) : State :=
    let inside (r : Region) : Bool := r.ctx == l.ctx && within r.base r.sz e.1 e.2.1
    match s.dev.regions.find? inside with
    | none => s
    | some r =>
      let whole : Region := { r with
        base := e.1, sz := e.2.1, owner := s.loomAgent l.ltag, lender := s.hostAgent e.2.2, shares := 0, smode := 0
        holders := [], orphan := false, below := r.below.getLast?.toList }
      s.onDev fun d => { d with regions := whole :: d.regions.filter fun r => !inside r }
  l.regions.foldl one s

/-- A launch marked RERUN runs its unretired teams again, afresh (R335): retired ones count as arrived from the first
episode. Teams that have yet to start are lent theirs again with them. -/
def State.rerunLaunch (s : State) (l : Launch) : State :=
  let again := (s.teamsOf l.ltag).filter Team.unretired
  let ids := again.map (·.id)
  let cohorts := (again.map (·.cohort)).eraseDups
  let s := again.foldl (fun s t => s.vacate t.id) s
  let s := s.retakeRegions l
  let still := ((s.teamsOf l.ltag).filter fun t => decide (t.status = .waiting)).map (·.id)
  let reset (t : Team) : Team :=
    if ids.contains t.id then Team.fresh l t.id.index t.cohort else if still.contains t.id then { t with holdings := [] } else t
  let s := { s with teams := s.teams.map reset }
  let out := (s.teamsOf l.ltag).filterMap fun t =>
    if t.status = .retired ∨ t.status = .ended then some t.id.index else none
  let rerun (b : Barrier) : Bool := b.ltag == l.ltag && cohorts.any fun k => (l.cohorts.getD k []).contains b.first
  let bar (b : Barrier) : Barrier :=
    if rerun b then { b with arrived := [], gone := out, done := 0, pending := 0, releases := [], windowEnd := [], told := 0 } else b
  let s := s.onDev fun d => { d with
    barriers := d.barriers.map bar
    deliveries := d.deliveries.filter fun e => !(e.ltag == l.ltag && ids.any fun i => i.index == e.toTeam)
    lost := d.lost.filter fun a => !ids.any fun i => a == s.teamAgent i }
  let s := s.onLaunch l.ltag fun l => { l with
    started := l.started.filter (fun e => !cohorts.contains e.1), nrerun := l.nrerun + again.length }
  let who (i : Nat) : Bool := (ids ++ still).any fun t => t.index == i
  l.entries.foldl (fun s e => s.lendEntry l l.spatialLevels who e) s

/-- LINK_FAILURE: a die's links fail: its teams are lost, their tokens orphans, accesses to its memory fail; a launch
marked RERUN runs its unretired teams again (R91, R108 to R110, R309, R335). -/
def execLinkFailure (die : Nat) (s : State) : Out :=
  if die ≥ 24 ∨ s.dev.lostDies.contains die then .next s
  else
    let gone := s.teams.filter fun t => (s.coresOf t.id).any fun c => c.place / 32 == die
    let s := gone.foldl State.loseTeam s
    let s := s.onDev fun d => { d with lostDies := die :: d.lostDies }
    let s := s.failLost.markOrphans
    let dead (h : Holding) (ctx : Nat) : Bool := s.dev.regions.any fun r => r.home == die && r.ctx == ctx && within h.base h.sz r.base r.sz
    let mark (t : Team) : Team := { t with holdings := t.holdings.map fun h => if dead h t.ctx then { h with orphan := true } else h }
    let s := { s with teams := s.teams.map mark }
    let again := s.dev.launches.filter fun l => l.rerun && gone.any fun t => t.id.ltag == l.ltag
    .next (again.foldl State.rerunLaunch s)

/-- An ownership command that waits for an unreachable device is refused late (R107). -/
def State.refuseRemote (s : State) (dev : Nat) : State :=
  let stuck (place : Nat) (x : Cmd) : Bool := s.dev.weftWait.any fun r =>
    r.dst == dev && r.place == place && r.queue == 8 && r.idx == x.idx && r.issue == x.issue
  let one (s : State) (x : Cmd) : State :=
    match x.op with
    | .lend rg _ mode =>
      (s.onMyTeam fun t => t.undoLend (roBase rg.toNat) (roSz rg.toNat) mode.toNat).complete 8 (x.refusedLate 19)
    | _ => s
  let places := (s.cores.filter fun c => c.team.isSome).map (·.place)
  places.foldl (fun s p => s.atCore p fun s => (s.core.owq.cmds.filter (stuck p)).foldl one s) s

/-! ### The loom's own steps (R69, R85) -/

/-- Whether a command has a page pinned in a range. -/
def Cmd.pinsIn (x : Cmd) (base len : Nat) : Bool := x.pins.any fun p => decide (p.va < base + len) && decide (base < p.va + p.size)

/-- Whether a begun command, a saved one or a node's too, or half a host line, has a page pinned under a PASID in a range (R84). -/
def State.pinnedIn (s : State) (pasid base len : Nat) : Bool :=
  let hit (c : Core) : Bool := [4, 5, 6].any fun q => (c.queue q).cmds.any fun x => x.pinsIn base len
  s.teams.any (fun t => t.pasid == pasid && ((s.coresOf t.id).any hit || t.image.any hit))
    || s.dev.nodes.any (fun n => s.nodePasid n == pasid && n.work.any fun x => x.pinsIn base len)
    || s.dev.cxlMid.any fun h => h.pasid == pasid && decide (h.page.va < base + len) && decide (base < h.page.va + h.page.size)

/-- Cached translations of a range are gone (R83). -/
def State.dropXlate (s : State) (pasid base len : Nat) : State :=
  s.onDev fun d => { d with tlb := d.tlb.filter fun e =>
    !(e.1 == pasid && decide (e.2.va < base + len) && decide (base < e.2.va + e.2.size)) }

/-- Whether the placer may move a region's storage: no token of a region in it is lent, and no page is pinned (R30, R84, R85). -/
def State.movable (s : State) (h : Homed) : Bool :=
  s.dev.regions.all fun r => !(r.ctx == h.ctx && within r.base r.sz h.base h.sz) || (!r.lentOut && !s.beingLent r && !s.pinnedIn r.pasid r.base (2 ^ r.sz))

/-- REGION_MOVE: the placer moves a region of which nothing is lent, to a home and storage of its choice. It copies the bytes,
rewrites the host-stage entries, and completes an invalidation: bytes and translation are afterwards as before (R29, R30, R85). -/
def execRegionMove (base ctx : Nat) (s : State) : Out :=
  match s.dev.homed.find? fun h => h.ctx == ctx && decide (h.base ≤ base) && decide (base < h.base + 2 ^ h.sz) with
  | none => .next s
  | some h =>
    match s.homeDies[s.pick (slotOf 15 1 4099) (s.homeDies.length - 1)]? with
    | none => .next s
    | some home =>
      match s.newStorage ctx h.base h.sz home with
      | none => .next s
      | some new =>
        if !s.movable h then .next s
        else
          let pasids := (s.dev.regions.filter fun r => r.ctx == ctx && within r.base r.sz h.base h.sz).map (·.pasid)
          .next (pasids.foldl (fun s p => s.dropXlate p h.base (2 ^ h.sz)) (s.rehome h new))

/-- ISLAND_FREQUENCY_CHANGE: the loom sets an island's clock between 0.8 and 1.9 GHz; every time is a count of cycles
(R5, R69). Its reason, one of the four of R336, is the loom's own affair. -/
def execIslandFrequencyChange (die mhz : Nat) (s : State) : Out :=
  if die < 24 ∧ 800 ≤ mhz ∧ mhz ≤ 1900 then
    .next (s.onDev fun d => { d with mhz := put 1900 d.mhz die mhz, mhzAt := put 0 d.mhzAt die (s.cycle + 1), why := put 0 d.why die (s.pick (slotOf 15 1 4100) 3) })
  else .next s

end Sys2Proof.Machine
end

