-- ==== Sys2Proof/Machine/Host.lean ====
section
/-! DEFINITION. The host (R83, R84, R101, R363, R377 to R386, R393, R394): CXL.mem accesses, management requests, events
and interrupt messages, the device-wide dump. -/

namespace Sys2Proof.Machine

/-! ### CXL.mem (R101, R378) -/

/-- A granule of a line is read or written at its home; an error may be found there (R72, R87). The bytes of another device's memory
are whatever it answers (log 44). -/
def State.cxlGranule (s : State) (ctx va dpa : Nat) (write : Option (List Byte)) : State × List Byte :=
  let ecc := s.flip (slotOf 7 0 (dpa / 32))
  match targetOf dpa, write with
  | .remote _, some _ => (s, [])
  | .remote _, none => (s, s.freeBytes va 32)
  | _, some bs => (s.homeWrite ctx va (cellsFrom dpa bs) ecc, [])
  | _, none => s.homeRead ctx va dpa 32 ecc

/-- What the host is answered: a line, or poison. -/
def State.cxlAnswer (s : State) (x : Option (BitVec 512)) : State := s.onDev fun d => { d with cxlOut := d.cxlOut ++ [x] }

/-- Half of a line. -/
def halfOf (w : Option (BitVec 512)) (k : Nat) : Option (List Byte) := w.map fun x => ((toBytes 64 x.toNat).drop (32 * k)).take 32

/-- The second granule of a line, and the answer to a read (R260, R378). -/
def State.cxlSecond (s : State) (h : CxlHalf) : State :=
  let s := s.onDev fun d => { d with cxlMid := none }
  let r := s.cxlGranule h.ctx h.va h.dpa (halfOf h.write 1)
  if h.write.isSome then r.1 else r.1.cxlAnswer (some (BitVec.ofNat 512 (leNat (h.got ++ r.2))))

/-- CXL_MEM_ACCESS: the host reads or writes one line of 64 bytes of a window, checked as a whole, as two granule actions, of
which the second is the event that comes next; refused, it reads poison or the write is dropped, and the refusal is counted. In
recovery, or with the port lost, nothing answers (R84, R101, R260, R378, R391). -/
def execCxlMemAccess (window off : Nat) (write : Option (BitVec 512)) (s : State) : Out :=
  match s.dev.cxlMid with
  | some h =>
    if h.window = window ∧ h.off = off ∧ h.write = write then .next (s.cxlSecond h)
    else .next { s with inputs := .cxlMemAccess h.window h.off h.write :: .cxlMemAccess window off write :: s.inputs }
  | none =>
    if !s.hostUp then .next s else
    let w := look (0, 0) s.dev.hdm window
    let aqi := w.1 - 1
    let q := s.dev.aqiAt aqi
    let va := w.2 + off / 64 * 64
    let right := if write.isSome then Right.write else Right.read
    let ok := decide (window < 8 ∧ off < 2 ^ 40 ∧ w.1 ≠ 0) && s.agentMay q.ctx (s.hostAgent aqi) va 64 right
    match if ok then s.xlate q.pasid va write.isSome else .error 0 with
    | .error _ =>
      let s := s.onDev fun d => { d with refused := d.refused + 1 }
      .next (if write.isSome then s else s.cxlAnswer none)
    | .ok p =>
      let dpa := p.dpa + (va - p.va)
      let r := s.cxlGranule q.ctx va dpa (halfOf write 0)
      let s := r.1.onDev fun d => { d with cxlMid := some ⟨window, off, write, va + 32, dpa + 32, r.2, q.ctx, q.pasid, p⟩ }
      .next { s with inputs := .cxlMemAccess window off write :: s.inputs }

/-! ### Notify pages (R379) -/

/-- The 64-bit fields of an AQI's notify page that the host may read: EVHEAD, EVTAIL, OVF, MCHKPEND and STATE, 4 bytes each at
0x80 to 0x94; SUBMIT, MGMT and every other offset read as zero. -/
def State.notifyRead (s : State) (aqi off : Nat) : Word32 :=
  let q := s.dev.aqiAt aqi
  let state := if q.bound then 2 ^ 63 + 2 ^ 32 * (q.dies % 2 ^ 24) + 2 ^ 16 * (q.pasid % 2 ^ 16) + q.ctx % 2 ^ 16 else 0
  BitVec.ofNat 32 (
    if off = 0x80 then q.evhead
    else if off = 0x84 then q.evtail
    else if off = 0x88 then q.ovf
    else if off = 0x8C then (if q.bound then (s.dev.mchecks.filter fun m => m.ctx == q.ctx).length else 0)
    else if off = 0x90 then state
    else if off = 0x94 then state / 2 ^ 32
    else 0)

/-- A write of 4 bytes to a notify page of a bound AQI: EVTAIL takes it; a write to SUBMIT or MGMT that is not 64 bytes is refused
as malformed; every other field ignores it (R379, R380). -/
def State.notifyWrite (s : State) (aqi off value : Nat) : State :=
  if !s.aqiOpen aqi then s
  else if off = 0x84 then s.onAqi aqi fun q => { q with evtail := value % 2 ^ 32 }
  else if off < 0x80 then s.event aqi 0 1 2 0
  else s

/-- BAR0: 16 MiB, the notify page of AQI n at 4096 n (R377); its 4-byte reads and writes. -/
def State.barRead (s : State) (addr : Nat) : Word32 := if addr < 2 ^ 24 then s.notifyRead (addr / 4096) (addr % 4096) else 0
def State.barWrite (s : State) (addr value : Nat) : State :=
  if addr < 2 ^ 24 then s.notifyWrite (addr / 4096) (addr % 4096) value else s

/-! ### Acceptance and the management queue (R380 to R382, R385) -/

/-- The event of a management request (R383); its DATA has no meaning that the manual gives. -/
def State.mgmtEvent (s : State) (m : Mgmt) (evt code : Nat) : State :=
  s.event m.aqi m.tag.toNat evt code (s.free (slotOf 15 0 m.aqi) 64).toNat

/-- What running a request gives: the state, and its code, or none while it is not finished. -/
abbrev Ran := State × Option Nat

/-- Whether the host agent of an AQI may write a run that translates: none, or the code that says why not. -/
def State.hostWriteCode (s : State) (aqi va n : Nat) : Option Nat :=
  let q := s.dev.aqiAt aqi
  if !s.hostWhole q.ctx aqi va n then some 7
  else if (s.xlateFail q.pasid va n true).isSome then some 10
  else none

/-- A report's one code of failure is 10 (R382). -/
def reportCode (c : Nat) : Nat := if c = 0 then 0 else 10

/-- Writes bytes for a request, or ends it with the code that says why not. -/
def State.hostPut (s : State) (m : Mgmt) (va : Nat) (bs : List Byte) : Ran :=
  match s.hostWriteCode m.aqi va bs.length with
  | some c => (s, some c)
  | none => (s.poke (s.dev.aqiAt m.aqi).pasid va bs, some 0)

/-! ### Regions (R92, R97, R102, R104) -/

/-- REGION.CREATE: a home die with room in its table, and storage of the region's own; without either the code is 8 (DESIGN CHOICE
for storage, log 82). -/
def runRegionCreate (m : Mgmt) (s : State) : Ran :=
  let q := s.dev.aqiAt m.aqi
  let base := roBase m.a.toNat
  let sz := roSz m.a.toNat
  if !roOk m.a.toNat then (s, some 6)
  else if s.dev.regions.any fun r => r.ctx == q.ctx && decide (r.base < base + 2 ^ sz) && decide (base < r.base + 2 ^ r.sz) then
    (s, some 7)
  else match s.homeDies[s.pick (slotOf 15 1 m.aqi) (s.homeDies.length - 1)]? with
    | none => (s, some 8)
    | some home =>
      match s.newStorage q.ctx base sz home with
      | none => (s, some 8)
      | some store =>
        let h := s.hostAgent m.aqi
        let r : Region := ⟨home, base, sz, q.ctx, h, h, 0, 0, false, [], q.pasid, []⟩
        ((s.onDev fun d => { d with regions := d.regions ++ [r], homed := d.homed ++ [store] }).writeLeaves, some 0)

/-- REGION.DESTROY. -/
def runRegionDestroy (m : Mgmt) (s : State) : Ran :=
  let q := s.dev.aqiAt m.aqi
  let base := roBase m.a.toNat
  let sz := roSz m.a.toNat
  match s.regionExact q.ctx base sz with
  | none => (s, some 7)
  | some r =>
    if roOk m.a.toNat ∧ r.owner = s.hostAgent m.aqi ∧ r.shares = 0 then
      let s := s.onDev fun d => { d with regions := d.regions.filter fun x => !(x.ctx == q.ctx && x.base == base && x.sz == sz) }
      (s.dropHomes.writeLeaves, some 0)
    else (s, some 7)

/-- Whether a host agent has lent the WRITE token of a region onward: to another device, or to the loom for a launch. -/
def State.hostLent (s : State) (aqi : Nat) (r : Region) : Bool :=
  r.owner != s.hostAgent aqi && (r.lender == s.hostAgent aqi || s.dev.launches.any fun l =>
    l.ctx == r.ctx && l.regions.any fun e => e.2.2 == aqi && within r.base r.sz e.1 e.2.1)

/-- The reason of R100 for which a host agent may not lend: as for a team, whose holdings the home entry stands for. -/
def State.hostLendReason (s : State) (m : Mgmt) : Option Nat :=
  let q := s.dev.aqiAt m.aqi
  let rg := m.a.toNat
  let mode := m.c.toNat
  let me := s.hostAgent m.aqi
  if !roOk rg then some 5
  else match s.regionExact q.ctx (roBase rg) (roSz rg) with
    | none => some 4
    | some r =>
      if r.owner ≠ me ∧ !r.holders.contains me ∧ !s.hostLent m.aqi r then some 4
      else if mode > 2 ∨ bits m.b.toNat 31 28 ≠ 5 ∨ (s.recipient none q.ctx m.b.toNat).isNone then some 6
      else if r.owner ≠ me then some 7
      else if mode = 0 ∧ r.shares ≠ 0 then some 7
      else if mode ≠ 0 ∧ ((r.shares ≠ 0 ∧ r.smode ≠ mode) ∨ r.shares = 65535) then some 7
      else none

/-- Whether the home die of a region is lost: no ownership command on it succeeds (R110). -/
def State.homeGone (s : State) (ctx base sz : Nat) : Bool :=
  (s.regionExact ctx base sz).any fun r => s.dev.lostDies.contains r.home

/-- LEND: the remote package loom is asked, and its response ends the request; from now on the region is in its lent state
(R102), its sub-banks ON (R67). -/
def runLend (m : Mgmt) (s : State) : Ran :=
  match s.hostLendReason m with
  | some r => (s, some (32 + r))
  | none =>
    if s.homeGone (s.dev.aqiAt m.aqi).ctx (roBase m.a.toNat) (roSz m.a.toNat) then (s, some 7)
    else match s.recipient none (s.dev.aqiAt m.aqi).ctx m.b.toNat with
    | none => (s, some 38)
    | some a =>
      let xid := s.newXid
      let s := s.sendFlit a.dev 2 6 xid (toBytes 8 ((s.hostAgent m.aqi).bits48 + 2 ^ 48 * (s.dev.aqiAt m.aqi).ctx)
        ++ toBytes 8 m.a.toNat ++ toBytes 8 (a.bits48 + 2 ^ 48 * m.c.toNat))
      let ctx := (s.dev.aqiAt m.aqi).ctx
      let s := match s.regionExact ctx (roBase m.a.toNat) (roSz m.a.toNat) with
        | some r => s.wakeBanks r
        | none => s
      (s.onDev fun d => { d with weftWait := d.weftWait ++
        [⟨xid, a.dev, s.cycle, aqiPlace m.aqi, 8, m.tag.toNat, ctx, m.a.toNat, [a.bits48, (s.hostAgent m.aqi).bits48, m.c.toNat]⟩] }, none)

/-- A region of another device's memory goes back there: its entry here ends. -/
def State.returnRemote (s : State) (ctx : Nat) (me : Agent) (r : Region) (mode : Nat) : State :=
  let dest := if mode = 0 then r.lender else r.owner
  let s := s.sendFlit dest.dev 2 6 s.newXid (toBytes 8 (me.bits48 + 2 ^ 48 * ctx) ++ toBytes 8 (roOf r.base r.sz)
    ++ toBytes 8 (dest.bits48 + 2 ^ 48 * mode) ++ toBytes 8 1)
  s.onDev fun d => { d with regions := d.regions.erase r }

/-- RETURN. -/
def runReturn (m : Mgmt) (s : State) : Ran :=
  let ctx := (s.dev.aqiAt m.aqi).ctx
  let me := s.hostAgent m.aqi
  let base := roBase m.a.toNat
  let sz := roSz m.a.toNat
  if !roOk m.a.toNat then (s, some 37)
  else match s.regionExact ctx base sz with
    | none => (s, some 36)
    | some r =>
      if s.hostLent m.aqi r then (s, some 39)
      else if r.owner = me then
        if r.shares ≠ 0 then (s, some 39)
        else if s.dev.lostDies.contains r.home then (s, some 7)
        else if r.lender.dev ≠ s.dev.weftId then (s.returnRemote ctx me r 0, some 0)
        else (s.giveBack ctx base sz 0 me r.lender, some 0)
      else if r.holders.contains me then
        if s.dev.lostDies.contains r.home then (s, some 7)
        else if r.owner.dev ≠ s.dev.weftId then (s.returnRemote ctx me r r.smode, some 0)
        else (s.giveBack ctx base sz r.smode me r.owner, some 0)
      else (s, some 36)

/-! ### Translations (R83, R84, R386) -/

/-- INVAL: the event follows every access that pins a page of the range. -/
def runInval (m : Mgmt) (s : State) : Ran :=
  let a := m.a.toNat
  let n := m.b.toNat
  if a + n > 2 ^ 56 then (s, some 6)
  else (s.onDev fun d => { d with invals := d.invals ++ [⟨m.aqi, m.tag.toNat, (s.dev.aqiAt m.aqi).pasid, a, n⟩] }, none)

/-- PASID.SET: HROOT is the loom's own, in device control space (R78, R80). -/
def runPasidSet (m : Mgmt) (s : State) : Ran :=
  let p := m.a.toNat
  if p ≥ 0x10000 ∨ bitOf (look 0 s.dev.pasids p).toNat 1 then (s, some 7)
  else
    let hroot := 2 ^ 31 + (s.free (slotOf 15 2 p) 31).toNat
    let e : BitVec 128 := BitVec.ofNat 128 (2 ^ 76 * hroot + 2 ^ 12 * bits m.b.toNat 51 12 + 1)
    ((s.onDev fun d => { d with pasids := put 0 d.pasids p e }).writeLeaves, some 0)

/-- A launch of which no team has been created is given up: its regions go back, its teams and barriers are gone. -/
def State.dropLaunch (s : State) (l : Launch) : State :=
  let s := s.returnRegions l
  let s := { s with teams := s.teams.filter fun t => t.id.ltag != l.ltag }
  s.onDev fun d => { d with
    launches := d.launches.filter (fun k => k.ltag != l.ltag)
    barriers := d.barriers.filter fun b => b.ltag != l.ltag }

/-- PASID.REVOKE: REVOKED at once; nodes that have not started fail; the event follows the last pinned access. -/
def runPasidRevoke (m : Mgmt) (s : State) : Ran :=
  let p := m.a.toNat
  if p ≥ 0x10000 then (s, some 6)
  else
    let e := look 0 s.dev.pasids p
    let mine (n : Node) : Bool := (s.dev.aqiAt n.aqi).pasid == p && !s.hasStarted n && !n.finished
    let end_ (n : Node) : Node :=
      if mine n then { n with begun := true, finished := true, status := 4, detail := 2 } else n
    let idle := s.dev.launches.filter fun l => s.dev.nodes.any fun n => n.kind == 0 && n.begun && mine n && n.ltag == l.ltag
    let s' := idle.foldl State.dropLaunch s
    (s'.onDev fun d => { d with
      pasids := put 0 d.pasids p (e ||| 2)
      nodes := d.nodes.map end_
      invals := d.invals ++ [⟨m.aqi, m.tag.toNat, p, 0, 2 ^ 56⟩] }, none)

/-! ### Diagnosis (R182, R350, R353, R358, R360, R363, R393, R394) -/

/-- DUMPREG and DEVDUMP. -/
def runDumpreg (m : Mgmt) (s : State) : Ran :=
  let g := m.a.toNat
  if g ≠ 0 ∧ !roOk g then (s, some 6)
  else (s.onDev fun d => { d with dumpRegs := put 0 d.dumpRegs (d.aqiAt m.aqi).ctx g }, some 0)
def runDevdump (m : Mgmt) (s : State) : Ran :=
  if !roOk m.a.toNat then (s, some 6) else (s.onDev fun d => { d with devDump := some m.a.toNat }, some 0)

/-- COUNTERS: the counter block of the context (R182). -/
def runCounters (m : Mgmt) (s : State) : Ran :=
  let ctx := (s.dev.aqiAt m.aqi).ctx
  let entry (i : Nat) : List Byte :=
    let x := look ⟨0, 0, 0⟩ s.dev.counters (4096 * ctx + i)
    toBytes 8 x.sat ++ toBytes 8 x.ftz ++ toBytes 8 x.nan ++ toBytes 8 0
  s.hostPut m m.a.toNat ((List.range 4096).flatMap entry)

/-- The team and gang rank that a selector names in a context. -/
def State.selected (s : State) (ctx t : Nat) : Option (Team × Nat) :=
  match s.teamAt ⟨bits t 15 0, bits t 35 16⟩ with
  | some x => if x.ctx = ctx ∧ bits t 37 36 < x.width ∧ bits t 63 38 = 0 then some (x, bits t 37 36) else none
  | none => none

/-- IMG.EXPORT: the context image of a core of a pre-empted team. The device keeps what it wrote, so that the same image
imported again is that core. -/
def runImgExport (m : Mgmt) (s : State) : Ran :=
  match s.selected (s.dev.aqiAt m.aqi).ctx m.a.toNat with
  | none => (s, some 7)
  | some (t, rank) =>
    match t.image.find? fun c => c.rank == rank with
    | none => (s, some 7)
    | some c =>
      if t.status ≠ .preempted then (s, some 7)
      else
        let bs := s.imageBytes c t
        let r := s.hostPut m m.b.toNat bs
        if r.2 = some 0 then (r.1.onDev fun d => { d with exports := (bs, c, t) :: d.exports }, r.2) else r

/-- A number from a place of an image. -/
def imgNat (bs : List Byte) (at_ n : Nat) : Nat := leNat ((bs.drop at_).take n)

/-- Sparse contents of a run of cells of an image. -/
def imgCells (bs : List Byte) (at_ w n : Nat) (key : Nat → Nat) (bits_ : Nat) : SMap (BitVec bits_) :=
  (List.range n).foldl (fun m i => put 0 m (key i) (BitVec.ofNat bits_ (imgNat bs (at_ + w * i) w))) []

/-- A strand, the four strands, and the bits held with them, at a place of an image (log 46). -/
def threadOf (bs : List Byte) (at_ : Nat) : Thread :=
  let n (i : Nat) : Nat := imgNat bs (at_ + 4 * i) 4
  let loop : Loop := ⟨n 3, n 4, n 5, n 6, n 7, [], bitOf (n 0) 20⟩
  ⟨n 0 % 2 ^ 18, bitOf (n 0) 18, n 1, n 2, if bitOf (n 0) 19 then some loop else none⟩
def threadsOf (bs : List Byte) (at_ : Nat) : Threads :=
  ⟨threadOf bs at_, threadOf bs (at_ + 32), threadOf bs (at_ + 64), threadOf bs (at_ + 96)⟩
def extraOf (bs : List Byte) (at_ : Nat) : Nat :=
  (List.range 4).foldl (fun e i => e + 2 ^ (10 * i) * bits (imgNat bs (at_ + 32 * i) 4) 31 22) 0

/-- The domains of a power record at a place of an image, as they stand in a cycle (R65, log 46). -/
def domsOf (bs : List Byte) (at_ cycle : Nat) : SMap Dom :=
  let state := imgNat bs at_ 8
  let waking := imgNat bs (at_ + 8) 8
  (List.range 26).foldl (fun m d => put .off m d (
    if bitOf state d then .on
    else if bitOf state (32 + d) then .ret
    else if bitOf waking d then .waking (cycle + imgNat bs (at_ + 32 + d) 1) false
    else .off)) []

/-- Where the sections of an image begin: scratchpad, ring, the contents of a domain, the team section (R359). -/
def imgCode (bs : List Byte) : Nat :=
  64 + 0x4000 + 64 + 64 * ((List.range 7).map fun i => imgNat bs (64 + 0x4000 + 8 * i) 2).foldl (· + ·) 0
def imgRing (bs : List Byte) : Nat := imgCode bs + 0x40000
def imgPres (bs : List Byte) : List Nat := (List.range 26).filter fun d => bitOf (imgNat bs 0 64) (326 + d)
def imgDom (bs : List Byte) (d : Nat) : Nat :=
  let size (d : Nat) : Nat := if d < 8 then 0x40000 else if d < 18 then 0x10000 else 0x28000
  imgRing bs + 0x2000 + 64 + (((imgPres bs).filter fun e => decide (e < d)).map size).foldl (· + ·) 0

/-- A nest of an image: the one that has begun, from the core state; a queued one, whose fifth and sixth levels are
unspecified (log 46). -/
def activeNestOf (bs : List Byte) (at_ : Nat) : NestSnap :=
  let n (i : Nat) : Nat := imgNat bs (at_ + 8 * i) 8
  ⟨(List.range 6).map fun i => BitVec.ofNat 64 (n i), BitVec.ofNat 64 (n 6), BitVec.ofNat 128 (imgNat bs (at_ + 56) 16),
    BitVec.ofNat 128 (imgNat bs (at_ + 72) 16), BitVec.ofNat 64 (n 11), n 12 % 4, bitOf (n 12) 2⟩
def State.queuedNestOf (s : State) (bs : List Byte) (at_ : Nat) : NestSnap :=
  let n (o k : Nat) : Nat := imgNat bs (at_ + o) k
  let level (i : Nat) : Nat := if i < 4 then n (29 + 6 * i) 6 else (s.free (slotOf 14 3 (8 * at_ + i)) 48).toNat
  ⟨(List.range 6).map fun i => BitVec.ofNat 64 (2 ^ 16 * level i), BitVec.ofNat 64 (n 0 4),
    BitVec.ofNat 128 (2 ^ 54 * n 8 10), BitVec.ofNat 128 (2 ^ 54 * n 18 10), BitVec.ofNat 64 (n 4 4), n 28 1 % 4, bitOf (n 28 1) 2⟩

/-- What an X command does, and the barrier it is tagged with, from its instruction and the operands read at issue. A descriptor is
read from the image's local store, and the vector operand of `xvamo` is unspecified, as no entry holds them (R359, log 46). -/
def State.opOf (s : State) (c : Core) (id : TeamId) (ctx at_ : Nat) (i : Instr) (a : List Word) : Option (CmdOp × Option Nat) :=
  let n (k : Nat) : Nat := (a.getD k 0).toNat
  let w (k : Nat) : Word := a.getD k 0
  let desc : Nat := leNat ((List.range 64).map fun k => look 0 c.ls (bits (n 2) 20 0 + k))
  let form := if bitOf (n 2) 63 then descForm desc fun _ => true else countForm (n 2) (n 0) (n 1) fun _ => true
  let v : VReg := s.free (slotOf 14 4 at_) 4096
  let plain (op : CmdOp) : Option (CmdOp × Option Nat) := some (op, none)
  match i with
  | .xcopy _ _ _ _ _ _ => some (.copy form.1, form.2.1)
  | .xblk _ _ _ _ _ _ => plain (.copy (blkGeo (n 0) (n 1) (n 2)))
  | .xpak _ _ _ _ _ _ => some (.pak (n 0) (n 1) (w 2), if bitOf (n 2) 59 then some (bits (n 2) 58 43) else none)
  | .xunp _ _ _ _ _ _ => plain (.unp (n 0) (n 1) (w 2))
  | .xfld _ xa _ k _ _ => plain (.fld xa (n 1) k)
  | .xfst _ _ _ k _ _ => plain (.fst (n 1) k (w 0))
  | .xamoAdd _ xa _ _ _ _ => plain (.amo 0 xa (n 1) (w 2))
  | .xamoAnd _ xa _ _ _ _ => plain (.amo 1 xa (n 1) (w 2))
  | .xamoOr _ xa _ _ _ _ => plain (.amo 2 xa (n 1) (w 2))
  | .xamoXor _ xa _ _ _ _ => plain (.amo 3 xa (n 1) (w 2))
  | .xamoMin _ xa _ _ _ _ => plain (.amo 4 xa (n 1) (w 2))
  | .xamoMax _ xa _ _ _ _ => plain (.amo 5 xa (n 1) (w 2))
  | .xamoMinu _ xa _ _ _ _ => plain (.amo 6 xa (n 1) (w 2))
  | .xamoMaxu _ xa _ _ _ _ => plain (.amo 7 xa (n 1) (w 2))
  | .xvamoOr _ _ _ _ _ _ => plain (.vamo 0 (n 0) (n 1) v)
  | .xvamoAdd _ _ _ _ _ _ => plain (.vamo 1 (n 0) (n 1) v)
  | .xvamoMin _ _ _ _ _ _ => plain (.vamo 2 (n 0) (n 1) v)
  | .xvamoMax _ _ _ _ _ _ => plain (.vamo 3 (n 0) (n 1) v)
  | .ovl _ _ _ _ _ _ => plain (.ovl (n 0) (n 1) (n 2))
  | .ownLend _ _ _ _ _ _ => (s.recipient (some id) ctx (n 1)).map fun r => (.lend (w 0) r (w 2), none)
  | .ownRet _ _ _ _ => ((s.teamAt id).bind fun t => t.exact (roBase (n 0)) (roSz (n 0))).map fun h => (.ret (w 0) h, none)
  | .ownSplit _ _ _ _ => plain (.split (w 0))
  | .ownJoin _ _ _ _ => plain (.join (w 0))
  | .ownQuery _ xa _ _ _ => plain (.query xa (w 1))
  | .ownReclaim _ xa _ _ _ => plain (.reclaim xa (w 1))
  | _ => none

/-- The command of a queue entry, and its queue: one that has begun to move bytes begins again, with its pops (R128, R360). -/
def State.cmdOf (s : State) (c : Core) (id : TeamId) (ctx : Nat) (bs : List Byte) (at_ : Nat) : Option (Nat × Cmd) :=
  let word := imgNat bs at_ 4
  let word1 := imgNat bs (at_ + 4) 4
  let flags := imgNat bs (at_ + 10) 1
  let q := flags / 16
  let begun := flags % 4 == 2
  let args := (List.range 3).map fun i => BitVec.ofNat 64 (imgNat bs (at_ + 11 + 8 * i) 8)
  let op := if q = 7 then
      some (CmdOp.nest (if begun then activeNestOf bs (64 + 0xD80 + 64) else s.queuedNestOf bs (at_ + 11)), none)
    else match decodeWords .x word word1 with
      | .ok i => s.opOf c id ctx at_ i args
      | .error _ => none
  let t := tokOf word1
  op.map fun o => (q, {
    idx := imgNat bs (at_ + 8) 2, word := word, word1 := word1, args := args, op := o.1, push := t.push, pops := tokPops t
    issue := s.cycle, accepted := s.cycle
    stage := if flags % 4 = 0 then .waiting else if q = 7 ∧ begun then .begun else .popped
    pins := [], todo := [], got := [], bar := o.2.map fun h => (h, match o.1 with
      | .pak _ _ ctl => czS ctl.toNat
      | op => op.size)
    fail := bitOf flags 2, watch := none, late := none, began := s.cycle })

/-- The window of an imported command. -/
def State.windowIn (s : State) (c : Core) (q : Nat) (x : Cmd) (cmds : List Cmd) : Window :=
  let w := windowOf { s with core := c } q x.idx x.push x.op
  let w := { w with closed := cmds.any fun y => y.pops.contains x.push }
  match x.op with
  | .nest n => { w with banks := n.banks c.rank, tile := some n.tile, vregs := tileRegs n.tcfg.toNat n.tile }
  | _ => w

/-- The queues of an image: their commands with their windows, fault records, markers (R355, R359, R360). -/
def State.withQueues (s : State) (c : Core) (id : TeamId) (ctx : Nat) (bs : List Byte) : Core :=
  let count (i : Nat) : Nat := imgNat bs (64 + 0x4000 + 8 * i) 2
  let next (i : Nat) : Nat := imgNat bs (64 + 0x4000 + 8 * i + 2) 2
  let halted := imgNat bs (64 + 0x4000 + 56) 8
  let n := (List.range 5).foldl (fun k i => k + count i) 0
  let at_ (k : Nat) : Nat := 64 + 0x4000 + 64 + 64 * k
  let cmds := (List.range n).filterMap fun k => s.cmdOf c id ctx bs (at_ k)
  let recs := (List.range (count 6)).filterMap fun k => s.cmdOf c id ctx bs (at_ (n + count 5 + k))
  let queue (c : Core) (q : Nat) : Core :=
    let own := (cmds.filter fun e => e.1 == q).map (·.2)
    let rec_ := (recs.find? fun e => e.1 == q).map fun e => (s.cycle, e.2)
    c.setQueue q ⟨own, next (q - 4), bitOf halted q, rec_⟩
  let c := [4, 5, 6, 7, 8].foldl queue c
  { c with
    opens := cmds.map fun e => s.windowIn c e.1 e.2 (cmds.map (·.2))
    pmarks := (List.range (count 5)).map fun k => ⟨imgNat bs (at_ (n + k)) 4, imgNat bs (at_ (n + k) + 4) 4, s.cycle⟩ }

/-- The core of an image that this device has not written itself, for a team: what R359 gives a place is read there, laid out within it
as the model has it; bits that are reserved read as zero (R8, R360, log 46). -/
def State.coreOfImage (s : State) (id : TeamId) (ctx : Nat) (bs : List Byte) : Core :=
  let h := imgNat bs 0 64
  let pres := imgPres bs
  let ls := (pres.filter fun d => decide (d < 8)).flatMap fun d => imgCells bs (imgDom bs d) 1 0x40000 (0x40000 * d + ·) 8
  let v := (pres.filter fun d => decide (8 ≤ d ∧ d < 18)).flatMap fun d => imgCells bs (imgDom bs d) 512 128 (128 * (d - 8) + ·) 4096
  let ge := imgDom bs 24
  let rv (i : Nat) : Rv := ⟨BitVec.ofNat 32 (imgNat bs (ge + 4 * i) 4), bits (imgNat bs (ge + 0x20000 + i / 2) 1) (4 * (i % 2) + 3) (4 * (i % 2))⟩
  let computed (sel : Nat) : Bool := sel == 3 || sel == 4 || (0x20 ≤ sel && sel ≤ 0x23)
  let legal (e : Nat × Word) : Nat × Word := (e.1, e.2 &&& BitVec.ofNat 64 (csrMask e.1))
  let csr : SMap Word := ((imgCells bs (64 + 0xA00) 8 0x50 (fun i => i) 64).filter fun e => !computed e.1).map legal
  let csr : SMap Word := csr.filter fun e => e.2 != 0 && (e.1 != 0x28 || vwbOk e.2.toNat)
  let extra := extraOf bs (64 + 0xE80)
  let inrush := imgNat bs (64 + 0xF80 + 24) 8
  let c := Core.reset 0
  let c := { c with
    rank := bits h 355 354
    stopAt := s.cycle
    s := imgCells bs 64 8 64 (fun i => i) 64
    p := (imgCells bs (64 + 0x200) 128 16 (fun i => i) 1024).filter fun e => e.1 != 0
    csr := csr
    q := imgCells bs (64 + 0xC80) 16 16 (fun i => i) 128
    nest := (List.range 7).foldl (fun m i => put (if i = 6 then 0x01000000 else 0) m i (BitVec.ofNat 64 (imgNat bs (64 + 0xD80 + 8 * i) 8))) []
    gang := imgNat bs (64 + 0xD80 + 56) 8 % 4
    isDone := bitOf extra 0
    hold := Hold.ofCode (bits extra 3 1) (bits extra 29 4)
    acq := s.dev.actions
    thr := threadsOf bs (64 + 0xE80)
    dom := domsOf bs (64 + 0xF80) s.cycle
    lost := (List.range 26).filter fun d => bitOf (imgNat bs (64 + 0xF80 + 16) 8) d
    bal := inrush % 2 ^ 7
    refill := bits inrush 9 7
    chan := (List.range 16).foldl (fun m k => put 0 m k (imgNat bs (64 + 0xFC0 + 4 * k) 4 % 16)) []
    restart := {
      threads := threadsOf bs (64 + 0x1000)
      lockmask := BitVec.ofNat 64 (imgNat bs (64 + 0x1100) 8)
      amax := imgCells bs (64 + 0x1108) 8 16 (fun i => i) 64
      at_ := s.cycle }
    wp := imgCells bs (64 + 0x2000) 16 4 (fun i => i) 128
    code := imgCells bs (imgCode bs) 4 0x10000 (fun i => i) 32
    ring := imgCells bs (imgRing bs) 16 512 (fun i => i) 128
    ringPos := imgNat bs (imgRing bs + 0x2000) 8 % 512
    ls := ls
    v := v }
  let c := if !pres.contains 24 then c else { c with
    rvf := (List.range 0x8000).foldl (fun m i => put ⟨0, 0⟩ m i (rv i)) []
    gcfg := BitVec.ofNat 256 (imgNat bs (ge + 0x24000) 32)
    gvalid := bitOf (imgNat bs (ge + 0x24020) 8) 0
    gstat := (List.range 4).foldl (fun m i => put 0 m i (imgNat bs (ge + 0x24028 + 8 * i) 8)) [] }
  let c := c.setCsr 8 (c.csrAt 8 &&& 0x1FF)
  let c := if bitOf h 325 then { c with handler := some ⟨threadsOf bs (64 + 0xE80 + 128), bits extra 37 30⟩ } else c
  s.withQueues c id ctx bs

/-- A statistic table at a place of an image (R178, log 46). -/
def statsOf (bs : List Byte) (at_ : Nat) : SMap Stat :=
  let n (i k : Nat) : Nat := imgNat bs (at_ + 16 * i + 4 * k) 4
  (List.range 4096).foldl (fun m i => put ⟨0, 0, 0⟩ m i ⟨n i 0, n i 1, n i 2⟩) []

/-- Why a device refuses an image (R360), by its header. -/
def imageRefused (h : Nat) : Bool :=
  let rev := bits h 479 472
  let live := bits h 439 408
  decide (bits rev 7 4 > 3) || live / 32 != 0 || (bitOf live 3 && bits rev 3 0 != 0)

/-- Installs an image's core in a team of a launch: the team is pre-empted once every core of its gang is there. The far writes that its
commands are tagged with are pending on this device from now on (R127). -/
def State.installImage (s : State) (bs : List Byte) (l : Launch) (t : Team) : State :=
  let old := s.dev.exports.find? fun e => e.1 == bs
  let c := (old.map (·.2.1)).getD { s.coreOfImage t.id l.ctx bs with
    lens := l.sections.map List.length
    govel := if l.blocks = [] then none else some ⟨s.pick (slotOf 15 7 0) (l.blocks.length - 1), false, 0, false, []⟩ }
  let tags := if old.isSome then [] else (([4, 5, 6].flatMap fun q => (c.queue q).cmds).filter fun x => !x.fail).filterMap (·.bar)
  let s := tags.foldl (fun s e => (s.addPending l.ltag e.1 e.2).1) s
  let c := { c with team := some t.id, stopped := false }
  let c := (c.setCsr 0 (BitVec.ofNat 64 l.ctx)).setCsr 1 (BitVec.ofNat 64 l.pasid)
  s.onTeam t.id fun t =>
    let image := c :: t.image.filter fun o => o.rank != c.rank
    let t := { t with image := image, since := s.cycle, status := if image.length = t.width then .preempted else t.status }
    match old with
    | some e =>
      if c.rank = 0 then { t with
        stats := e.2.2.stats, snap := e.2.2.snap, wdog := e.2.2.wdog, mark := e.2.2.mark, voids := e.2.2.voids }
      else t
    | none =>
      let team := imgDom bs 26
      if c.rank = 0 then { t with
        stats := statsOf bs (team + 0x4000), snap := statsOf bs (team + 0x14000)
        wdog := imgNat bs (team + 0x24000) 8, mark := s.cycle, voids := [] }
      else t

/-- IMG.IMPORT: an image becomes a core of a pre-empted team of a pending launch (R360, R382). -/
def runImgImport (m : Mgmt) (s : State) : Ran :=
  let q := s.dev.aqiAt m.aqi
  let a := m.a.toNat
  if (s.xlateFail q.pasid a 64 false).isSome then (s, some 10)
  else
    let h := leNat (s.peek q.pasid a 64)
    let n := 64 * bits h 511 480
    if (s.xlateFail q.pasid a n false).isSome then (s, some 10)
    else if !s.agentMay q.ctx (s.hostAgent m.aqi) a (max n 64) .read then (s, some 7)
    else if imageRefused h then (s, some 9)
    else match s.launchAt m.b.toNat, s.teamAt ⟨m.b.toNat, bits h 375 356⟩ with
      | some l, some t =>
        if l.ctx = q.ctx ∧ t.status = .waiting ∧ t.gw = bits h 353 352 ∧ bits h 355 354 < t.width then
          (s.installImage (s.peek q.pasid a n) l t, some 0)
        else (s, some 7)
      | _, _ => (s, some 7)

/-- WATCH: writes a watchpoint of a core of a team, on its core or in its saved state (R363). -/
def runWatch (m : Mgmt) (s : State) : Ran :=
  let wp : BitVec 128 := BitVec.ofNat 128 (2 ^ 64 * m.c.toNat + m.d.toNat)
  match s.selected (s.dev.aqiAt m.aqi).ctx m.a.toNat with
  | none => (s, some 6)
  | some (t, rank) =>
    let set (c : Core) : Core := if c.rank = rank then { c with wp := put 0 c.wp (m.b.toNat % 4) wp } else c
    if bits wp.toNat 75 74 = 3 ∨ bits wp.toNat 71 16 ≠ 0 ∨ m.b.toNat ≥ 4 then (s, some 6)
    else
      let s := s.onCores fun c => if c.team = some t.id then set c else c
      (s.onTeam t.id fun t => { t with image := t.image.map set }, some 0)

/-- ATTEST: the report, signed with the identity key of the signer of the selvedge firmware (R392, R393). -/
def runAttest (m : Mgmt) (s : State) : Ran :=
  let pad (n : Nat) : List Byte := List.replicate n 0
  let meas := (List.range 4).flatMap fun i => toBytes 64 (look 0 s.dev.meas i).toNat
  let head := toBytes 8 m.b.toNat ++ toBytes 8 m.c.toNat ++ toBytes 8 m.d.toNat ++ [0x30, BitVec.ofNat 8 s.dev.weftId] ++ pad 6
    ++ toBytes 4 0x1F ++ pad 28 ++ meas ++ toBytes 132 (Config.identityKey s.dev.signer).toNat ++ pad 60
  let r := s.hostPut m m.a.toNat (head ++ toBytes 132 (Config.signature s.dev.signer s.fresh head).toNat ++ pad 124)
  (r.1, r.2.map reportCode)

/-- What configuration space gives (R391, R392): in recovery the stage and a cause, else nothing; and the certificate. -/
def State.recoveryReport (s : State) : Option (Nat × Nat) := if s.dev.recovery then some (s.dev.stage, s.dev.cause) else none
def State.certificate (s : State) : List Byte := Config.certificate (Config.identityKey s.dev.signer)

/-- Whether an island's clock may have changed within the last millisecond: fewer cycles have passed than one holds at 1.9 GHz. -/
def State.clockNew (s : State) (die : Nat) : Bool :=
  decide (look 0 s.dev.mhzAt die ≠ 0) && decide (s.cycle < look 0 s.dev.mhzAt die + 1900000)

/-- An island's mean frequency over the last millisecond: its clock, or some value in its range if that changed meanwhile (R394). -/
def State.meanMhz (s : State) (die : Nat) : Nat :=
  if s.clockNew die then 800 + s.pick (slotOf 15 15 die) 1100 else look 1900 s.dev.mhz die

/-- Whether the loom may have throttled for a reason within the last millisecond. -/
def State.throttled (s : State) (k : Nat) : Bool :=
  (List.range 24).any fun d => s.clockNew d || (decide (look 1900 s.dev.mhz d < 1900) && look 0 s.dev.why d == k)

/-- POWER (R394): what the device measured over the millisecond before; what it measures in mW is its own affair, and so is a count of
throttled cycles where there are any. -/
def runPower (m : Mgmt) (s : State) : Ran :=
  let measured (at_ n : Nat) : List Byte := (List.range n).map fun i => s.free (slotOf 15 12 (at_ + i)) 8
  let mhz := (List.range 24).flatMap fun d => toBytes 2 (s.meanMhz d)
  let slow := (List.range 4).flatMap fun k => if s.throttled k then measured (0xC0 + 8 * k) 8 else toBytes 8 0
  let bs := measured 0 0x18 ++ toBytes 8 0 ++ mhz ++ toBytes 16 0 ++ measured 0x60 0x60 ++ slow ++ toBytes 32 0
  let r := s.hostPut m m.a.toNat bs
  (r.1, r.2.map reportCode)

/-! ### AQIs, interrupts, windows (R378, R379, R384) -/

/-- The counter block of a context that an AQI is the first to be bound to is zero: R182 zeroes it as the context is created, which
no request of the manual does (DESIGN CHOICE, log 92). -/
def Device.openContext (d : Device) (ctx : Nat) : Device :=
  if d.aqis.any fun a => a.2.bound && a.2.ctx == ctx then d
  else { d with counters := d.counters.filter fun e => e.1 / 4096 != ctx }

/-- AQI.BIND: islands that were OFF since they left their last partition run again (R331). -/
def runAqiBind (m : Mgmt) (s : State) : Ran :=
  let a := m.a.toNat
  let n := bits m.c.toNat 3 0
  if a < 4096 ∧ (s.dev.aqiAt a).bound then (s, some 7)
  else if a ≥ 4096 ∨ n > 10 ∨ bits m.b.toNat 63 56 ≠ 0 ∨ bits m.c.toNat 11 4 ≠ 0 then (s, some 6)
  else
    let s := (s.onDev fun d => d.openContext (bits m.b.toNat 15 0)).enterPartition (bits m.b.toNat 55 32)
    (s.onAqi a fun q => { q with
      bound := true, ctx := bits m.b.toNat 15 0, pasid := bits m.b.toNat 31 16, dies := bits m.b.toNat 55 32
      ring := 2 ^ 12 * bits m.c.toNat 63 12, ringN := 2 ^ (n + 6), evhead := 0, evtail := 0, ovf := 0, waiting := [], held := []
      mgmt := [], seq := 0 }, some 0)

/-- The requests of an AQI that is bound no more end no request of a later binding: an invalidation goes on, and so does a lend, each
without an event. -/
def State.forgetRequests (s : State) (a : Nat) : State :=
  s.onDev fun d => { d with
    invals := d.invals.map fun v => if v.aqi = a then { v with aqi := 4096 } else v
    weftWait := d.weftWait.map fun r => if r.place = aqiPlace a ∧ r.queue = 8 then { r with place := aqiPlace 4096 } else r }

/-- AQI.UNBIND: dies that are then in no partition go through OFF (R70, R331). -/
def runAqiUnbind (m : Mgmt) (s : State) : Ran :=
  let a := m.a.toNat
  if s.dev.nodes.any fun n => n.aqi == a then (s, some 7)
  else
    let dies := (s.dev.aqiAt a).dies
    let s := (s.forgetRequests a).onAqi a fun q => { q with
      bound := false, ctx := 0, pasid := 0, dies := 0, ring := 0, ringN := 0, evhead := 0, evtail := 0, ovf := 0
      waiting := [], held := [], mgmt := [], seq := 0 }
    (s.leavePartition dies, some 0)

/-- A message that MASK holds back is sent when MASK is 0 (R384). -/
def State.sendIrq (s : State) (a : Nat) : State :=
  let q := s.dev.aqiAt a
  if !q.irqValid then s
  else if q.irqMask then s.onAqi a fun q => { q with irqPending := true }
  else (s.onDev fun d => { d with hostWrites := d.hostWrites ++ [(q.pasid, q.irqAddr, q.irqData)] }).onAqi a fun q => { q with irqPending := false }

/-- IRQ.SET. -/
def runIrqSet (m : Mgmt) (s : State) : Ran :=
  let a := m.a.toNat
  if a ≥ 4096 ∨ bits m.c.toNat 63 33 ≠ 0 then (s, some 6)
  else
    let s := s.onAqi a fun q => { q with
      irqAddr := m.b.toNat, irqData := bits m.c.toNat 31 0, irqMask := bitOf m.c.toNat 32, irqValid := true }
    (if (s.dev.aqiAt a).irqPending then s.sendIrq a else s, some 0)

/-- HDM.BIND. -/
def runHdmBind (m : Mgmt) (s : State) : Ran :=
  let w := m.a.toNat
  if w ≥ 8 ∨ m.b.toNat ≥ 4096 then (s, some 6)
  else (s.onDev fun d => { d with hdm := put (0, 0) d.hdm w (m.b.toNat + 1, m.c.toNat) }, some 0)

/-- WEFT.ID. -/
def runWeftId (m : Mgmt) (s : State) : Ran :=
  if m.a.toNat ≥ 192 ∨ s.dev.weftSet then (s, some 7) else (s.onDev fun d => { d with weftId := m.a.toNat }, some 0)

/-! ### Running requests (R382, R385) -/

/-- Runs a request by its MOP: its effect, and its code. -/
def runMgmt (mop : Nat) (m : Mgmt) (s : State) : Ran :=
  match mop with
  | 0x01 => runRegionCreate m s
  | 0x02 => runRegionDestroy m s
  | 0x03 => runInval m s
  | 0x04 => runDumpreg m s
  | 0x05 => runCounters m s
  | 0x06 => runLend m s
  | 0x07 => runReturn m s
  | 0x08 => runImgExport m s
  | 0x09 => runImgImport m s
  | 0x0A => runWatch m s
  | 0x0B => runAttest m s
  | 0x20 => runAqiBind m s
  | 0x21 => runAqiUnbind m s
  | 0x22 => runPasidSet m s
  | 0x23 => runPasidRevoke m s
  | 0x24 => runIrqSet m s
  | 0x25 => runHdmBind m s
  | 0x26 => runDevdump m s
  | 0x27 => runPower m s
  | _ => runWeftId m s

/-- Runs the requests that wait on an AQI until one does not finish at once; that one stays at the head. -/
def State.runQueue (s : State) (a : Nat) : Nat → State
  | 0 => s
  | fuel + 1 =>
    match (s.dev.aqiAt a).mgmt with
    | [] => s
    | (mop, m) :: _ =>
      match runMgmt mop m s with
      | (s', none) => s'
      | (s', some code) => ((s'.onAqi a fun q => { q with mgmt := q.mgmt.drop 1 }).mgmtEvent m 0 code).runQueue a fuel

/-- The request at the head of an AQI's queue ends with a code, and those behind it run. -/
def State.endMgmt (s : State) (a code : Nat) : State :=
  match (s.dev.aqiAt a).mgmt with
  | [] => s
  | (_, m) :: rest => ((s.onAqi a fun q => { q with mgmt := rest }).mgmtEvent m 0 code).runQueue a rest.length

/-- Whether a request is owner-only, and whether it names a D operand (R381, R382). -/
def ownerOnly (mop : Nat) : Bool := decide (mop ≥ 0x20)
def namesD (mop : Nat) : Bool := mop == 0x0A || mop == 0x0B

/-- A write to MGMT arrives: it is discarded, refused with an event, or accepted into its AQI's queue, and runs
there in its turn (R380 to R383, R385). R380 counts a MOP that R382 does not list among the reserved values. -/
def State.submitMgmt (s : State) (m : Mgmt) (mop : Nat) : State :=
  let q := s.dev.aqiAt m.aqi
  if !s.aqiOpen m.aqi then s
  else if q.waiting.length ≥ 256 then s.onAqi m.aqi fun q => { q with ovf := (q.ovf + 1) % 2 ^ 32 }
  else if m.bytes ≠ 64 then s.event m.aqi 0 1 2 0
  else if !s.pasidOk m.aqi m.pasid then s.mgmtEvent m 1 1
  else if m.resv ≠ 0 ∨ !mopListed m.mop ∨ (m.d ≠ 0 ∧ !namesD mop) then s.mgmtEvent m 1 2
  else if ownerOnly mop ∧ m.aqi ≠ 0 then s.mgmtEvent m 1 4
  else
    let s := s.onAqi m.aqi fun q => { q with mgmt := q.mgmt ++ [(mop, m)] }
    if q.mgmt = [] then s.runQueue m.aqi 1 else s

/-- REGION.CREATE to WEFT.ID, as their packets arrive (R380, R382). -/
def execRegionCreate (m : Mgmt) (s : State) : Out := .next (s.submitMgmt m 0x01)
def execRegionDestroy (m : Mgmt) (s : State) : Out := .next (s.submitMgmt m 0x02)
def execInval (m : Mgmt) (s : State) : Out := .next (s.submitMgmt m 0x03)
def execDumpreg (m : Mgmt) (s : State) : Out := .next (s.submitMgmt m 0x04)
def execCounters (m : Mgmt) (s : State) : Out := .next (s.submitMgmt m 0x05)
def execLend (m : Mgmt) (s : State) : Out := .next (s.submitMgmt m 0x06)
def execReturn (m : Mgmt) (s : State) : Out := .next (s.submitMgmt m 0x07)
def execImgExport (m : Mgmt) (s : State) : Out := .next (s.submitMgmt m 0x08)
def execImgImport (m : Mgmt) (s : State) : Out := .next (s.submitMgmt m 0x09)
def execWatch (m : Mgmt) (s : State) : Out := .next (s.submitMgmt m 0x0A)
def execAttest (m : Mgmt) (s : State) : Out := .next (s.submitMgmt m 0x0B)
def execAqiBind (m : Mgmt) (s : State) : Out := .next (s.submitMgmt m 0x20)
def execAqiUnbind (m : Mgmt) (s : State) : Out := .next (s.submitMgmt m 0x21)
def execPasidSet (m : Mgmt) (s : State) : Out := .next (s.submitMgmt m 0x22)
def execPasidRevoke (m : Mgmt) (s : State) : Out := .next (s.submitMgmt m 0x23)
def execIrqSet (m : Mgmt) (s : State) : Out := .next (s.submitMgmt m 0x24)
def execHdmBind (m : Mgmt) (s : State) : Out := .next (s.submitMgmt m 0x25)
def execDevdump (m : Mgmt) (s : State) : Out := .next (s.submitMgmt m 0x26)
def execPower (m : Mgmt) (s : State) : Out := .next (s.submitMgmt m 0x27)
def execWeftId (m : Mgmt) (s : State) : Out := .next (s.submitMgmt m 0x28)

/-- INVALIDATION_COMPLETE: the first invalidation of which no page is pinned completes: cached translations of its range
are gone, its event waits, and the requests behind it run (R83, R84, R382, R386). -/
def execInvalidationComplete (s : State) : Out :=
  match s.dev.invals.find? fun v => !s.pinnedIn v.pasid v.base v.len with
  | none => .next s
  | some v =>
    let s := s.dropXlate v.pasid v.base v.len
    let s := (s.onDev fun d => { d with invals := d.invals.erase v }).writeLeaves
    .next (s.endMgmt v.aqi 0)

/-! ### Events (R383, R384) -/

/-- EVENT_WRITE: a waiting event goes to its ring slot, if the ring has room, and its interrupt message follows. -/
def execEventWrite (aqi : Nat) (s : State) : Out :=
  let q := s.dev.aqiAt aqi
  match q.waiting with
  | [] => .next s
  | e :: _ =>
    if !q.bound ∨ !s.hostUp ∨ (q.evhead + 2 ^ 32 - q.evtail) % 2 ^ 32 ≥ q.ringN then .next s
    else
      let s := s.onDev fun d => { d with hostWrites := d.hostWrites ++ [(q.pasid, q.ring + 16 * (q.evhead % q.ringN), e.toNat)] }
      .next ((s.onAqi aqi fun q => { q.dropEvent with evhead := (q.evhead + 1) % 2 ^ 32 }).sendIrq aqi)

/-- EVTAIL_WRITE: the host advances EVTAIL (R379, R383). -/
def execEvtailWrite (aqi value : Nat) (s : State) : Out :=
  .next (s.barWrite (4096 * aqi + 0x84) value)

/-! ### The device-wide dump (R353) -/

/-- DEVICE_WIDE_DUMP: written only into the region that the device owner named and holds; what it says and how long it is
the manual does not give, so each granule of the region keeps its bytes or holds others. -/
def execDeviceWideDump (s : State) : Out :=
  match s.dev.devDump with
  | none => .next s
  | some g =>
    let base := roBase g
    let n := 2 ^ roSz g
    let p := (s.dev.aqiAt 0).pasid
    if (s.regionExact 0 base (roSz g)).isSome ∧ s.hostWhole 0 0 base n ∧ (s.xlateFail p base n true).isNone then
      let one (s' : State) (i : Nat) : State :=
        if s.flip (slotOf 12 3 i) then s' else s'.poke p (base + 32 * i) (s.freeBytes (base + 32 * i) 32)
      .next ((List.range (n / 32)).foldl one s)
    else .next s

end Sys2Proof.Machine
end

