-- ==== Sys2Proof/Machine/Weft.lean ====
section
/-! DEFINITION. The weft (R77, R90, R101, R387 to R390): flits that arrive. A payload's layout is the model's own
(log 30): 8-byte words, lowest first. A request holds agent and context, virtual address, granule DPA, byte mask with the
operation above it, data; a response holds a status (0, or the kind of R107 that refuses) and data. -/

namespace Sys2Proof

/-! ### Payloads -/

open Machine

/-- A word of a payload; beyond its end 0. -/
def Flit.word (f : Flit) (i : Nat) : Nat := leNat ((f.payload.drop (8 * i)).take 8)
def Flit.ctx (f : Flit) : Nat := f.word 0 / 2 ^ 48
def Flit.va (f : Flit) : Nat := f.word 1
def Flit.dpa (f : Flit) : Nat := f.word 2 % 2 ^ 43 / 32 * 32
def Flit.mask (f : Flit) : Nat := f.word 3 % 2 ^ 32
def Flit.opn (f : Flit) : Nat := f.word 3 / 2 ^ 32
def Flit.data (f : Flit) (from_ : Nat) : List Byte := (List.range 32).map fun i => f.payload.getD (8 * from_ + i) 0

end Sys2Proof

namespace Sys2Proof.Machine

/-- Whether a flit is a request, or a response, of a type for this device: not in recovery, and not of a device that has been
declared unreachable (R108, R391). -/
def State.isFor (s : State) (f : Flit) (type : Nat) : Bool :=
  f.type == type && f.dst == s.dev.weftId && !s.dev.recovery && !s.dev.unreachable.contains f.src

/-! ### Accesses of another device at a home (R90, R101) -/

/-- Whether a region's entry permits a right to some agent of a device. -/
def Region.allowsFrom (r : Region) (dev : Nat) (right : Right) : Bool :=
  (r.owner :: r.holders).any fun a => a.dev == dev && r.allows a right

/-- Whether the home's ownership table permits a remote access: the region of its context that holds its address (R90). -/
def State.weftMay (s : State) (f : Flit) (right : Right) : Bool :=
  match s.regionOf f.ctx f.va with
  | none => false
  | some r => r.allowsFrom f.src right

/-- Whether an access reaches its home: neither the home die nor the memory's own is lost; else nothing answers it (R91). -/
def State.weftReaches (s : State) (f : Flit) : Bool :=
  (s.regionOf f.ctx f.va).all (fun r => !s.dev.lostDies.contains r.home) && (List.range 24).all fun d => !(onDie d f.dpa && s.dev.lostDies.contains d)

/-- A refused access is counted, and its response says so. -/
def State.weftRefuse (s : State) (f : Flit) (type : Nat) : State :=
  (s.onDev fun d => { d with refused := d.refused + 1 }).sendFlit f.src 1 type f.xid (toBytes 8 16)

/-- The bytes of the granule that a mask names. -/
def maskBytes (m : Nat) : List Nat := (List.range 32).filter fun i => bitOf m i

/-- Whether an access of another device finds an uncorrectable error in its granule (R87). -/
def State.weftEcc (s : State) (f : Flit) : Bool := s.flip (slotOf 7 0 (f.dpa / 32))

/-- WEFT_READ: a read is checked and performed, and its data sent back. -/
def execWeftRead (f : Flit) (s : State) : Out :=
  if !s.isFor f 0 ∨ !s.weftReaches f then .next s
  else if !s.weftMay f .read then .next (s.weftRefuse f 1)
  else
    let r := s.homeRead f.ctx (f.va / 32 * 32) f.dpa 32 (s.weftEcc f)
    .next (r.1.sendFlit f.src 1 1 f.xid (toBytes 8 0 ++ r.2))

/-- WEFT_WRITE: a write is checked and performed, and acknowledged. -/
def execWeftWrite (f : Flit) (s : State) : Out :=
  if !s.isFor f 2 ∨ !s.weftReaches f then .next s
  else if !s.weftMay f .write then .next (s.weftRefuse f 3)
  else
    let data := f.data 4
    let cells := (maskBytes f.mask).map fun i => (f.dpa + i, data.getD i 0)
    .next ((s.homeWrite f.ctx f.va cells (s.weftEcc f)).sendFlit f.src 1 3 f.xid (toBytes 8 0))

/-- WEFT_ATOMIC: an atomic is checked and performed as one action, and its old bytes sent back (R133, R134, R366). -/
def execWeftAtomic (f : Flit) (s : State) : Out :=
  if !s.isFor f 4 ∨ !s.weftReaches f then .next s
  else if !s.weftMay f .atomic then .next (s.weftRefuse f 5)
  else
    let is := maskBytes f.mask
    let lo := is.headD 0
    let r := s.homeRead f.ctx (f.va / 32 * 32) (f.dpa + lo) is.length (s.weftEcc f)
    let old := r.2
    let data := f.data 4
    let new :=
      if f.opn < 8 then toBytes 8 (amoNew f.opn (leNat old) (leNat ((data.drop lo).take 8)))
      else (List.range 8).flatMap fun w =>
        toBytes 4 (vamoNew (f.opn - 8) (leNat ((old.drop (4 * w)).take 4)) (leNat ((data.drop (4 * w)).take 4)))
    let s := r.1.homeWrite f.ctx f.va (cellsFrom (f.dpa + lo) (new.take is.length)) false
    let s := s.atomicWatch f.ctx none (is.map fun i => f.va / 32 * 32 + i)
    .next (s.sendFlit f.src 1 5 f.xid (toBytes 8 0 ++ old))

/-! ### Responses (R90, R101, R389) -/

/-- The request that a response answers. -/
def State.answered (s : State) (f : Flit) : Option Remote := s.dev.weftWait.find? fun r => r.xid == f.xid && r.dst == f.src

/-- A response reaches a node's access (R319). -/
def State.nodeAnswer (s : State) (f : Flit) (r : Remote) (take : State → Cmd → Remote → List Byte → Cmd) : State :=
  match s.dev.nodes.find? fun n => aqiPlace n.aqi == r.place && n.seq == r.issue with
  | none => s
  | some n => match n.work with
    | [] => s
    | x :: _ =>
      let bad := f.word 0 != 0
      let x := { take s x r (if bad then s.freeBytes 0 32 else f.data 1) with watch := none }
      s.nodeSettle n (if bad then { x with late := some 16 } else x)

/-- A response reaches the engine that waits: the command takes what it brings; refused, it completes with kind 16, its
data unspecified (R101, R107). -/
def State.weftAnswer (s : State) (f : Flit) (take : State → Cmd → Remote → List Byte → Cmd) : State :=
  match s.answered f with
  | none => s
  | some r =>
    let s := s.onDev fun d => { d with weftWait := d.weftWait.erase r }
    if r.place ≥ 768 then s.nodeAnswer f r take
    else s.atCore r.place fun s =>
      match (s.core.queue r.queue).cmds.find? fun x => x.idx == r.idx && x.issue == r.issue with
      | none => s
      | some x =>
        let bad := f.word 0 != 0
        let data := if bad then s.freeBytes 0 32 else f.data 1
        let x := take s x r data
        s.onCore fun c => c.setCmd r.queue (if bad then { x with late := some 16 } else x)

/-- The unit or destination granule of a request. -/
def Remote.unit (r : Remote) : Nat := r.item / 2

/-- Data for a read. -/
def takeData (s : State) (x : Cmd) (r : Remote) (data : List Byte) : Cmd :=
  if x.op.size = 0 then
    let u := x.op.unitAt r.unit
    let x := s.watchOwn x x.op.kind ((List.range u.2).map fun i => .far (u.1 + i))
    let lo := u.1 % 32
    let bytes := (data.drop lo).take u.2
    { x with todo := x.todo.erase r.unit, got := x.got ++ indexed (match x.op with | .unp _ _ _ => 32 * r.unit | _ => 0) bytes }
  else
    let x := s.watchOwn x 1 (r.bytes.map x.op.src)
    { x with got := x.got ++ r.bytes.map fun i => (i, data.getD ((x.op.src i).addr % 32) 0) }

/-- The acknowledgement of a write. -/
def takeAck (s : State) (x : Cmd) (r : Remote) (_data : List Byte) : Cmd :=
  let locs := if x.op.size = 0 then
      let u := x.op.unitAt r.unit
      (List.range u.2).map fun i => Loc.far (u.1 + i)
    else (x.cells r.unit).map (·.1)
  { s.watchOwn x 0 locs with todo := x.todo.erase r.unit }

/-- The result of an atomic. -/
def takeResult (s : State) (x : Cmd) (r : Remote) (data : List Byte) : Cmd :=
  let u := x.op.unitAt r.unit
  let x := s.watchOwn x 2 ((List.range u.2).map fun i => .far (u.1 + i))
  { x with todo := x.todo.erase r.unit, got := if x.op.sreg = 0 then [] else indexed 0 (data.take u.2) }

/-- WEFT_READ_DATA, WEFT_WRITE_ACKNOWLEDGE, WEFT_ATOMIC_RESULT. -/
def execWeftReadData (f : Flit) (s : State) : Out := .next (if s.isFor f 1 then s.weftAnswer f takeData else s)
def execWeftWriteAcknowledge (f : Flit) (s : State) : Out := .next (if s.isFor f 3 then s.weftAnswer f takeAck else s)
def execWeftAtomicResult (f : Flit) (s : State) : Out := .next (if s.isFor f 5 then s.weftAnswer f takeResult else s)

/-! ### Ownership (R96, R97, R102, R107) -/

/-- The kind with which a remote lend was refused: one of R107's. -/
def refusedKind (n : Nat) : Nat := if 16 ≤ n ∧ n ≤ 19 then n else 19

/-- An agent from its 48 bits (R96). -/
def agentOf (n : Nat) : Agent := ⟨bits n 47 40, bits n 39 36, bits n 35 20, bits n 19 0⟩

/-- The response to a lend of a team of this device. -/
def State.lendAnswer (s : State) (r : Remote) (status : Nat) : State :=
  s.atCore r.place fun s =>
    match s.core.owq.cmds.find? fun x => x.idx == r.idx && x.issue == r.issue with
    | none => s
    | some x => match x.op with
      | .lend rg a mode =>
        let base := roBase rg.toNat
        let sz := roSz rg.toNat
        if status = 0 then (s.install s.myCtx base sz a mode.toNat s.myAgent).complete 8 x
        else (s.onMyTeam fun t => t.undoLend base sz mode.toNat).complete 8 (x.refusedLate (refusedKind status))
      | _ => s

/-- The response to a lend that a host agent of this device asked for: the token moves or not, and its request, if it still stands at
the head of its AQI's queue, ends. -/
def State.hostLendAnswer (s : State) (r : Remote) (status : Nat) : State :=
  let aqi := r.place - 768
  let a := agentOf (r.bytes.getD 0 0)
  let me := agentOf (r.bytes.getD 1 0)
  let s := if status = 0 then s.install r.issue (roBase r.item) (roSz r.item) a (r.bytes.getD 2 0) me else s
  match (s.dev.aqiAt aqi).mgmt with
  | [] => s
  | _ :: _ => s.endMgmt aqi (if status = 0 then 0 else 7)

/-- The home number that the model gives a region of another device's memory. -/
def remoteHome (dev : Nat) : Nat := 256 + dev

/-- A device lends a region of its memory to a host agent of this one, for the agent's context: the entry, or the kind
that refuses. R107 names none for an AQI that is not bound here nor for a range that overlaps a region of the context: the model
answers 19, as for a lend within the device, and 17 (DESIGN CHOICE, log 93). -/
def State.takeRemoteLend (s : State) (f : Flit) : State × Nat :=
  let rg := f.word 1
  let aqi := bits (f.word 2) 19 0
  let mode := f.word 2 / 2 ^ 48
  let q := s.dev.aqiAt aqi
  let base := roBase rg
  let sz := roSz rg
  let from_ := agentOf (f.word 0 % 2 ^ 48)
  let me := s.hostAgent aqi
  if !roOk rg ∨ mode > 2 then (s, 16)
  else if !q.bound then (s, 19)
  else if s.dev.regions.any fun r => r.ctx == q.ctx && decide (r.base < base + 2 ^ sz) && decide (base < r.base + 2 ^ r.sz) then
    (s, 17)
  else
    let r : Region := { home := remoteHome f.src, base := base, sz := sz, ctx := q.ctx, lender := from_, orphan := false
                        owner := if mode = 0 then me else from_, shares := if mode = 0 then 0 else 1, smode := mode
                        holders := if mode = 0 then [] else [me], pasid := q.pasid, below := [] }
    (s.onDev fun d => { d with regions := d.regions ++ [r] }, 0)

/-- A device gives back a token that this one lent it. -/
def State.takeRemoteReturn (s : State) (f : Flit) : State × Nat :=
  let rg := f.word 1
  match s.regionExact f.ctx (roBase rg) (roSz rg) with
  | none => (s, 16)
  | some r =>
    if r.owner.dev = f.src ∧ r.owner.dev ≠ s.dev.weftId then (s.giveBack f.ctx r.base r.sz 0 r.owner r.lender, 0)
    else match r.holders.find? fun a => a.dev == f.src with
      | some a => (s.giveBack f.ctx r.base r.sz r.smode a r.owner, 0)
      | none => (s, 16)

/-- WEFT_OWNERSHIP: a response on lane 1 ends the lend that waits for it; a request lends a region to this device's host
agent, or gives one back, and is answered. -/
def execWeftOwnership (f : Flit) (s : State) : Out :=
  if !s.isFor f 6 then .next s
  else if f.vl = 1 then
    match s.answered f with
    | none => .next s
    | some r =>
      let s := s.onDev fun d => { d with weftWait := d.weftWait.erase r }
      .next (if r.place ≥ 768 then s.hostLendAnswer r (f.word 0) else s.lendAnswer r (f.word 0))
  else
    let r := if f.word 3 = 0 then s.takeRemoteLend f else s.takeRemoteReturn f
    .next (r.1.sendFlit f.src 1 6 f.xid (toBytes 8 r.2))

/-! ### A device that cannot be reached (R91, R107, R108, R390) -/

/-- Whether the package loom has a cause to declare a device unreachable (R390): a flit to it could not be sent for 100 µs, or a
request to it had no response within 1 ms; at 0.8 GHz these are the fewest cycles. -/
def State.unanswered (s : State) (dev : Nat) : Bool :=
  s.dev.weftHeld.any (fun e => e.2.dst == dev && decide (e.1 + 80000 ≤ s.cycle))
    || s.dev.weftWait.any fun r => r.dst == dev && decide (r.sent + 800000 ≤ s.cycle)

/-- WEFT_UNREACHABLE: a remote device that does not answer, or to which nothing can be sent, is declared unreachable: its agents are
lost, accesses to it fail, and lends that wait for it are refused (R91, R107, R108, R390). -/
def execWeftUnreachable (dev : Nat) (s : State) : Out :=
  if dev ≥ 192 ∨ dev = s.dev.weftId ∨ s.dev.unreachable.contains dev ∨ !s.unanswered dev then .next s
  else
    let s := s.refuseRemote dev
    let s := (s.onDev fun d => { d with unreachable := dev :: d.unreachable, weftHeld := d.weftHeld.filter fun e => e.2.dst != dev }).failLost
    let asked := s.dev.weftWait.filter fun r => r.dst == dev && decide (r.place ≥ 768) && r.queue == 8
    let s := s.onDev fun d => { d with weftWait := d.weftWait.filter fun r => r.dst != dev }
    .next (asked.foldl (fun s r => s.hostLendAnswer r 19) s).markOrphans

/-! ### Barriers, pauses, loom control, discards (R308, R312, R388, R389) -/

/-- WEFT_BARRIER: another device arrives at the domain barriers of an id in the launches of a context. -/
def execWeftBarrier (f : Flit) (s : State) : Out :=
  if !s.isFor f 7 then .next s
  else
    let mine (b : Barrier) : Bool := ((s.launchAt b.ltag).map fun l => l.ctx == f.ctx).getD false
    let count (b : Barrier) : Barrier :=
      if b.xdev ≠ 0 ∧ b.did = f.word 0 % 2 ^ 48 ∧ mine b then { b with ext := b.ext + 1 } else b
    .next (s.onDev fun d => { d with barriers := d.barriers.map count })

/-- WEFT_PAUSE: payload byte v is the pause time of lane v in units of 64 flit times; 0 resumes it, and what waited goes out. -/
def execWeftPause (f : Flit) (s : State) : Out :=
  if !s.isFor f 8 then .next s
  else
    let set (m : SMap Nat) (v : Nat) : SMap Nat := put 0 m v (f.payload.getD v 0).toNat
    .next (s.onDev fun d => { d with paused := (List.range 8).foldl set d.paused }).flushFlits

/-- WEFT_PAUSE_EXPIRY: a lane's pause is over, and what waited goes out. When that is, in cycles, depends on the flit time. -/
def execWeftPauseExpiry (lane : Nat) (s : State) : Out :=
  .next (s.onDev fun d => { d with paused := put 0 d.paused lane 0 }).flushFlits

/-- WEFT_LOOM_CONTROL: the package loom takes the flit; the manual gives it no effect on anything that this state
holds. -/
def execWeftLoomControl (_f : Flit) (s : State) : Out := .next s

/-- WEFT_FLIT_DISCARD: a flit with a reserved TYPE or a DST above 191 is discarded and counted. -/
def execWeftFlitDiscard (f : Flit) (s : State) : Out :=
  if f.type ≥ 10 ∨ f.dst ≥ 192 then .next (s.onDev fun d => { d with discards := d.discards + 1 }) else .next s

end Sys2Proof.Machine
end

