-- ==== Sys2Proof/Machine/Bringup.lean ====
section
/-! DEFINITION. Bring-up, host reset, the debugger (R108, R334, R391, R392). `stage` is the bring-up stage that comes
next: 5 once AQI 0 accepts packets. -/

namespace Sys2Proof.Machine

/-- A measurement register is extended with the digest of an image that the ROM loads. What the image is, and which of the four
registers takes it, the manual does not say: either is free (R391, log 58). -/
def State.extend (s : State) (k : Nat) : State :=
  let n := s.pick (slotOf 15 13 k) 3
  s.onDev fun d => { d with meas := put 0 d.meas n (Config.extend (look 0 d.meas n) (s.free (slotOf 15 13 k) 512)) }

/-- A stage passes, or the device stays in recovery, with a cause (R391). -/
def State.stagePass (s : State) (verified : Bool) (next : Nat) : State :=
  s.onDev fun d => if verified then { d with stage := next }
    else { d with recovery := true, cause := Config.freeNat s.fresh (slotOf 15 13 4) }

/-- DEVICE_RESET: everything at its reset value but far memory, which keeps its bytes; the boot ROM verifies the selvedge
firmware and measures it; the digest of its signing key goes into the identity key (R392). -/
def execDeviceReset (verified : Bool) (s : State) : Out :=
  let s := { State.reset with mem := s.mem, inputs := s.inputs, fresh := s.fresh }
  let s := s.onDev fun d => { d with signer := s.free (slotOf 15 13 5) 512 }
  .next ((s.extend 0).stagePass verified 1)

/-- SELVEDGE_FIRMWARE_STAGE: the selvedge firmware verifies the loom firmware and Ozuth. -/
def execSelvedgeFirmwareStage (verified : Bool) (s : State) : Out :=
  if s.dev.stage ≠ 1 ∨ s.dev.recovery then .next s
  else .next (((s.extend 1).extend 2).stagePass verified 2)

/-- LOOM_SELF_TEST: every loom tests itself; failing dies are fenced out of every partition. -/
def execLoomSelfTest (failing : List Nat) (s : State) : Out :=
  if s.dev.stage ≠ 2 ∨ s.dev.recovery then .next s
  else .next (s.onDev fun d => { d with stage := 3, fenced := failing.filter fun k => decide (k < 24) })

/-- The selvedge die that carries a weft port (R22). -/
def portDie (port : Nat) : Nat := port / 36

/-- The weft ports that a selvedge die carries: 36 each, 144 in all (R22). -/
def diePorts (die : Nat) : List Nat := (List.range 144).filter fun p => portDie p == die

/-- LINK_TRAINING: links are trained; a failing one is lost. Link 0 to 23 is a compute die's, 24 the CXL port of selvedge die 0,
25 + p weft port p (R22, R391). The weft has trained if a port has; with the CXL port lost the host reaches nothing. -/
def execLinkTraining (failing : List Nat) (s : State) : Out :=
  if s.dev.stage ≠ 3 ∨ s.dev.recovery then .next s
  else
    let lost := (List.range 4).flatMap fun d => (diePorts d).filter fun p => failing.contains (25 + p)
    .next (s.onDev fun d => { d with
      stage := 4
      lostDies := failing.filter fun k => decide (k < 24)
      lostPorts := lost
      cxlLost := failing.contains 24
      weftSet := decide (lost.length < 144) })

/-- AQI0_ENABLE: AQI 0 accepts packets, for context 0 on every die; its PASID, whose entry the loom makes valid, and its
ring are what the owner's software has set. -/
def execAqi0Enable (s : State) : Out :=
  if s.dev.stage ≠ 4 ∨ s.dev.recovery then .next s
  else
    let pasid := (s.free (slotOf 15 14 0) 16).toNat
    let entry : BitVec 128 := BitVec.ofNat 128
      (2 ^ 76 * (2 ^ 31 + (s.free (slotOf 15 14 1) 31).toNat) + 2 ^ 12 * (s.free (slotOf 15 14 2) 40).toNat + 1)
    let s := s.onAqi 0 fun q => { q with
      bound := true, ctx := 0, pasid := pasid, dies := 0xFFFFFF
      ring := 2 ^ 12 * (s.free (slotOf 15 14 3) 52).toNat, ringN := 2 ^ (s.pick (slotOf 15 14 4) 10 + 6) }
    .next (s.onDev fun d => { d with stage := 5, pasids := put 0 d.pasids pasid entry })

/-- The agent that stands for a host agent lost in a reset: no AQI has its number, so nothing returns to it (R110). -/
def State.lostHost (s : State) (aqi : Nat) : Agent := { s.hostAgent aqi with index := aqi + 4096 }

/-- HOST_RESET: an AQI is torn down with its nodes that have not started; its host agent is lost, and its tokens are
orphans, what it lent onward its own lender's; a line of which it had written one granule may or may not have its other (R108, log 81). -/
def execHostReset (aqi : Nat) (s : State) : Out :=
  if !(s.dev.aqiAt aqi).bound then .next s
  else
    let old := s.hostAgent aqi
    let new := s.lostHost aqi
    let half := match s.dev.cxlMid with
      | some h => (look (0, 0) s.dev.hdm h.window).1 == aqi + 1 && (h.write.isNone || s.flip (slotOf 12 2 0))
      | none => false
    let s := if half then s.onDev fun d => { d with cxlMid := none } else s
    let sub (a : Agent) : Agent := if a = old then new else a
    let passed (r : Region) : Region :=
      if r.lender = old ∧ r.owner ≠ old then { r with lender := r.below.headD old, below := r.below.drop 1 } else r
    let region (r : Region) : Region :=
      let r := passed r
      { r with owner := sub r.owner, lender := sub r.lender, holders := r.holders.map sub, below := r.below.map sub }
    let holding (h : Holding) : Holding := { h with lender := sub h.lender }
    let team (t : Team) : Team := { t with holdings := t.holdings.map holding }
    let s := { s with teams := s.teams.map team }
    let s := s.onDev fun d => { d with
      regions := d.regions.map region
      lost := if d.lost.contains new then d.lost else new :: d.lost
      nodes := d.nodes.filter fun n => !(n.aqi == aqi && !n.begun) }
    let s := (s.forgetRequests aqi).onAqi aqi fun q => { q with bound := false, waiting := [], held := [], mgmt := [] }
    .next s.markOrphans

/-- DEBUGGER_HALT: a team is halted; its watchdog does not count (R334). -/
def execDebuggerHalt (team : TeamId) (s : State) : Out := .next (s.onTeam team fun t => { t with halted := true })

/-- DEBUGGER_RELEASE: a halted team goes on. -/
def execDebuggerRelease (team : TeamId) (s : State) : Out := .next (s.onTeam team fun t => { t with halted := false })

end Sys2Proof.Machine
end

