-- ==== Sys2Proof/Machine/Grammar.lean ====
section
/-! DEFINITION. The grammar engine (R176, R177, R243 to R258). -/

namespace Sys2Proof.Machine

/-- A grammar configuration's fields (R245). -/
structure Grammar where
  tid : Nat
  cw : Nat
  xreg : Nat
  obase : Nat
  nrowm1 : Nat
  swm1 : Nat
  xlen : Nat
  scl : Nat
  sbase : Nat
  rtab : Nat

def grammarOf (d : Nat) : Grammar :=
  ⟨bits d 148 137, bits d 136 136, bits d 135 128, bits d 123 109, bits d 108 96, bits d 95 77, bits d 76 64 + 1,
    bits d 62 42, bits d 41 21, bits d 20 0⟩

/-- Names of the input registers. -/
def Grammar.xnames (g : Grammar) : List Nat := groupOf g.xreg ((g.xlen + 255) / 256)

/-- Whether a descriptor's fields are legal (R255). -/
def grammarOk (d : Nat) : Bool :=
  let g := grammarOf d
  decide (bits d 255 149 = 0) && decide (bits d 127 124 = 0) && decide (bits d 63 63 = 0) && decide (g.rtab % 4 = 0)
    && decide (g.sbase % 4 = 0) && decide (g.xreg + (g.xlen + 255) / 256 ≤ 256) && decide (g.obase + g.nrowm1 ≤ 32767)

/-- The configuration as an instruction issuing now uses it: the old or a new one that is landing (R255); none where
VALID is 0. -/
def State.grammarNow (s : State) : Option Nat :=
  let old := if s.core.gvalid then some s.core.gcfg.toNat else none
  let new := s.core.pend.filter fun l => decide (l.dest = .gcfg) && decide (l.issue < s.cycle)
  (old :: new.map fun l => some l.value).getD (s.pick (slotOf 13 1 0) new.length) old

/-- GSET (R246, R255). -/
def execGset (l : Bool) (sa : Nat) (g : Guard) (s : State) : Out :=
  let a := (s.readS 0 sa).toNat
  let d := leNat (s.readLsN 0 a 32)
  s.issue (mi 13 l g)
    (fun s =>
      let gr := grammarOf d
      if a % 32 ≠ 0 ∨ a > 0x1FFFE0 then [alignTrap .m a]
      else s.useDoms .m [lsDom a, 24]
        ++ (if !s.core.isOn (lsDom a) then []
            else if !grammarOk d then [s.operandTrap .m]
            else if gr.sbase + 4 * gr.swm1 + 3 > 0x1FFFFF then [alignTrap .m (gr.sbase + 4 * gr.swm1 + 3)]
            else if gr.scl + gr.nrowm1 > 0x1FFFFF then [alignTrap .m (gr.scl + gr.nrowm1)] else [])
        ++ s.portTraps .m [s.portNow .m a 32])
    fun s' => (s'.usePorts [s.portNow .m a 32]).land 13 .gcfg d

/-! ### Evaluation (R247 to R251) -/

/-- Symbols of a rule entry, cycles of its rule, the address of its first symbol. -/
def ruleLen (e : Nat) : Nat := bits e 31 26 + 1
def ruleCycles (e : Nat) : Nat := (ruleLen e + 31) / 32
def ruleAddr (e : Nat) : Nat := 4 * bits e 18 0

/-- The bank set of a segment (R251). -/
def Grammar.banks (g : Grammar) (first n : Nat) : List Nat :=
  (banksOf (g.rtab + 4 * first) (4 * n) ++ banksOf g.sbase (4 * g.swm1 + 4)).eraseDups

/-- The occupancy of a segment (R247). -/
def State.segCycles (s : State) (g : Grammar) (first n : Nat) : Nat :=
  ((List.range n).map fun i => ruleCycles (leNat (s.readLsN 1 (g.rtab + 4 * (first + i)) 4))).foldl (· + ·) 0

/-- The core port of a segment. -/
def State.portGev (s : State) (g : Grammar) (first n : Nat) : PortUse :=
  ⟨.m, s.cycle, s.cycle + s.segCycles g first n - 1, g.banks first n⟩

/-- The causes of `gev` (R249, R251, R256). A busy evaluator is a timing condition, whatever banks the two segments
share, as the example of R256 has it. -/
def State.gevTraps (s : State) (w : Nat) (cfg : Option Nat) : List Trap :=
  let first := bits w 14 0
  let n := bits w 30 16 + 1
  if bits w 63 31 ≠ 0 ∨ bits w 15 15 ≠ 0 ∨ first + n > 32768 then [s.operandTrap .m]
  else match cfg with
    | none => [s.operandTrap .m]
    | some d =>
      let g := grammarOf d
      if g.rtab + 4 * (first + n) > 0x200000 then [alignTrap .m (g.rtab + 4 * (first + n) - 1 : Nat)]
      else
        let busy := decide (s.cycle < s.core.gevBusy)
        s.useDoms .m ((24 :: g.xnames.map fun x => vbDom (s.phys x)) ++ (g.banks first n).map fun b => b / 4).eraseDups
        ++ (if busy then [timingTrap 10 2] else s.portTraps .m [s.portGev g first n])

/-- GEV (R247 to R251, R256); the trace ring records it (R248, R362). -/
def execGev (l : Bool) (sa : Nat) (g : Guard) (s : State) : Out :=
  let w := (s.readS 0 sa).toNat
  let cfg := s.grammarNow
  s.issue (mi 13 l g) (fun s => s.gevTraps w cfg) fun s' =>
    let first := bits w 14 0
    let n := bits w 30 16 + 1
    let gr := grammarOf (cfg.getD 0)
    let o := s.segCycles gr first n
    let xs := gr.xnames.map s.phys
    let spoilt := s'.core.landed.any (fun p => xs.contains p) || s'.core.pend.any fun p => match p.dest with
      | .v phys => xs.contains phys && decide (p.issue + 1 < s.cycle + o)
      | _ => false
    let due := s.cycle + o + s.core.bound 13
    ((s'.usePorts [s.portGev gr first n]).ring 2 10 (s.nowWord .m)).onCore fun c => { c with
      gev := some ⟨first, n, 0, s.cycle, s.cycle, o, due, xs, BitVec.ofNat 256 (cfg.getD 0), 0, 0, 0, 0, 0, spoilt, 0, false⟩
      gevBusy := s.cycle + o
      rvfOpen := c.rvfOpen ++ [(first, n, due)] }

/-- What a rule comes to: its sum, depth, event, terminals and references; or a fault: code, symbol and reason. -/
inductive RuleOut where
  | ok (sum depth : Nat) (ev : Ev) (terms refs : Nat)
  | fault (code sym reason : Nat)

/-- The running state of a rule's sum. -/
structure RuleAcc where
  sum : Nat
  depth : Nat
  ev : Ev
  refNan : Bool
  terms : Nat
  refs : Nat

/-- One addition (R176, with the infinity and NaN cases of R174). -/
def addSum (a b : Nat) : Nat × Ev :=
  match fp32.val a, fp32.val b with
  | .nan, _ => (0x7FC00000, .none)
  | _, .nan => (0x7FC00000, .none)
  | .inf _, _ => (a, .none)
  | x, y => rne32 (x.add y)

/-- Adds a symbol's value; the first is the sum. -/
def RuleAcc.plus (a : RuleAcc) (k val : Nat) (ev : Ev) : RuleAcc :=
  if k = 0 then { a with sum := val, ev := ev }
  else
    let r := addSum a.sum val
    { a with sum := r.1, ev := (a.ev.join ev).join r.2 }

/-- The symbols of a rule from the `k`-th on, checked and summed from left to right (R247, R248). -/
def ruleSymbols (g : Grammar) (x : Nat → Nat) (rvf : SMap Rv) (r : Nat) : List Nat → Nat → RuleAcc → RuleOut
  | [], _, a =>
    if a.depth + 1 > 15 then .fault 13 64 0
    else
      let isNan : Bool := decide (fp32.val a.sum = FVal.nan)
      let ev : Ev := if isNan then (if a.refNan then (if a.ev = .nan then .none else a.ev) else .nan) else a.ev
      .ok a.sum (a.depth + 1) ev a.terms a.refs
  | w :: ws, k, a =>
    if bitOf w 31 then
      if bits w 30 15 ≠ 0 then .fault 12 k 2
      else if bits w 14 0 ≥ r then .fault 12 k 0
      else
        let e := look ⟨0, 0⟩ rvf (bits w 14 0)
        let a := { a with
          depth := max a.depth e.depth
          refNan := a.refNan || decide (fp32.val e.sum.toNat = FVal.nan)
          refs := a.refs + 1 }
        ruleSymbols g x rvf r ws (k + 1) (a.plus k e.sum.toNat .none)
    else
      if bits w 30 24 ≠ 0 ∨ (g.cw = 0 ∧ bits w 7 4 ≠ 0) then .fault 12 k 2
      else if bits w 23 8 ≥ g.xlen then .fault 12 k 1
      else
        let q := if g.cw = 1 then sext w 8 else sext w 4
        let p := rne32 ((bf16.val (x (bits w 23 8))).mul (.ofFrac q 1))
        let ev := if p.2 = .nan then .none else p.2
        ruleSymbols g x rvf r ws (k + 1) ({ a with terms := a.terms + 1 }.plus k p.1 ev)

/-- An LS byte as the evaluator reads it: what a core-port read finds, or the domain's contents from before it was put to
sleep (R62). -/
def State.gevLs (s : State) (g : Gev) (a : Nat) : Byte :=
  match s.core.ghostOf (lsDom a) g.issue with
  | some _ => s.core.lsOf g.issue a
  | none => s.readLs 0 a

/-- A rule (R248): its entry is checked first. -/
def State.runRule (s : State) (g : Gev) (r : Nat) : Nat × RuleOut :=
  let gr := grammarOf g.cfg.toNat
  let word (a : Nat) : Nat := leNat ((List.range 4).map fun i => s.gevLs g (a + i))
  let e := word (gr.rtab + 4 * r)
  let a := ruleAddr e
  let out :=
    if bits e 25 19 ≠ 0 then .fault 12 0 2
    else if a < gr.sbase ∨ a + 4 * ruleLen e > gr.sbase + 4 * gr.swm1 + 4 then .fault 12 0 3
    else
      let ws := (List.range (ruleLen e)).map fun i => word (a + 4 * i)
      let x (c : Nat) : Nat := laneAt 16 (s.core.vOf g.issue (g.xphys.getD (c / 256) 0)).toNat (c % 256)
      ruleSymbols gr x (s.core.rvfOf g.issue) r ws 0 ⟨0, 0, .none, false, 0, 0⟩
  (ruleCycles e, out)

/-- The next rule of a segment is summed and written, or its fault (R247, R248). -/
def State.evalRule (s : State) (g : Gev) : Except Trap (State × Gev) :=
  let r := g.first + g.done
  match s.runRule g r with
  | (_, .fault code sym reason) => .error ⟨code, info 10 (2 ^ 16 * r + 2 ^ 8 * sym + reason)⟩
  | (n, .ok sum depth ev terms refs) =>
    let k (x : Ev) : Nat := if ev = x then 1 else 0
    .ok (s.onCore fun c => c.putRvfOf g.issue (put ⟨0, 0⟩ (c.rvfOf g.issue) r ⟨BitVec.ofNat 32 sum, depth⟩),
      { g with
        done := g.done + 1, at_ := g.at_ + n, terms := g.terms + terms, refs := g.refs + refs
        sat := g.sat + k .sat, ftz := g.ftz + k .flush, nan := g.nan + k .nan })

/-- GRAMMAR_RULE_EVALUATION: the rule whose cycles begin now is summed and written. A fault is a trap at the next boundary;
the segment ends with the rule below it, and keeps the evaluator for its whole occupancy (R247, R248). -/
def execGrammarRuleEvaluation (s : State) : Out :=
  match s.core.gev with
  | none => .next s
  | some g =>
    if g.done ≥ g.n ∨ s.cycle < g.at_ then .next s
    else
      match s.evalRule g with
      | .error t =>
        let cut (e : Nat × Nat × Nat) : Nat × Nat × Nat :=
          if e.1 = g.first ∧ e.2.2 = g.due then (g.first, g.done, g.due) else e
        .next ((s.onCore fun c => { c with
          gev := some { g with n := g.done, failed := true }
          rvfOpen := c.rvfOpen.map cut }).raiseAfter t)
      | .ok r => .next (r.1.onCore fun c => { c with gev := some r.2 })

/-- A segment that R250 spoilt leaves its entries' sums and its counts unspecified; depth tags stay. -/
def State.spoilRvf (s : State) (g : Gev) : State × Gev :=
  let one (m : SMap Rv) (i : Nat) : SMap Rv :=
    put ⟨0, 0⟩ m (g.first + i) ⟨s.free (slotOf 13 2 i) 32, (look ⟨0, 0⟩ m (g.first + i)).depth⟩
  let sat := s.pick (slotOf 13 3 0) g.done
  let ftz := s.pick (slotOf 13 3 1) (g.done - sat)
  (s.onCore fun c => c.putRvfOf g.issue ((List.range g.done).foldl one (c.rvfOf g.issue)),
    { g with sat := sat, ftz := ftz, nan := s.pick (slotOf 13 3 2) (g.done - sat - ftz) })

/-- A segment's results have landed: its entries may be read, and, if it met no fault, its counters and counts are
committed (R179, R248, R249, R258). The counters of a domain that has lost them since stay as they are (R62). -/
def State.gevLands (s : State) (g : Gev) (rest : List Gev) : State :=
  let s := s.onCore fun c => { c with
    gevEnds := rest
    rvfOpen := c.rvfOpen.filter fun e => decide (e.2.2 > s.cycle) && e != (g.first, g.n, g.due) }
  if g.failed then s
  else
    let counters (m : SMap Nat) : SMap Nat := put 0 (put 0 (put 0 (put 0 m 0 g.n) 1 g.terms) 2 g.refs) 3 g.occ
    let s := s.onCore fun c => { c with
      gstat := if (c.ghostOf 24 g.issue).isSome then c.gstat else counters c.gstat }
    (s.ring 3 10 0).onMyTeam fun t => t.commit g.issue (grammarOf g.cfg.toNat).tid g.sat g.ftz g.nan

/-- The evaluator leaves a segment whose occupancy is over (R249, R250). -/
def State.leaveGev (s : State) : Option Gev → State
  | some g =>
    if g.done = g.n ∧ g.issue + g.occ + g.late ≤ s.cycle then
      let r := if g.spoilt then s.spoilRvf g else (s, g)
      r.1.onCore fun c => { c with gev := none, gevEnds := c.gevEnds ++ [r.2] }
    else s
  | none => s

/-- GEV_COMPLETION: a segment's results land, whatever the evaluator does; else the evaluator has left its segment (R179,
R247, R249, R254, R258). -/
def execGevCompletion (s : State) : Out :=
  match s.core.gevEnds, s.core.gev with
  | g :: gs, now =>
    if s.core.mayLand g.due s.cycle then .next (s.gevLands g gs)
    else .next (s.leaveGev now)
  | [], now => .next (s.leaveGev now)

/-! ### Output rows and counters (R249, R252, R257, R258) -/

/-- The id below which a segment writes its entries: its end, or the rule that will meet a fault (R248). -/
def State.reach : Nat → State → Gev → Nat
  | 0, _, g => g.first + g.done
  | k + 1, s, g => match s.evalRule g with
    | .error _ => g.first + g.done
    | .ok r => State.reach k r.1 r.2

/-- An entry as a reader other than `gev` finds it: unspecified where a `gev` that has not completed writes it (R249). -/
def State.readRvf (s : State) (i : Nat) : Nat :=
  let inRun (g : Gev) (e : Nat × Nat × Nat) : Bool := e == (g.first, g.n, g.due)
  let writes (e : Nat × Nat × Nat) : Bool :=
    match s.core.gev with
    | some g => if inRun g e then decide (i < s.reach (g.n - g.done) g) else decide (i < e.1 + e.2.1)
    | none => decide (i < e.1 + e.2.1)
  if s.core.rvfOpen.any fun e => decide (e.1 ≤ i) && decide (i < e.1 + e.2.1) && decide (s.cycle < e.2.2) && writes e then
    (s.free (slotOf 13 4 i) 32).toNat
  else (look ⟨0, 0⟩ s.core.rvf i).sum.toNat

/-- One output element (R177). -/
def outElem (sum e : Nat) : Nat × Ev :=
  let v := fp32.val sum
  if e = 0xFF then (0x7FC00000, if v = .nan then .none else .nan)
  else
    let r := rne32 (v.scale ((e : Int) - 127))
    (r.1, if r.2 = .nan then .none else r.2)

/-- GOUT (R252, R257). -/
def execGout (l : Bool) (sa sb : Nat) (g : Guard) (s : State) : Out :=
  let r0 := (s.readS 0 sa).toNat
  let name := (s.readS 1 sb).toNat
  let cfg := s.grammarNow
  let gr := grammarOf (cfg.getD 0)
  let n := min 128 (gr.nrowm1 + 1 - r0)
  let ok := cfg.isSome && decide (name < 256) && decide (r0 ≤ gr.nrowm1)
  s.issue (mi 13 l g)
    (fun s =>
      if !ok then [s.operandTrap .m]
      else
        let lo := lsDom (gr.scl + r0)
        let hi := lsDom (gr.scl + r0 + n - 1)
        s.useDoms .m [24, vbDom (s.phys name), lo, hi] ++ s.portTraps .m [s.portNow .m (gr.scl + r0) n])
    fun s' =>
      let es := (List.range n).map fun i => outElem (s.readRvf (gr.obase + r0 + i)) (s.readLs 0 (gr.scl + r0 + i)).toNat
      let s' := (s'.usePorts [s.portNow .m (gr.scl + r0) n]).landV 13 (s.phys name)
        (packLanes 32 128 fun i => (es.getD i (0, .none)).1)
      s'.countEvs gr.tid (es.map (·.2)) (s.cycle + s.core.bound 13)

/-- GSTAT (R258): a counter of the last segment that completed. -/
def execGstat (l : Bool) (c sb : Nat) (g : Guard) (s : State) : Out :=
  s.issue (mi 13 l g) (fun s => s.useDoms .m [24]) fun s' => s'.land 13 (.s sb) (look 0 s.core.gstat c)

end Sys2Proof.Machine
end

