-- ==== Sys2Proof/Machine/VFloat.lean ====
section
/-! DEFINITION. Vector floating point, conversion, special functions and Welford steps (R206 to R215). -/

namespace Sys2Proof.Machine

/-- The rounding modes that a rounding instruction may issue under (R168). -/
def Shape.rndOk (h : Shape) : Bool := decide (h.rnd < 2)

/-- A lane-wise floating instruction: `f` takes the shape and a lane (R207). -/
def vfLanes (cls unit : Nat) (rounds : Bool) (l : Bool) (vd : Nat) (srcs : List Nat)
    (f : Shape → Nat → Nat × Ev) (s : State) : Out :=
  let h := s.shape
  s.issue (vi cls l) (fun s => s.vTraps (isFp h.ty) (!rounds || h.rndOk) unit (vd :: srcs)) fun s' =>
    s'.putLanes s cls h vd (laneWidth h.ty) (laneCount h.ty) (f h)

/-- An arithmetic instruction that rounds an exact result once (R208). -/
def vfArith (l : Bool) (vd va vb : Nat) (f : FVal → FVal → FVal → FVal) (s : State) : Out :=
  vfLanes 8 18 true l vd [va, vb] (fun h i =>
    let F := fmtOf h.ty
    let x (port n : Nat) := F.val (s.groupLane port n (laneWidth h.ty) i)
    F.rnd h.rnd (f (x 0 va) (x 1 vb) (x 2 vd))) s

/-- VFADD (R208). -/
def execVfadd (l : Bool) (vd va vb : Nat) (s : State) : Out := vfArith l vd va vb (fun a b _ => a.add b) s
/-- VFSUB (R208). -/
def execVfsub (l : Bool) (vd va vb : Nat) (s : State) : Out := vfArith l vd va vb (fun a b _ => a.add b.negate) s
/-- VFMUL (R208). -/
def execVfmul (l : Bool) (vd va vb : Nat) (s : State) : Out := vfArith l vd va vb (fun a b _ => a.mul b) s
/-- VFMA: vd is also a source (R208). -/
def execVfma (l : Bool) (vd va vb : Nat) (s : State) : Out := vfArith l vd va vb (fun a b d => d.add (a.mul b)) s

/-- Whether a value stands below another, with -0 below +0 (R209). -/
def FVal.below : FVal → FVal → Bool
  | .zero a, .zero b => a && !b
  | x, y => x.lt y

/-- The smaller (or the larger) of two patterns (R209). -/
def pickF (F : Fmt) (larger : Bool) (a b : Nat) : Nat × Ev :=
  match F.val a, F.val b with
  | .nan, .nan => (F.nan, .nan)
  | .nan, _ => (b, .none)
  | _, .nan => (a, .none)
  | x, y => (if x.below y != larger then a else b, .none)

/-- A minimum or maximum: it does not round (R209). -/
def vfPick (larger l : Bool) (vd va vb : Nat) (s : State) : Out :=
  vfLanes 8 18 false l vd [va, vb] (fun h i =>
    pickF (fmtOf h.ty) larger (s.groupLane 0 va (laneWidth h.ty) i) (s.groupLane 1 vb (laneWidth h.ty) i)) s

/-- VFMIN (R209). -/
def execVfmin (l : Bool) (vd va vb : Nat) (s : State) : Out := vfPick false l vd va vb s
/-- VFMAX (R209). -/
def execVfmax (l : Bool) (vd va vb : Nat) (s : State) : Out := vfPick true l vd va vb s

/-! ### Conversion between formats (R210) -/

/-- Whether `vcvt` converts from one type to another. -/
def cvtOk (src dst : Nat) : Bool :=
  let a := laneWidth src
  let b := laneWidth dst
  decide (dst ≤ 10) && (isFp src || isFp dst) && decide (src ≠ dst) && decide (max a b ≤ 4 * min a b)

/-- One converted element. -/
def cvtElem (src dst mode b : Nat) : Nat × Ev :=
  let x := if isFp src then (fmtOf src).val b else .ofFrac (laneInt src b) 1
  if isFp dst then (fmtOf dst).rnd mode x
  else
    let r := cvi x (tyLo dst) (tyHi dst) mode
    (patOf (laneWidth dst) r.1, r.2)

/-- VCVT (R210): a pair of types that it does not convert forms no group. -/
def execVcvt (l : Bool) (vd va t : Nat) (s : State) : Out :=
  let h := s.shape
  let a := laneWidth h.ty
  let b := laneWidth t
  let n := 4096 / min a b
  s.issue (vi 9 l)
    (fun s => s.vTraps (decide (h.ty ≤ 10)) (cvtOk h.ty t && h.rndOk) 18
      (if cvtOk h.ty t then groupOf vd (n * b / 4096) ++ groupOf va (n * a / 4096) else [vd, va]))
    fun s' => s'.putLanes s 9 h vd b n fun i => cvtElem h.ty t h.rnd (s.groupLane 0 va a i)

/-! ### Conversion into MX blocks (R211 to R213) -/

/-- A value's magnitude. -/
def FVal.mag : FVal → FVal
  | .fin num den => .fin num.natAbs den
  | .inf _ => .inf false
  | .zero _ => .zero false
  | .nan => .nan

/-- The largest magnitude over the finite values of a list (R212). -/
def maxMag : List FVal → FVal
  | [] => .zero false
  | .fin num den :: xs =>
    let m := maxMag xs
    if m.lt (.fin num.natAbs den) then .fin num.natAbs den else m
  | _ :: xs => maxMag xs

/-- Whether a value is a NaN. -/
def FVal.isNan (x : FVal) : Bool := decide (x = .nan)

/-- The scale byte of a block (R212). -/
def blockScale (hr : Nat) (xs : List FVal) : Nat :=
  if xs.any FVal.isNan then 0xFF
  else match maxMag xs with
    | .fin num den => (max 0 (min 254 (log2Frac num.natAbs den + 127 + hr))).toNat
    | _ => 127

/-- A block's code for a value, with its event (R173, R212). -/
def blockCode (fmt mode scale : Nat) (x : FVal) : Int × Ev :=
  if scale = 0xFF then (0, if x.isNan then .nan else .none)
  else mxCode fmt mode (x.scale (127 - (scale : Int)))

/-- VCVT_MX (R211 to R213). The finite inputs of an enabled block that holds a NaN too count toward A (DESIGN CHOICE, log 99). -/
def execVcvtMx (l : Bool) (vd va hr amx fmt : Nat) (s : State) : Out :=
  let h := s.shape
  let w := laneWidth h.ty
  let F := fmtOf h.ty
  s.issue (vi 9 l)
    (fun s => s.vTraps (isFp h.ty) h.rndOk 18 (groupOf vd 2 ++ groupOf va (512 * w / 4096)))
    fun s' =>
      let x (i : Nat) : FVal := F.val (s.groupLane 0 va w i)
      let blocks := (List.range 16).map fun k =>
        let xs := (List.range 32).map fun i => x (32 * k + i)
        let sc := blockScale hr xs
        (sc, maxMag xs, xs.map (blockCode fmt h.rnd sc))
      let blk (k : Nat) := blocks.getD k (0, .zero false, [])
      let cw := if mxWidth fmt = 4 then 4 else 8
      let old (j : Nat) := if h.merge then (s.readV 13 (s.phys (vd + j))).toNat else 0
      let codes := packLanes cw 512 fun i =>
        if h.on (i / 32) then patOf cw (((blk (i / 32)).2.2).getD (i % 32) (0, .none)).1 else laneAt cw (old 0) i
      let scales := packLanes 8 16 fun k => if h.on k then (blk k).1 else laneAt 8 (old 1) k
      let on := (List.range 16).filter fun k => h.on k
      let s' := (s'.landV 9 (s.phys vd) codes).landV 9 (s.phys (vd + 1)) scales
      let s' := s'.countEvs h.tid (on.flatMap fun k => (blk k).2.2.map (·.2)) (s.cycle + s.core.bound 9)
      match maxMag (on.map fun k => (blk k).2.1) with
      | .fin num den => s'.land 9 (.amaxUp amx) (rne32 (.fin num den)).1
      | _ => s'

/-! ### Special functions (R214) -/

/-- A special function, lane by lane (R214). -/
def vSfu (l : Bool) (vd va : Nat) (f : Fmt → Nat → FVal → Nat × Ev) (s : State) : Out :=
  vfLanes 10 19 true l vd [va] (fun h i =>
    let F := fmtOf h.ty
    f F h.rnd (F.val (s.groupLane 0 va (laneWidth h.ty) i))) s

/-- 2^x. -/
def exp2F (F : Fmt) (m : Nat) : FVal → Nat × Ev
  | .nan => F.rnd m .nan
  | .inf true => F.rnd m (.zero false)
  | .inf false => F.rnd m (.inf false)
  | .zero _ => F.rnd m (.fin 1 1)
  | .fin num den => exp2Round F m num den

/-- log2 x. -/
def log2F (F : Fmt) (m : Nat) : FVal → Nat × Ev
  | .nan => F.rnd m .nan
  | .inf n => F.rnd m (if n then .nan else .inf false)
  | .zero _ => F.rnd m (.inf true)
  | .fin num den => if num < 0 then F.rnd m .nan else log2Round F m num.natAbs den

/-- 1 / x. -/
def rcpF (F : Fmt) (m : Nat) (x : FVal) : Nat × Ev :=
  match x with
  | .zero n => F.rnd m (.inf n)
  | x => F.rnd m (FVal.div (.fin 1 1) x)

/-- 1 / sqrt x. -/
def rsqrtF (F : Fmt) (m : Nat) : FVal → Nat × Ev
  | .nan => F.rnd m .nan
  | .inf n => F.rnd m (if n then .nan else .zero false)
  | .zero n => F.rnd m (.inf n)
  | .fin num den => if num < 0 then F.rnd m .nan else rsqrtRound F m num.natAbs den

/-- tanh x. -/
def tanhF (F : Fmt) (m : Nat) : FVal → Nat × Ev
  | .nan => F.rnd m .nan
  | .inf n => F.rnd m (.fin (if n then -1 else 1) 1)
  | .zero n => F.rnd m (.zero n)
  | .fin num den => tanhRound F m num den

/-- VEXP2 (R214). -/
def execVexp2 (l : Bool) (vd va : Nat) (s : State) : Out := vSfu l vd va exp2F s
/-- VLOG2 (R214). -/
def execVlog2 (l : Bool) (vd va : Nat) (s : State) : Out := vSfu l vd va log2F s
/-- VRCP (R214). -/
def execVrcp (l : Bool) (vd va : Nat) (s : State) : Out := vSfu l vd va rcpF s
/-- VRSQRT (R214). -/
def execVrsqrt (l : Bool) (vd va : Nat) (s : State) : Out := vSfu l vd va rsqrtF s
/-- VTANH (R214). -/
def execVtanh (l : Bool) (vd va : Nat) (s : State) : Out := vSfu l vd va tanhF s

/-! ### Welford steps (R215) -/

/-- A count, a mean and a sum of squared deviations, with the lane's event so far. -/
structure Welford where
  n : Nat
  u : Nat
  q : Nat
  ev : Ev

/-- A value copied without arithmetic: a NaN is delivered as the canonical NaN. -/
def copy32 (b : Nat) : Nat × Ev := if (fp32.val b).isNan then (fp32.nan, .nan) else (b, .none)

/-- A triple copied whole. -/
def copyTriple (n u q : Nat) : Welford :=
  let a := copy32 n
  let b := copy32 u
  let c := copy32 q
  ⟨a.1, b.1, c.1, (a.2.join b.2).join c.2⟩

/-- Whether a count is zero, by value. -/
def isZero32 (b : Nat) : Bool := (fp32.val b).eqv (.zero false)

/-- A sample enters a triple. -/
def wfUpd (m n u q x : Nat) : Welford :=
  if isZero32 n then
    let c := copy32 x
    ⟨0x3F800000, c.1, 0, c.2⟩
  else
    let v := fp32.val
    let rn := fp32.rnd m ((v n).add (.fin 1 1))
    let rd := fp32.rnd m ((v x).add (v u).negate)
    let ru := fp32.rnd m ((v u).add ((v rd.1).div (v rn.1)))
    let ri := fp32.rnd m ((v x).add (v ru.1).negate)
    let rq := fp32.rnd m ((v q).add ((v rd.1).mul (v ri.1)))
    ⟨rn.1, ru.1, rq.1, (((rn.2.join rd.2).join ru.2).join ri.2).join rq.2⟩

/-- Two triples merge. -/
def wfMrg (m na ua qa nb ub qb : Nat) : Welford :=
  if isZero32 nb then copyTriple na ua qa
  else if isZero32 na then copyTriple nb ub qb
  else
    let v := fp32.val
    let rn := fp32.rnd m ((v na).add (v nb))
    let rt := fp32.rnd m ((v ub).add (v ua).negate)
    let ru := fp32.rnd m ((v ua).add (((v rt.1).mul (v nb)).div (v rn.1)))
    let p := ((((v rt.1).mul (v rt.1)).mul (v na)).mul (v nb)).div (v rn.1)
    let rq := fp32.rnd m (((v qa).add (v qb)).add p)
    ⟨rn.1, ru.1, rq.1, ((rn.2.join rt.2).join ru.2).join rq.2⟩

/-- A Welford instruction: three destination registers, one event for each lane. -/
def vWelford (l : Bool) (vd : Nat) (srcs : List Nat) (f : Shape → Nat → Welford) (s : State) : Out :=
  let h := s.shape
  s.issue (vi 10 l) (fun s => s.vTraps (h.ty == 8) h.rndOk 19 (groupOf vd 3 ++ srcs)) fun s' =>
    let rs := (List.range 128).map fun i => if h.on i then f h i else ⟨0, 0, 0, .none⟩
    let r (i : Nat) := rs.getD i ⟨0, 0, 0, .none⟩
    let s' := s'.landV 10 (s.phys vd) (s.resultReg h vd 32 0 fun i => (r i).n)
    let s' := s'.landV 10 (s.phys (vd + 1)) (s.resultReg h (vd + 1) 32 0 fun i => (r i).u)
    let s' := s'.landV 10 (s.phys (vd + 2)) (s.resultReg h (vd + 2) 32 0 fun i => (r i).q)
    s'.countEvs h.tid (h.events 128 fun i => (r i).ev) (s.cycle + s.core.bound 10)

/-- VWF_UPD (R215). -/
def execVwfUpd (l : Bool) (vd va vb : Nat) (s : State) : Out :=
  vWelford l vd (groupOf va 3 ++ [vb]) (fun h i =>
    let x (port n : Nat) := s.groupLane port n 32 i
    wfUpd h.rnd (x 0 va) (x 0 (va + 1)) (x 0 (va + 2)) (x 1 vb)) s

/-- VWF_MRG (R215). -/
def execVwfMrg (l : Bool) (vd va vb : Nat) (s : State) : Out :=
  vWelford l vd (groupOf va 3 ++ groupOf vb 3) (fun h i =>
    let x (port n : Nat) := s.groupLane port n 32 i
    wfMrg h.rnd (x 0 va) (x 0 (va + 1)) (x 0 (va + 2)) (x 1 vb) (x 1 (vb + 1)) (x 1 (vb + 2))) s

end Sys2Proof.Machine
end

