-- ==== Sys2Proof/Machine/Rows.lean ====
section
/-! DEFINITION. The row engine (R216 to R219). A pass takes its registers at issue, reads its chunks in the cycles of its
timetable, and its results are in flight from its issue. -/

namespace Sys2Proof.Machine

/-- Whether a descriptor is a legal operand of a pass (R216). -/
def rowsOk (kind d : Nat) : Bool :=
  let r := rowsOf d
  decide (bits d 63 50 = 0) && decide (bits d 22 21 = 0) && decide (r.len ≠ 0) && decide (r.len ≤ r.stride)
    && decide (r.occ kind ≤ 496)

/-- The core-port timetable of a pass from a cycle on (R218). -/
def Rows.slots (r : Rows) (kind c : Nat) : List PortUse :=
  (List.range (r.rows * r.chunks)).map fun j =>
    let u := j % r.chunks
    let a := r.at_ (j / r.chunks) + 512 * u
    let banks := banksOf a (min 512 (64 * r.len - 512 * u))
    if kind = 0 then ⟨.v, c + j, c + j, banks⟩ else ⟨.v, c + 2 * j, c + 2 * j + 1, banks⟩

/-- The enabled rows, and the bytes they hold. -/
def Rows.enabled (r : Rows) (h : Shape) : List Nat := (List.range r.rows).filter fun i => h.on i
def Rows.bytes (r : Rows) (h : Shape) : List Nat :=
  (r.enabled h).flatMap fun i => (List.range (64 * r.len)).map (r.at_ i + ·)

/-- The watchpoint cause of bytes that are read and, for two of the passes, written (R364). -/
def State.rowWatch (s : State) (kind : Nat) (bytes : List Nat) : List Trap :=
  let rd := s.core.watchHit 1 1 bytes
  let wr := if kind = 0 then none else s.core.watchHit 1 0 bytes
  let best := match rd, wr with
    | some a, some b => some (if b.1 < a.1 then b else a)
    | some a, none => some a
    | none, x => x
  match best with
  | some (n, k, hit) => [⟨11, info 1 (2 ^ 58 * n + 2 ^ 56 * k + hit)⟩]
  | none => []

/-- The causes of a pass (R207, R216, R218, R219). A pass that finds its unit busy is a timing condition, whatever
banks it would meet there (as the example of R256 has it for `gev`). A reserved rounding mode stops each pass, `rowmax` too, which does not use it (DESIGN CHOICE,
log 101). -/
def State.rowTraps (s : State) (kind d : Nat) (names : List Nat) : List Trap :=
  let h := s.shape
  let r := rowsOf d
  let ok := rowsOk kind d
  let bad := decide (r.base % 64 ≠ 0) || decide (r.last > 0x1FFFFF)
  let doms := if bad || !ok then [] else ((r.enabled h).flatMap fun i =>
    (List.range (lsDom (r.at_ i + 64 * r.len - 1) + 1 - lsDom (r.at_ i))).map (lsDom (r.at_ i) + ·)).eraseDups
  let busy := s.core.rows.any fun p => p.kind == kind && decide (s.cycle < p.busy)
  s.vTrapsIn (isFp h.ty) (ok && h.rndOk) (19 :: doms) names
  ++ (if !ok then []
      else if bad then [alignTrap .v (if r.base % 64 ≠ 0 then r.base else r.last)]
      else (if busy then [] else s.portTraps .v (r.slots kind s.cycle)) ++ s.rowWatch kind (r.bytes h))
  ++ (if busy then [timingTrap 9 1] else [])

/-- What a pass does to one row: the elements it leaves, their events, the lane of `v`, its event. -/
structure RowResult where
  elems : List Nat
  evs : List Ev
  lane : Nat
  laneEv : Option Ev

/-- The largest value of a row: -0 below +0, any NaN gives NaN (R217). -/
def rowTop : List FVal → FVal
  | [] => .nan
  | [x] => x
  | x :: xs =>
    let m := rowTop xs
    if x.isNan || m.isNan then .nan else if x.below m then m else x

/-- `rowmax` of a row. -/
def rowMax (F : Fmt) (xs : List Nat) : RowResult :=
  let r := rne32 (rowTop (xs.map F.val))
  ⟨[], [], r.1, some r.2⟩

/-- `rowexp` of a row: `v` the row's value, `cr` its multiplier, `acc` the sum so far. -/
def rowExp (F : Fmt) (m : Nat) (v cr : FVal) : List Nat → Nat × Ev → RowResult
  | [], acc => ⟨[], [], acc.1, some acc.2⟩
  | x :: xs, acc =>
    let d := rne32 ((F.val x).add v.negate)
    let t := rne32 (cr.mul (fp32.val d.1))
    let y := exp2F F m (fp32.val t.1)
    let a := rne32 ((fp32.val acc.1).add (F.val y.1))
    let r := rowExp F m v cr xs (a.1, acc.2.join a.2)
    { r with elems := y.1 :: r.elems, evs := ((d.2.join t.2).join y.2) :: r.evs }

/-- `rowscl` of a row. -/
def rowScl (F : Fmt) (m : Nat) (v : FVal) (xs : List Nat) : RowResult :=
  let ys := xs.map fun x => F.rnd m ((F.val x).div v)
  ⟨ys.map (·.1), ys.map (·.2), 0, none⟩

/-- The result of one row of a pass, from its elements. -/
def RowPass.result (p : RowPass) (i : Nat) (xs : List Nat) : RowResult :=
  let F := fmtOf p.ty
  let v := fp32.val (laneAt 32 p.v.toNat i)
  match p.kind with
  | 0 => rowMax F xs
  | 1 => rowExp F p.rnd v (fp32.val (laneAt 32 p.vc.toNat i)) xs (0, .none)
  | _ => rowScl F p.rnd v xs

/-- A row pass of a kind (0 rowmax, 1 rowexp, 2 rowscl) that uses `v`, and `vc` for `rowexp`, and has descriptor `d`: it
takes its slots of the core port; its result in `v` is in flight with no value yet, and the bytes that it will write with it,
until its last chunk is read (R216 to R218). `rowscl`, which computes no lane of `v`, leaves `v` as it is (DESIGN CHOICE, log 100). -/
def rowPass (kind : Nat) (l : Bool) (v vc d : Nat) (names : List Nat) (s : State) : Out :=
  let h := s.shape
  let r := rowsOf d
  s.issue (vi 11 l) (fun s => s.rowTraps kind d names) fun s' =>
    let due := s.cycle + r.occ kind + s.core.bound 11
    let base := s.resultReg { h with guard := h.guard % 2 ^ r.rows } v 32 0 fun _ => 0
    let p : RowPass := { kind := kind, busy := s.cycle + r.occ kind, due := due, issue := s.cycle, desc := d
                         on := r.enabled h, ty := h.ty, rnd := h.rnd, tid := h.tid, phys := s.phys v
                         v := s.readV 0 (s.phys v), vc := s.readV 1 (s.phys vc), base := BitVec.ofNat 4096 base
                         got := [], sat := 0, ftz := 0, nan := 0 }
    let s' := (s'.usePorts (r.slots kind s.cycle)).dirtyLs (if kind = 0 then [] else r.bytes h)
    let s' := if kind = 2 then s' else s'.landVAt due (s.phys v) base (tag := 3)
    s'.onCore fun c => { c with rows := c.rows ++ [p] }

/-- ROWMAX (R216 to R219). -/
def execRowmax (l : Bool) (v sa : Nat) (s : State) : Out := rowPass 0 l v v (s.readS 0 sa).toNat [v] s

/-- ROWEXP (R216 to R219). -/
def execRowexp (l : Bool) (v sa vc : Nat) (s : State) : Out := rowPass 1 l v vc (s.readS 0 sa).toNat [v, vc] s

/-- ROWSCL (R216 to R219). -/
def execRowscl (l : Bool) (v sa : Nat) (s : State) : Out := rowPass 2 l v v (s.readS 0 sa).toNat [v] s

/-- A byte as a pass finds it: a write in flight to it that is visible by now has been made, though it waits for the pass's own
(R156, R218). -/
def State.rowByte (s : State) (a : Nat) : Byte :=
  match s.core.lsPend.filter fun w => w.addr == a && decide (w.issue < s.cycle) with
  | [] => s.readLs 0 a
  | w :: ws =>
    if (w :: ws).all fun x => decide (x.due ≤ s.cycle) then
      ((s.onCore fun c => { c with lsPend := w :: ws }).landByte (2 ^ 24 + a) w).readLs 0 a
    else s.readLs 0 a

/-- The chunk that a pass reads next, as a core-port read of this cycle finds it; a domain that was put to sleep shows the
contents it had (R62, R218). A disabled row's chunk is not read. -/
def State.rowChunk (s : State) (p : RowPass) : Nat :=
  let r := p.rows
  let i := p.got.length / r.chunks
  let a := r.at_ i + 512 * (p.got.length % r.chunks)
  let n := min 512 (64 * r.len - 512 * (p.got.length % r.chunks))
  let s := s.onCore fun c => { c with rows := c.rows.erase p }
  let byte (a : Nat) : Byte :=
    match s.core.ghostOf (lsDom a) p.issue with
    | some _ => s.core.lsOf p.issue a
    | none => s.rowByte a
  if p.on.contains i then leNat ((List.range n).map fun k => byte (a + k)) else 0

/-- The elements of a row, from the chunks that a pass has read. -/
def RowPass.elems (p : RowPass) (i : Nat) : List Nat :=
  let r := p.rows
  let w := laneWidth p.ty
  let x := ((List.range r.chunks).map fun u => p.got.getD (i * r.chunks + u) 0 * 2 ^ (4096 * u)).foldl (· + ·) 0
  (List.range (512 * r.len / w)).map fun k => laneAt w x k

/-- A core-port write of a pass: its bytes are in flight from its issue; a domain that was put to sleep and woken since takes
none (R62, R218). -/
def Core.addRowByte (p : RowPass) (c : Core) (e : Nat × Byte) : Core :=
  match c.ghostOf (lsDom e.1) p.issue with
  | some _ => c.putLsOf p.issue e.1 e.2
  | none => { c with lsPend := c.lsPend ++ [⟨e.1, e.2, p.issue, p.due⟩] }

/-- A pass whose last chunk has been read has its results, in flight from its issue (R217, R218). -/
def Core.rowDone (c : Core) (p : RowPass) : Core :=
  let rs := p.on.map fun i => (i, p.result i (p.elems i))
  let lane (i : Nat) : Nat :=
    match rs.find? fun e => e.1 == i with
    | some e => e.2.lane
    | none => laneAt 32 p.base.toNat i
  let x := packLanes 32 128 lane
  let fill (l : Landing) : Landing :=
    if l.dest = .v p.phys ∧ l.tag = 3 ∧ l.issue = p.issue then { l with value := x, tag := 0 } else l
  let evs := rs.flatMap fun e => e.2.evs ++ e.2.laneEv.toList
  let c := { c with
    pend := c.pend.map fill
    rows := c.rows.map fun q => if q = p then
      { p with sat := countEv .sat evs, ftz := countEv .flush evs, nan := countEv .nan evs } else q }
  if p.kind = 0 then c
  else (rs.flatMap fun e => cellsFrom (p.rows.at_ e.1) (e.2.elems.flatMap (toBytes (laneWidth p.ty / 8)))).foldl
    (Core.addRowByte p) c

/-- The cycle of the next chunk of a pass, if one is to be read (R218). -/
def RowPass.next (p : RowPass) : Option Nat :=
  if p.finished then none else some (p.issue + (if p.kind = 0 then 1 else 2) * p.got.length)

/-- The passes' chunks of this cycle are read (R218). -/
def State.rowSlots (s : State) : State :=
  let one (s : State) (p : RowPass) : State :=
    if p.next = some s.cycle then
      let p' := { p with got := p.got ++ [s.rowChunk p] }
      let s := s.onCore fun c => { c with rows := c.rows.map fun q => if q = p then p' else q }
      if p'.finished then s.onCore fun c => c.rowDone p' else s
    else s
  s.core.rows.foldl one s

/-- ROW_PASS_COMPLETION: a pass whose results have landed commits its counts (R179, R218). A pass stays listed while
its unit is busy with it. -/
def execRowPassCompletion (kind : Nat) (s : State) : Out :=
  match s.core.rows.find? fun p => p.kind == kind with
  | none => .next s
  | some p =>
    if p.busy ≤ s.cycle ∧ p.finished ∧ s.core.mayLand p.due s.cycle then
      .next ((s.onCore fun c => { c with rows := c.rows.erase p }).onMyTeam fun t =>
        t.commit p.issue p.tid p.sat p.ftz p.nan)
    else .next s

end Sys2Proof.Machine
end

