-- ==== Sys2Proof/Machine/VInt.lean ====
section
/-! DEFINITION. Vector integer, logic and data movement (R190 to R205). -/

namespace Sys2Proof.Machine

/-- A lane-wise instruction of one destination register: `f` gives each enabled lane from its sources (R185). -/
def vLanes (cls : Nat) (l : Bool) (vd : Nat) (srcs : List Nat) (types : Nat → Bool)
    (f : Shape → Nat → Nat × Ev) (s : State) : Out :=
  let h := s.shape
  s.issue (vi cls l) (fun s => s.vTraps (types h.ty) true 18 (vd :: srcs)) fun s' =>
    s'.putLanes s cls h vd (laneWidth h.ty) (laneCount h.ty) (f h)

/-- A two-source integer instruction delivered under SAT (R165, R192). -/
def vArith (cls : Nat) (l : Bool) (vd va vb : Nat) (f : Int → Int → Int → Int) (s : State) : Out :=
  vLanes cls l vd [va, vb] isInt (fun h i =>
    let w := laneWidth h.ty
    deliver h h.ty (f (laneInt h.ty (s.groupLane 0 va w i)) (laneInt h.ty (s.groupLane 1 vb w i))
      (laneInt h.ty (s.groupLane 2 vd w i)))) s

/-- The same with one source. -/
def vArith1 (l : Bool) (vd va : Nat) (f : Int → Int) (s : State) : Out :=
  vLanes 4 l vd [va] isInt (fun h i => deliver h h.ty (f (laneInt h.ty (s.groupLane 0 va (laneWidth h.ty) i)))) s

/-- VADD (R192). -/
def execVadd (l : Bool) (vd va vb : Nat) (s : State) : Out := vArith 4 l vd va vb (fun a b _ => a + b) s
/-- VSUB (R192). -/
def execVsub (l : Bool) (vd va vb : Nat) (s : State) : Out := vArith 4 l vd va vb (fun a b _ => a - b) s
/-- VMUL (R192). -/
def execVmul (l : Bool) (vd va vb : Nat) (s : State) : Out := vArith 5 l vd va vb (fun a b _ => a * b) s
/-- VMLA: vd is also a source (R192). -/
def execVmla (l : Bool) (vd va vb : Nat) (s : State) : Out := vArith 5 l vd va vb (fun a b d => d + a * b) s
/-- VMIN (R192). -/
def execVmin (l : Bool) (vd va vb : Nat) (s : State) : Out :=
  vArith 4 l vd va vb (fun a b _ => if a ≤ b then a else b) s
/-- VMAX (R192). -/
def execVmax (l : Bool) (vd va vb : Nat) (s : State) : Out :=
  vArith 4 l vd va vb (fun a b _ => if b ≤ a then a else b) s
/-- VABS (R192). -/
def execVabs (l : Bool) (vd va : Nat) (s : State) : Out := vArith1 l vd va (fun a => a.natAbs) s
/-- VNEG (R192). -/
def execVneg (l : Bool) (vd va : Nat) (s : State) : Out := vArith1 l vd va (fun a => 0 - a) s

/-- A lane-wise instruction on patterns, without events: `f` takes the lane width and the two lanes. -/
def vPat (cls : Nat) (l : Bool) (vd va vb : Nat) (types : Nat → Bool) (f : Nat → Nat → Nat → Nat) (s : State) : Out :=
  vLanes cls l vd [va, vb] types (fun h i =>
    let w := laneWidth h.ty
    (f w (s.groupLane 0 va w i) (s.groupLane 1 vb w i), .none)) s

/-- VMULH: the upper half of the signed product, whatever the type's signedness (R193). -/
def execVmulh (l : Bool) (vd va vb : Nat) (s : State) : Out :=
  vPat 5 l vd va vb isInt (fun w a b => patOf w (sext a w * sext b w / 2 ^ w)) s
/-- VMULHU: the upper half of the unsigned product (R193). -/
def execVmulhu (l : Bool) (vd va vb : Nat) (s : State) : Out := vPat 5 l vd va vb isInt (fun w a b => a * b / 2 ^ w) s

/-- Every type of R184. -/
def anyType (ty : Nat) : Bool := decide (ty ≤ 10)

/-- VAND (R194). -/
def execVand (l : Bool) (vd va vb : Nat) (s : State) : Out := vPat 4 l vd va vb anyType (fun _ a b => a &&& b) s
/-- VOR (R194). -/
def execVor (l : Bool) (vd va vb : Nat) (s : State) : Out := vPat 4 l vd va vb anyType (fun _ a b => a ||| b) s
/-- VXOR (R194). -/
def execVxor (l : Bool) (vd va vb : Nat) (s : State) : Out := vPat 4 l vd va vb anyType (fun _ a b => a ^^^ b) s
/-- VANDN (R194). -/
def execVandn (l : Bool) (vd va vb : Nat) (s : State) : Out :=
  vPat 4 l vd va vb anyType (fun w a b => a &&& (2 ^ w - 1 - b)) s

/-- A lane-wise instruction with one source, on patterns. -/
def vPat1 (l : Bool) (vd va : Nat) (types : Nat → Bool) (f : Nat → Nat → Nat) (s : State) : Out :=
  vLanes 4 l vd [va] types (fun h i => (f (laneWidth h.ty) (s.groupLane 0 va (laneWidth h.ty) i), .none)) s

/-- VPOPC (R194). -/
def execVpopc (l : Bool) (vd va : Nat) (s : State) : Out :=
  vPat1 l vd va isInt (fun w a => ((List.range w).filter fun i => bitOf a i).length) s

/-- VSHL: wraps, or clamps the exact product with an event (R195). An amount of the width or more is taken as the
width: it shifts every bit out, and clamps as any larger amount does. -/
def execVshl (l : Bool) (vd va vb : Nat) (s : State) : Out :=
  vLanes 4 l vd [va, vb] isInt (fun h i =>
    let w := laneWidth h.ty
    deliver h h.ty (laneInt h.ty (s.groupLane 0 va w i) * 2 ^ min (s.groupLane 1 vb w i) w)) s
/-- VSHR (R195). -/
def execVshr (l : Bool) (vd va vb : Nat) (s : State) : Out :=
  vPat 4 l vd va vb isInt (fun w a b => if b < w then a / 2 ^ b else 0) s
/-- VSAR (R195). -/
def execVsar (l : Bool) (vd va vb : Nat) (s : State) : Out :=
  vPat 4 l vd va vb isInt (fun w a b => patOf w (sext a w / 2 ^ min b w)) s

/-- VSEL: the guard chooses for every lane (R197). -/
def execVsel (l : Bool) (vd va vb : Nat) (s : State) : Out :=
  let h := s.shape
  s.issue (vi 4 l) (fun s => s.vTraps (anyType h.ty) true 18 [vd, va, vb]) fun s' =>
    let w := laneWidth h.ty
    s'.landV 4 (s.phys vd) (packLanes w (laneCount h.ty) fun i =>
      if h.on i then s.groupLane 0 va w i else s.groupLane 1 vb w i)

/-- VMOV (R198). -/
def execVmov (l : Bool) (vd va : Nat) (s : State) : Out := vPat1 l vd va anyType (fun _ a => a) s

/-- VBCAST (R198). -/
def execVbcast (l : Bool) (vd sa : Nat) (s : State) : Out :=
  vLanes 4 l vd [] anyType (fun _ _ => ((s.readS 0 sa).toNat, .none)) s

/-- VPERM: the index is limited to what its lane can hold (R199). -/
def execVperm (l : Bool) (vd va vb : Nat) (s : State) : Out :=
  vLanes 5 l vd [va, vb] anyType (fun h i =>
    let w := laneWidth h.ty
    (s.groupLane 0 va w (s.groupLane 1 vb w i % laneCount h.ty), .none)) s

/-- VLI: the immediate as an integer, or as the pattern of its value (R198). -/
def execVli (l : Bool) (vd imm : Nat) (s : State) : Out :=
  vLanes 4 l vd [] anyType (fun h _ =>
    (if isFp h.ty then ((fmtOf h.ty).rnd 0 (.ofFrac (sext imm 8) 1)).1 else patOf (laneWidth h.ty) (sext imm 8), .none)) s

/-- A vector compare: one bit for each lane into `pd`; disabled lanes keep or are zeroed, bits N and above are
zero (R158, R185, R196). -/
def vCmp (l : Bool) (pd va vb : Nat) (types : Nat → Bool) (f : Nat → Nat → Nat → Bool) (s : State) : Out :=
  let h := s.shape
  s.issue (vi 4 l) (fun s => s.vTraps (types h.ty) true 18 [va, vb]) fun s' =>
    let w := laneWidth h.ty
    let old := if h.merge then (s.readP 13 pd).toNat else 0
    s'.land 4 (.p pd) (packLanes 1 (laneCount h.ty) fun i =>
      if h.on i then (if f h.ty (s.groupLane 0 va w i) (s.groupLane 1 vb w i) then 1 else 0) else laneAt 1 old i)

/-- Equality and order in the type's own terms (R196). -/
def laneEq (ty a b : Nat) : Bool := if isFp ty then ((fmtOf ty).val a).eqv ((fmtOf ty).val b) else a == b
def laneLt (ty a b : Nat) : Bool :=
  if isFp ty then ((fmtOf ty).val a).lt ((fmtOf ty).val b) else decide (laneInt ty a < laneInt ty b)

/-- VCMP_EQ (R196). -/
def execVcmpEq (l : Bool) (pd va vb : Nat) (s : State) : Out := vCmp l pd va vb anyType laneEq s
/-- VCMP_NE (R196). -/
def execVcmpNe (l : Bool) (pd va vb : Nat) (s : State) : Out := vCmp l pd va vb anyType (fun t a b => !laneEq t a b) s
/-- VCMP_LT (R196). -/
def execVcmpLt (l : Bool) (pd va vb : Nat) (s : State) : Out := vCmp l pd va vb anyType laneLt s
/-- VCMP_LTU (R196). -/
def execVcmpLtu (l : Bool) (pd va vb : Nat) (s : State) : Out := vCmp l pd va vb isInt (fun _ a b => decide (a < b)) s
/-- VCMP_LE (R196). -/
def execVcmpLe (l : Bool) (pd va vb : Nat) (s : State) : Out :=
  vCmp l pd va vb anyType (fun t a b => laneLt t a b || laneEq t a b) s
/-- VCMP_LEU (R196). -/
def execVcmpLeu (l : Bool) (pd va vb : Nat) (s : State) : Out := vCmp l pd va vb isInt (fun _ a b => decide (a ≤ b)) s

/-- A reduction of the enabled lanes into lane 0, the others zero, MERGE ignored (R200). -/
def vRed (l : Bool) (vd va : Nat) (f : Shape → List Int → Nat × Ev) (s : State) : Out :=
  let h := s.shape
  s.issue (vi 7 l) (fun s => s.vTraps (isInt h.ty) true 18 [vd, va]) fun s' =>
    let w := laneWidth h.ty
    let xs := ((List.range (laneCount h.ty)).filter fun i => h.on i).map fun i => laneInt h.ty (s.groupLane 0 va w i)
    let r := f h xs
    (s'.landV 7 (s.phys vd) (r.1 % 2 ^ w)).countEvs h.tid [r.2] (s.cycle + s.core.bound 7)

/-- VRED_ADD (R200). -/
def execVredAdd (l : Bool) (vd va : Nat) (s : State) : Out :=
  vRed l vd va (fun h xs => deliver h h.ty (xs.foldl (· + ·) 0)) s
/-- VRED_MAX (R200). -/
def execVredMax (l : Bool) (vd va : Nat) (s : State) : Out :=
  vRed l vd va (fun h xs => (patOf (laneWidth h.ty) (xs.foldl (fun a b => max a b) (tyLo h.ty)), .none)) s
/-- VRED_MIN (R200). -/
def execVredMin (l : Bool) (vd va : Nat) (s : State) : Out :=
  vRed l vd va (fun h xs => (patOf (laneWidth h.ty) (xs.foldl (fun a b => min a b) (tyHi h.ty)), .none)) s

/-- The integer types of 4, 8 and 16 bits (R190). -/
def narrowType (ty : Nat) : Bool := isInt ty && laneWidth ty != 32

/-- A widening instruction: exact results of twice the width into a pair (R188, R201). -/
def vWiden (l : Bool) (vd va vb : Nat) (f : Int → Int → Int) (s : State) : Out :=
  let h := s.shape
  s.issue (vi 5 l) (fun s => s.vTraps (narrowType h.ty) true 18 (groupOf vd 2 ++ [va, vb])) fun s' =>
    let w := laneWidth h.ty
    s'.putLanes s 5 h vd (2 * w) (laneCount h.ty) fun i =>
      (patOf (2 * w) (f (laneInt h.ty (s.groupLane 0 va w i)) (laneInt h.ty (s.groupLane 1 vb w i))), .none)

/-- VWMUL (R201). -/
def execVwmul (l : Bool) (vd va vb : Nat) (s : State) : Out := vWiden l vd va vb (fun a b => a * b) s
/-- VWADD (R201). -/
def execVwadd (l : Bool) (vd va vb : Nat) (s : State) : Out := vWiden l vd va vb (fun a b => a + b) s

/-- VNARROW: the pair at va read at twice the width, delivered under SAT (R202). -/
def execVnarrow (l : Bool) (vd va : Nat) (s : State) : Out :=
  let h := s.shape
  s.issue (vi 5 l) (fun s => s.vTraps (narrowType h.ty) true 18 (vd :: groupOf va 2)) fun s' =>
    let w := laneWidth h.ty
    s'.putLanes s 5 h vd w (laneCount h.ty) fun i =>
      let b := s.groupLane 0 va (2 * w) i
      deliver h h.ty (if isSigned h.ty then sext b (2 * w) else (b : Int))

/-- VSHAPE (R203). -/
def execVshape (l : Bool) (sa : Nat) (s : State) : Out :=
  let x := (s.readS 0 sa).toNat
  s.issue (vi 4 l) (fun s => if x ≥ 2 ^ 24 then [s.operandTrap .v] else []) fun s' => s'.land 4 (.csr 0x2A) x

/-- VWIN: an exact sum (R204), in which sa counts as unsigned (DESIGN CHOICE, log 97). -/
def execVwin (l : Bool) (sa imm : Nat) (s : State) : Out :=
  let x := (s.readS 0 sa).toNat + 64 * imm
  s.issue (vi 4 l) (fun s => if x % 64 = 0 ∧ x ≤ 1024 then [] else [s.operandTrap .v]) fun s' =>
    s'.land 4 (.csr 0x28) x

/-- VROT: one rotation, and the stage predicates move one step (R20, R187, R205). -/
def execVrot (l : Bool) (s : State) : Out :=
  s.issue (vi 4 l) (fun _ => []) fun s' =>
    let s' := s'.land 4 (.csr 0x29) ((s.twist + 1) % 64) (tag := 1)
    let s' := s'.land 4 (.p 4) (s.readP 0 5).toNat (tag := 1)
    let s' := s'.land 4 (.p 5) (s.readP 0 6).toNat (tag := 1)
    s'.land 4 (.p 6) (s.readP 0 7).toNat (tag := 1)

end Sys2Proof.Machine
end

