-- ==== Sys2Proof/Machine/VLs.lean ====
section
/-! DEFINITION. Vector local store access (R153 to R156, R163). -/

namespace Sys2Proof.Machine

/-- The bytes of a lane of `w` bits in a range from `a`. -/
def laneBytes (a w l : Nat) : List Nat :=
  let lo := w * l / 8
  (List.range ((w * l + w - 1) / 8 + 1 - lo)).map fun i => a + lo + i

/-- The bytes that the enabled lanes of a shape touch in a range from `a`. -/
def Shape.bytes (h : Shape) (a : Nat) : List Nat :=
  ((List.range (laneCount h.ty)).filter fun l => h.on l).flatMap fun l => laneBytes a (laneWidth h.ty) l

/-- The address of `vld` and `vst`: an exact sum (R163). -/
def vmAddr (sa : Word) (imm : Nat) : Nat := sa.toNat + 64 * imm

/-- The causes of `vld` and `vst`: kind 0 write, 1 read. The domain and watchpoint checks cover the enabled bytes,
the banks the whole range (R153, R163, R364). -/
def State.vmTraps (s : State) (h : Shape) (v a kind : Nat) : List Trap :=
  let bad := decide (a % 64 ≠ 0) || decide (a + 511 > 0x1FFFFF)
  let bytes := h.bytes a
  s.vTrapsIn (anyLane h.ty) true (if bad then [18] else 18 :: (bytes.map lsDom).eraseDups) [v]
  ++ (if bad then [alignTrap .v a]
      else s.portTraps .v [s.portNow .v a 512] ++ s.watchTraps .v kind bytes)
where
  /-- Every listed element type. -/
  anyLane (ty : Nat) : Bool := decide (ty ≤ 10)

/-- VLD (R163). -/
def execVld (l : Bool) (v sa imm : Nat) (s : State) : Out :=
  let h := s.shape
  let a := vmAddr (s.readS 0 sa) imm
  s.issue (vi 6 l) (fun s => s.vmTraps h v a 1) fun s' =>
    let w := laneWidth h.ty
    let x := leNat (s.readLsN 0 a 512)
    (s'.usePorts [s.portNow .v a 512]).putLanes s 6 { h with tid := 0 } v w (laneCount h.ty) fun i =>
      (laneAt w x i, .none)

/-- The byte that `vst` leaves at offset `i` of its range, if any lane of it is enabled: a 4-bit lane that is
disabled keeps its half. -/
def State.vstByte (s : State) (h : Shape) (v a i : Nat) : Option Byte :=
  let w := laneWidth h.ty
  let x := (s.readV 0 (s.phys v)).toNat
  if w = 4 then
    let lo := h.on (2 * i)
    let hi := h.on (2 * i + 1)
    let old := if lo && hi then 0 else (s.readLs 0 (a + i)).toNat
    if lo || hi then
      some (BitVec.ofNat 8 (laneAt 4 (if lo then x else old * 2 ^ (8 * i)) (2 * i)
        + 16 * laneAt 4 (if hi then x else old * 2 ^ (8 * i)) (2 * i + 1)))
    else none
  else if h.on (i * 8 / w) then some (BitVec.ofNat 8 (laneAt 8 x i)) else none

/-- VST (R156, R163). -/
def execVst (l : Bool) (v sa imm : Nat) (s : State) : Out :=
  let h := s.shape
  let a := vmAddr (s.readS 0 sa) imm
  s.issue (vi 6 l) (fun s => s.vmTraps h v a 0) fun s' =>
    let ws := (List.range 512).filterMap fun i => (s.vstByte h v a i).map fun b => (a + i, b)
    (s'.usePorts [s.portNow .v a 512]).writeLsAt (s.cycle + s.core.bound 6) ws

/-! ### Indexed access -/

/-- The enabled lanes of a 32-bit shape with their addresses, read as UINT32 from `va`. -/
def State.laneAddrs (s : State) (h : Shape) (va : Nat) : List (Nat × Nat) :=
  ((List.range 128).filter fun l => h.on l).map fun l => (l, s.groupLane 0 va 32 l)

/-- The bytes of words at lane addresses. -/
def wordBytes (as : List (Nat × Nat)) : List Nat := as.flatMap fun e => [e.2, e.2 + 1, e.2 + 2, e.2 + 3]

/-- The core port of an indexed access: all banks (R153), for `vamo` three cycles (R155). -/
def State.portAll (s : State) (last : Nat) : PortUse := ⟨.v, s.cycle, s.cycle + last, allBanks⟩

/-- The causes of an indexed access (R163): the lowest enabled lane that is misaligned is reported. -/
def State.indexTraps (s : State) (okType : Bool) (names : List Nat) (as : List (Nat × Nat)) (last kind : Nat) :
    List Trap :=
  match as.find? fun e => decide (e.2 % 4 ≠ 0) || decide (e.2 > 0x1FFFFC) with
  | some e => s.vTrapsIn okType true [18] names ++ [alignTrap .v e.2] ++ s.portTraps .v [s.portAll last]
  | none =>
    s.vTrapsIn okType true (18 :: (as.map fun e => lsDom e.2).eraseDups) names
      ++ s.portTraps .v [s.portAll last] ++ s.watchTraps .v kind (wordBytes as)

/-- The types of `vldx` and `vstx`. -/
def indexType (ty : Nat) : Bool := ty == 4 || ty == 5 || ty == 8

/-- VLDX (R163). -/
def execVldx (l : Bool) (vd va : Nat) (s : State) : Out :=
  let h := s.shape
  let as := s.laneAddrs h va
  s.issue (vi 6 l) (fun s => s.indexTraps (indexType h.ty) [vd, va] as 0 1) fun s' =>
    (s'.usePorts [s.portAll 0]).putLanes s 6 h vd 32 128 fun i =>
      (leNat (s.readLsN 0 (s.groupLane 0 va 32 i) 4), .none)

/-- Words by address, the latest first: the value of one, else the local store's. -/
def State.wordAt (s : State) (ws : List (Nat × Nat)) (a : Nat) : Nat :=
  match ws.find? fun e => e.1 == a with
  | some e => e.2
  | none => leNat (s.readLsN 0 a 4)

/-- The byte writes of words, the latest first: one for each address. -/
def wordWrites (ws : List (Nat × Nat)) : List (Nat × Byte) :=
  let one (acc : List (Nat × Nat)) (e : Nat × Nat) := if acc.any (fun x => x.1 == e.1) then acc else acc ++ [e]
  (ws.foldl one []).flatMap fun e => cellsFrom e.1 (toBytes 4 e.2)

/-- VSTX: of lanes at one address the highest prevails (R163). -/
def execVstx (l : Bool) (vd va : Nat) (s : State) : Out :=
  let h := s.shape
  let as := s.laneAddrs h va
  s.issue (vi 6 l) (fun s => s.indexTraps (indexType h.ty) [vd, va] as 0 0) fun s' =>
    let ws := as.foldl (fun acc e => (e.2, s.groupLane 1 vd 32 e.1) :: acc) []
    (s'.usePorts [s.portAll 0]).writeLsAt (s.cycle + s.core.bound 6) (wordWrites ws)

/-- The lanes of a `vamo` in ascending order: the old word of each, and the words left, the latest first. -/
def State.vamoRun (s : State) (f : Nat → Nat → Nat) (vb : Nat) :
    List (Nat × Nat) → List (Nat × Nat) → List (Nat × Nat) → List (Nat × Nat) × List (Nat × Nat)
  | [], olds, ws => (olds, ws)
  | (lane, a) :: as, olds, ws =>
    let o := s.wordAt ws a
    s.vamoRun f vb as ((lane, o) :: olds) ((a, f o (s.groupLane 1 vb 32 lane)) :: ws)

/-- A `vamo` word: holds all banks in three cycles (R155, R163). -/
def vamo (l : Bool) (vd va vb : Nat) (types : Nat → Bool) (f : Nat → Nat → Nat → Nat) (s : State) : Out :=
  let h := s.shape
  let as := s.laneAddrs h va
  s.issue (vi 6 l) (fun s => s.indexTraps (types h.ty) [vd, va, vb] as 2 2) fun s' =>
    let r := s.vamoRun (f h.ty) vb as [] []
    let s' := (s'.usePorts [s.portAll 2]).writeLsAt (s.cycle + s.core.bound 6) (wordWrites r.2)
    s'.putLanes s 6 h vd 32 128 fun i => (((r.1.find? fun e => e.1 == i).map (·.2)).getD 0, .none)

/-- The types of `vamo.or`, `vamo.add`, `vamo.min` and `vamo.max`. -/
def int32Type (ty : Nat) : Bool := ty == 4 || ty == 5

/-- VAMO_OR (R163). -/
def execVamoOr (l : Bool) (vd va vb : Nat) (s : State) : Out :=
  vamo l vd va vb int32Type (fun _ o b => o ||| b) s
/-- VAMO_ADD (R163). -/
def execVamoAdd (l : Bool) (vd va vb : Nat) (s : State) : Out :=
  vamo l vd va vb int32Type (fun _ o b => (o + b) % 2 ^ 32) s
/-- VAMO_MIN (R163). -/
def execVamoMin (l : Bool) (vd va vb : Nat) (s : State) : Out :=
  vamo l vd va vb int32Type (fun ty o b => if laneInt ty o ≤ laneInt ty b then o else b) s
/-- VAMO_MAX (R163). -/
def execVamoMax (l : Bool) (vd va vb : Nat) (s : State) : Out :=
  vamo l vd va vb int32Type (fun ty o b => if laneInt ty b ≤ laneInt ty o then o else b) s

end Sys2Proof.Machine
end

