-- ==== Sys2Proof/Machine/Dispatch.lean ====
section
/-! DEFINITION. The one match over instructions: each arm calls its meaning. -/

namespace Sys2Proof.Machine

/-- What an instruction does to a state. -/
def exec (i : Instr) (s : State) : Host.Outcome State Fault Refusal :=
  match i with
  -- S strand: integer arithmetic (R275)
  | .add l sd sa sb g => Sys2Proof.Machine.execAdd l sd sa sb g s
  | .sub l sd sa sb g => Sys2Proof.Machine.execSub l sd sa sb g s
  | .and l sd sa sb g => Sys2Proof.Machine.execAnd l sd sa sb g s
  | .or l sd sa sb g => Sys2Proof.Machine.execOr l sd sa sb g s
  | .xor l sd sa sb g => Sys2Proof.Machine.execXor l sd sa sb g s
  | .andn l sd sa sb g => Sys2Proof.Machine.execAndn l sd sa sb g s
  | .shl l sd sa sb g => Sys2Proof.Machine.execShl l sd sa sb g s
  | .shr l sd sa sb g => Sys2Proof.Machine.execShr l sd sa sb g s
  | .sar l sd sa sb g => Sys2Proof.Machine.execSar l sd sa sb g s
  | .min l sd sa sb g => Sys2Proof.Machine.execMin l sd sa sb g s
  | .max l sd sa sb g => Sys2Proof.Machine.execMax l sd sa sb g s
  | .minu l sd sa sb g => Sys2Proof.Machine.execMinu l sd sa sb g s
  | .maxu l sd sa sb g => Sys2Proof.Machine.execMaxu l sd sa sb g s
  | .clz l sd sa g => Sys2Proof.Machine.execClz l sd sa g s
  | .ctz l sd sa g => Sys2Proof.Machine.execCtz l sd sa g s
  | .popc l sd sa g => Sys2Proof.Machine.execPopc l sd sa g s
  | .mul l sd sa sb g => Sys2Proof.Machine.execMul l sd sa sb g s
  | .mulh l sd sa sb g => Sys2Proof.Machine.execMulh l sd sa sb g s
  | .mulhu l sd sa sb g => Sys2Proof.Machine.execMulhu l sd sa sb g s
  | .div l sd sa sb g => Sys2Proof.Machine.execDiv l sd sa sb g s
  | .divu l sd sa sb g => Sys2Proof.Machine.execDivu l sd sa sb g s
  | .rem l sd sa sb g => Sys2Proof.Machine.execRem l sd sa sb g s
  | .remu l sd sa sb g => Sys2Proof.Machine.execRemu l sd sa sb g s
  -- compares, predicates and select (R276 to R278)
  | .cmpEq l pd sa sb g => Sys2Proof.Machine.execCmpEq l pd sa sb g s
  | .cmpNe l pd sa sb g => Sys2Proof.Machine.execCmpNe l pd sa sb g s
  | .cmpLt l pd sa sb g => Sys2Proof.Machine.execCmpLt l pd sa sb g s
  | .cmpLtu l pd sa sb g => Sys2Proof.Machine.execCmpLtu l pd sa sb g s
  | .cmpLe l pd sa sb g => Sys2Proof.Machine.execCmpLe l pd sa sb g s
  | .cmpLeu l pd sa sb g => Sys2Proof.Machine.execCmpLeu l pd sa sb g s
  | .pand l pd pa pb g => Sys2Proof.Machine.execPand l pd pa pb g s
  | .por l pd pa pb g => Sys2Proof.Machine.execPor l pd pa pb g s
  | .pxor l pd pa pb g => Sys2Proof.Machine.execPxor l pd pa pb g s
  | .pnot l pd pa g => Sys2Proof.Machine.execPnot l pd pa g s
  | .sel l sd sa sb g => Sys2Proof.Machine.execSel l sd sa sb g s
  -- power (R63, R64)
  | .wake l sa g => Sys2Proof.Machine.execWake l sa g s
  | .sleep l sa g => Sys2Proof.Machine.execSleep l sa g s
  | .retain l sa g => Sys2Proof.Machine.execRetain l sa g s
  | .pwait l sa g => Sys2Proof.Machine.execPwait l sa g s
  -- immediates and addresses (R279, R281)
  | .addi l sd sa imm => Sys2Proof.Machine.execAddi l sd sa imm s
  | .andi l sd sa imm => Sys2Proof.Machine.execAndi l sd sa imm s
  | .ori l sd sa imm => Sys2Proof.Machine.execOri l sd sa imm s
  | .xori l sd sa imm => Sys2Proof.Machine.execXori l sd sa imm s
  | .shli l sd sa k => Sys2Proof.Machine.execShli l sd sa k s
  | .shri l sd sa k => Sys2Proof.Machine.execShri l sd sa k s
  | .sari l sd sa k => Sys2Proof.Machine.execSari l sd sa k s
  | .lea l sd sa imm => Sys2Proof.Machine.execLea l sd sa imm s
  -- scalar LS access (R162)
  | .ldB l sd sa imm => Sys2Proof.Machine.execLdB l sd sa imm s
  | .ldH l sd sa imm => Sys2Proof.Machine.execLdH l sd sa imm s
  | .ldW l sd sa imm => Sys2Proof.Machine.execLdW l sd sa imm s
  | .ldD l sd sa imm => Sys2Proof.Machine.execLdD l sd sa imm s
  | .stB l sd sa imm => Sys2Proof.Machine.execStB l sd sa imm s
  | .stH l sd sa imm => Sys2Proof.Machine.execStH l sd sa imm s
  | .stW l sd sa imm => Sys2Proof.Machine.execStW l sd sa imm s
  | .stD l sd sa imm => Sys2Proof.Machine.execStD l sd sa imm s
  -- literals (R280)
  | .lit l sd g v32 => Sys2Proof.Machine.execLit l sd g v32 s
  | .litHi l sd sa g v32 => Sys2Proof.Machine.execLitHi l sd sa g v32 s
  -- control flow (R282 to R288, R291)
  | .br l p neg off => Sys2Proof.Machine.execBr l p neg off s
  | .jmp l off => Sys2Proof.Machine.execJmp l off s
  | .call l off => Sys2Proof.Machine.execCall l off s
  | .loop l countM1 nM1 => Sys2Proof.Machine.execLoop l countM1 nM1 s
  | .rpt l countM1 => Sys2Proof.Machine.execRpt l countM1 s
  | .gap l countM1 => Sys2Proof.Machine.execGap l countM1 s
  | .trap l code => Sys2Proof.Machine.execTrap l code s
  -- control registers (R161, R289)
  | .csrr l sd csr => Sys2Proof.Machine.execCsrr l sd csr s
  | .csrw l sa csr => Sys2Proof.Machine.execCsrw l sa csr s
  | .csrwLockmask l sa => Sys2Proof.Machine.execCsrwLockmask l sa s
  | .csrwTrapvec l sa => Sys2Proof.Machine.execCsrwTrapvec l sa s
  | .csrwVwb l sa => Sys2Proof.Machine.execCsrwVwb l sa s
  | .csrwTwist l sa => Sys2Proof.Machine.execCsrwTwist l sa s
  | .csrwVshape l sa => Sys2Proof.Machine.execCsrwVshape l sa s
  | .csrwCzlist l sa => Sys2Proof.Machine.execCsrwCzlist l sa s
  | .csrwAmax l sa m => Sys2Proof.Machine.execCsrwAmax l sa m s
  -- sys and sync majors (R290 to R302, R314)
  | .ret l => Sys2Proof.Machine.execRet l s
  | .markR l => Sys2Proof.Machine.execMarkR l s
  | .eret l => Sys2Proof.Machine.execEret l s
  | .eretR l => Sys2Proof.Machine.execEretR l s
  | .done l => Sys2Proof.Machine.execDone l s
  | .waitK l k => Sys2Proof.Machine.execWaitK l k s
  | .qmark l => Sys2Proof.Machine.execQmark l s
  | .pmark l sa => Sys2Proof.Machine.execPmark l sa s
  | .realign l n => Sys2Proof.Machine.execRealign l n s
  | .unalign l => Sys2Proof.Machine.execUnalign l s
  | .barArr l sa => Sys2Proof.Machine.execBarArr l sa s
  | .barWait l sa => Sys2Proof.Machine.execBarWait l sa s
  -- V strand: integer and logic (R192 to R202)
  | .vadd l vd va vb => Sys2Proof.Machine.execVadd l vd va vb s
  | .vsub l vd va vb => Sys2Proof.Machine.execVsub l vd va vb s
  | .vmul l vd va vb => Sys2Proof.Machine.execVmul l vd va vb s
  | .vmulh l vd va vb => Sys2Proof.Machine.execVmulh l vd va vb s
  | .vmulhu l vd va vb => Sys2Proof.Machine.execVmulhu l vd va vb s
  | .vmla l vd va vb => Sys2Proof.Machine.execVmla l vd va vb s
  | .vmin l vd va vb => Sys2Proof.Machine.execVmin l vd va vb s
  | .vmax l vd va vb => Sys2Proof.Machine.execVmax l vd va vb s
  | .vabs l vd va => Sys2Proof.Machine.execVabs l vd va s
  | .vneg l vd va => Sys2Proof.Machine.execVneg l vd va s
  | .vand l vd va vb => Sys2Proof.Machine.execVand l vd va vb s
  | .vor l vd va vb => Sys2Proof.Machine.execVor l vd va vb s
  | .vxor l vd va vb => Sys2Proof.Machine.execVxor l vd va vb s
  | .vandn l vd va vb => Sys2Proof.Machine.execVandn l vd va vb s
  | .vpopc l vd va => Sys2Proof.Machine.execVpopc l vd va s
  | .vshl l vd va vb => Sys2Proof.Machine.execVshl l vd va vb s
  | .vshr l vd va vb => Sys2Proof.Machine.execVshr l vd va vb s
  | .vsar l vd va vb => Sys2Proof.Machine.execVsar l vd va vb s
  | .vsel l vd va vb => Sys2Proof.Machine.execVsel l vd va vb s
  | .vmov l vd va => Sys2Proof.Machine.execVmov l vd va s
  | .vbcast l vd sa => Sys2Proof.Machine.execVbcast l vd sa s
  | .vperm l vd va vb => Sys2Proof.Machine.execVperm l vd va vb s
  | .vli l vd imm => Sys2Proof.Machine.execVli l vd imm s
  | .vcmpEq l pd va vb => Sys2Proof.Machine.execVcmpEq l pd va vb s
  | .vcmpNe l pd va vb => Sys2Proof.Machine.execVcmpNe l pd va vb s
  | .vcmpLt l pd va vb => Sys2Proof.Machine.execVcmpLt l pd va vb s
  | .vcmpLtu l pd va vb => Sys2Proof.Machine.execVcmpLtu l pd va vb s
  | .vcmpLe l pd va vb => Sys2Proof.Machine.execVcmpLe l pd va vb s
  | .vcmpLeu l pd va vb => Sys2Proof.Machine.execVcmpLeu l pd va vb s
  | .vredAdd l vd va => Sys2Proof.Machine.execVredAdd l vd va s
  | .vredMax l vd va => Sys2Proof.Machine.execVredMax l vd va s
  | .vredMin l vd va => Sys2Proof.Machine.execVredMin l vd va s
  | .vwmul l vd va vb => Sys2Proof.Machine.execVwmul l vd va vb s
  | .vwadd l vd va vb => Sys2Proof.Machine.execVwadd l vd va vb s
  | .vnarrow l vd va => Sys2Proof.Machine.execVnarrow l vd va s
  -- vector LS access (R163)
  | .vld l v sa imm => Sys2Proof.Machine.execVld l v sa imm s
  | .vst l v sa imm => Sys2Proof.Machine.execVst l v sa imm s
  | .vldx l vd va => Sys2Proof.Machine.execVldx l vd va s
  | .vstx l vd va => Sys2Proof.Machine.execVstx l vd va s
  | .vamoOr l vd va vb => Sys2Proof.Machine.execVamoOr l vd va vb s
  | .vamoAdd l vd va vb => Sys2Proof.Machine.execVamoAdd l vd va vb s
  | .vamoMin l vd va vb => Sys2Proof.Machine.execVamoMin l vd va vb s
  | .vamoMax l vd va vb => Sys2Proof.Machine.execVamoMax l vd va vb s
  -- shape, window, rotation (R203 to R205)
  | .vshape l sa => Sys2Proof.Machine.execVshape l sa s
  | .vwin l sa imm => Sys2Proof.Machine.execVwin l sa imm s
  | .vrot l => Sys2Proof.Machine.execVrot l s
  -- floating point, conversion, special functions, Welford (R208 to R215)
  | .vfadd l vd va vb => Sys2Proof.Machine.execVfadd l vd va vb s
  | .vfsub l vd va vb => Sys2Proof.Machine.execVfsub l vd va vb s
  | .vfmul l vd va vb => Sys2Proof.Machine.execVfmul l vd va vb s
  | .vfma l vd va vb => Sys2Proof.Machine.execVfma l vd va vb s
  | .vfmin l vd va vb => Sys2Proof.Machine.execVfmin l vd va vb s
  | .vfmax l vd va vb => Sys2Proof.Machine.execVfmax l vd va vb s
  | .vcvt l vd va t => Sys2Proof.Machine.execVcvt l vd va t s
  | .vcvtMx l vd va h amx fmt => Sys2Proof.Machine.execVcvtMx l vd va h amx fmt s
  | .vexp2 l vd va => Sys2Proof.Machine.execVexp2 l vd va s
  | .vlog2 l vd va => Sys2Proof.Machine.execVlog2 l vd va s
  | .vrcp l vd va => Sys2Proof.Machine.execVrcp l vd va s
  | .vrsqrt l vd va => Sys2Proof.Machine.execVrsqrt l vd va s
  | .vtanh l vd va => Sys2Proof.Machine.execVtanh l vd va s
  | .vwfUpd l vd va vb => Sys2Proof.Machine.execVwfUpd l vd va vb s
  | .vwfMrg l vd va vb => Sys2Proof.Machine.execVwfMrg l vd va vb s
  -- row engine (R217)
  | .rowmax l v sa => Sys2Proof.Machine.execRowmax l v sa s
  | .rowexp l v sa vc => Sys2Proof.Machine.execRowexp l v sa vc s
  | .rowscl l v sa => Sys2Proof.Machine.execRowscl l v sa s
  -- M strand: matrix (R236 to R242)
  | .mcfg l sa g => Sys2Proof.Machine.execMcfg l sa g s
  | .mstream l q sa g => Sys2Proof.Machine.execMstream l q sa g s
  | .mnest l n sa g => Sys2Proof.Machine.execMnest l n sa g s
  | .mgo l g t => Sys2Proof.Machine.execMgo l g t s
  | .mdrain l g => Sys2Proof.Machine.execMdrain l g s
  | .mzero l tile g => Sys2Proof.Machine.execMzero l tile g s
  | .mgang l mode g => Sys2Proof.Machine.execMgang l mode g s
  | .mstat l c sa sb g => Sys2Proof.Machine.execMstat l c sa sb g s
  -- grammar (R255 to R258)
  | .gset l sa g => Sys2Proof.Machine.execGset l sa g s
  | .gev l sa g => Sys2Proof.Machine.execGev l sa g s
  | .gout l sa sb g => Sys2Proof.Machine.execGout l sa sb g s
  | .gstat l c sb g => Sys2Proof.Machine.execGstat l c sb g s
  -- X strand: copies and scalar far accesses (R130 to R135, R149)
  | .xcopy l xa xb xc g t => Sys2Proof.Machine.execXcopy l xa xb xc g t s
  | .xblk l xa xb xc g t => Sys2Proof.Machine.execXblk l xa xb xc g t s
  | .xpak l xa xb xc g t => Sys2Proof.Machine.execXpak l xa xb xc g t s
  | .xunp l xa xb xc g t => Sys2Proof.Machine.execXunp l xa xb xc g t s
  | .xfld l xa xb w g t => Sys2Proof.Machine.execXfld l xa xb w g t s
  | .xfst l xa xb w g t => Sys2Proof.Machine.execXfst l xa xb w g t s
  -- far atomics (R133, R134)
  | .xamoAdd l xa xb xc g t => Sys2Proof.Machine.execXamoAdd l xa xb xc g t s
  | .xamoAnd l xa xb xc g t => Sys2Proof.Machine.execXamoAnd l xa xb xc g t s
  | .xamoOr l xa xb xc g t => Sys2Proof.Machine.execXamoOr l xa xb xc g t s
  | .xamoXor l xa xb xc g t => Sys2Proof.Machine.execXamoXor l xa xb xc g t s
  | .xamoMin l xa xb xc g t => Sys2Proof.Machine.execXamoMin l xa xb xc g t s
  | .xamoMax l xa xb xc g t => Sys2Proof.Machine.execXamoMax l xa xb xc g t s
  | .xamoMinu l xa xb xc g t => Sys2Proof.Machine.execXamoMinu l xa xb xc g t s
  | .xamoMaxu l xa xb xc g t => Sys2Proof.Machine.execXamoMaxu l xa xb xc g t s
  | .xvamoOr l v xa xb g t => Sys2Proof.Machine.execXvamoOr l v xa xb g t s
  | .xvamoAdd l v xa xb g t => Sys2Proof.Machine.execXvamoAdd l v xa xb g t s
  | .xvamoMin l v xa xb g t => Sys2Proof.Machine.execXvamoMin l v xa xb g t s
  | .xvamoMax l v xa xb g t => Sys2Proof.Machine.execXvamoMax l v xa xb g t s
  -- ownership (R102 to R113)
  | .ownLend l xa xb xc g t => Sys2Proof.Machine.execOwnLend l xa xb xc g t s
  | .ownRet l xa g t => Sys2Proof.Machine.execOwnRet l xa g t s
  | .ownSplit l xa g t => Sys2Proof.Machine.execOwnSplit l xa g t s
  | .ownJoin l xa g t => Sys2Proof.Machine.execOwnJoin l xa g t s
  | .ownQuery l xa xb g t => Sys2Proof.Machine.execOwnQuery l xa xb g t s
  | .ownReclaim l xa xb g t => Sys2Proof.Machine.execOwnReclaim l xa xb g t s
  -- send, recv, overlay, replay (R304, R135, R136)
  | .send l tag xa xb g => Sys2Proof.Machine.execSend l tag xa xb g s
  | .recv l tag xa xb g => Sys2Proof.Machine.execRecv l tag xa xb g s
  | .ovl l xa xb xc g t => Sys2Proof.Machine.execOvl l xa xb xc g t s
  | .replay l g t => Sys2Proof.Machine.execReplay l g t s
  -- steps of a core that no word encodes
  | .resultLanding k => Sys2Proof.Machine.execResultLanding k s
  | .lockEntryRelease => Sys2Proof.Machine.execLockEntryRelease s
  | .domainWakeComplete d parityFail => Sys2Proof.Machine.execDomainWakeComplete d parityFail s
  | .domainGating d => Sys2Proof.Machine.execDomainGating d s
  | .inrushRefill => Sys2Proof.Machine.execInrushRefill s
  | .queueCommandBegin q => Sys2Proof.Machine.execQueueCommandBegin q s
  | .farAccessAtHome q j ecc => Sys2Proof.Machine.execFarAccessAtHome q j ecc s
  | .commandCompletion q => Sys2Proof.Machine.execCommandCompletion q s
  | .guardedOffPush k => Sys2Proof.Machine.execGuardedOffPush k s
  | .waitKTokenTake => Sys2Proof.Machine.execWaitKTokenTake s
  | .ownershipQueueExecute => Sys2Proof.Machine.execOwnershipQueueExecute s
  | .crystallizerDispatch => Sys2Proof.Machine.execCrystallizerDispatch s
  | .czIdleOff die pan => Sys2Proof.Machine.execCzIdleOff die pan s
  | .vaultSubbankWake die pan bank parityFail => Sys2Proof.Machine.execVaultSubbankWake die pan bank parityFail s
  | .vaultSubbankSleep die pan bank retain => Sys2Proof.Machine.execVaultSubbankSleep die pan bank retain s
  | .backgroundScrub granule => Sys2Proof.Machine.execBackgroundScrub granule s
  | .nestStart => Sys2Proof.Machine.execNestStart s
  | .nestCompletion => Sys2Proof.Machine.execNestCompletion s
  | .grammarRuleEvaluation => Sys2Proof.Machine.execGrammarRuleEvaluation s
  | .gevCompletion => Sys2Proof.Machine.execGevCompletion s
  | .rowPassCompletion kind => Sys2Proof.Machine.execRowPassCompletion kind s
  | .phaseEnd k => Sys2Proof.Machine.execPhaseEnd k s
  | .alignedRegionBegin => Sys2Proof.Machine.execAlignedRegionBegin s
  | .alignedRegionTimeout => Sys2Proof.Machine.execAlignedRegionTimeout s
  | .sendDelivery => Sys2Proof.Machine.execSendDelivery s
  | .barrierEpisodeComplete ltag handle => Sys2Proof.Machine.execBarrierEpisodeComplete ltag handle s
  | .sluiceResume => Sys2Proof.Machine.execSluiceResume s
  | .impreciseTrapTaken => Sys2Proof.Machine.execImpreciseTrapTaken s
  | .watchdogExpiry => Sys2Proof.Machine.execWatchdogExpiry s
  | .dumpWrite team => Sys2Proof.Machine.execDumpWrite team s
  | .teamRetire team => Sys2Proof.Machine.execTeamRetire team s
  -- the loom
  | .preemption ltag cohort => Sys2Proof.Machine.execPreemption ltag cohort s
  | .contextSave team => Sys2Proof.Machine.execContextSave team s
  | .contextRestore ltag cohort => Sys2Proof.Machine.execContextRestore ltag cohort s
  | .requestSubmit aqi pasid bytes packet => Sys2Proof.Machine.execRequestSubmit aqi pasid bytes packet s
  | .launchStart node => Sys2Proof.Machine.execLaunchStart node s
  | .cohortStart ltag => Sys2Proof.Machine.execCohortStart ltag s
  | .transferNodeStart node => Sys2Proof.Machine.execTransferNodeStart node s
  | .transformNodeStart node => Sys2Proof.Machine.execTransformNodeStart node s
  | .signalNode node => Sys2Proof.Machine.execSignalNode node s
  | .waitNodeCheck node => Sys2Proof.Machine.execWaitNodeCheck node s
  | .nodeCompletion node => Sys2Proof.Machine.execNodeCompletion node s
  | .linkFailure die => Sys2Proof.Machine.execLinkFailure die s
  | .weftUnreachable dev => Sys2Proof.Machine.execWeftUnreachable dev s
  | .regionMove base ctx => Sys2Proof.Machine.execRegionMove base ctx s
  | .islandFrequencyChange die mhz => Sys2Proof.Machine.execIslandFrequencyChange die mhz s
  | .invalidationComplete => Sys2Proof.Machine.execInvalidationComplete s
  -- the host
  | .cxlMemAccess window off write => Sys2Proof.Machine.execCxlMemAccess window off write s
  | .eventWrite aqi => Sys2Proof.Machine.execEventWrite aqi s
  | .evtailWrite aqi value => Sys2Proof.Machine.execEvtailWrite aqi value s
  | .regionCreate m => Sys2Proof.Machine.execRegionCreate m s
  | .regionDestroy m => Sys2Proof.Machine.execRegionDestroy m s
  | .inval m => Sys2Proof.Machine.execInval m s
  | .dumpreg m => Sys2Proof.Machine.execDumpreg m s
  | .counters m => Sys2Proof.Machine.execCounters m s
  | .lend m => Sys2Proof.Machine.execLend m s
  | .hostReturn m => Sys2Proof.Machine.execReturn m s
  | .imgExport m => Sys2Proof.Machine.execImgExport m s
  | .imgImport m => Sys2Proof.Machine.execImgImport m s
  | .watch m => Sys2Proof.Machine.execWatch m s
  | .attest m => Sys2Proof.Machine.execAttest m s
  | .aqiBind m => Sys2Proof.Machine.execAqiBind m s
  | .aqiUnbind m => Sys2Proof.Machine.execAqiUnbind m s
  | .pasidSet m => Sys2Proof.Machine.execPasidSet m s
  | .pasidRevoke m => Sys2Proof.Machine.execPasidRevoke m s
  | .irqSet m => Sys2Proof.Machine.execIrqSet m s
  | .hdmBind m => Sys2Proof.Machine.execHdmBind m s
  | .devdump m => Sys2Proof.Machine.execDevdump m s
  | .power m => Sys2Proof.Machine.execPower m s
  | .weftId m => Sys2Proof.Machine.execWeftId m s
  | .deviceWideDump => Sys2Proof.Machine.execDeviceWideDump s
  -- the weft
  | .weftRead f => Sys2Proof.Machine.execWeftRead f s
  | .weftReadData f => Sys2Proof.Machine.execWeftReadData f s
  | .weftWrite f => Sys2Proof.Machine.execWeftWrite f s
  | .weftWriteAcknowledge f => Sys2Proof.Machine.execWeftWriteAcknowledge f s
  | .weftAtomic f => Sys2Proof.Machine.execWeftAtomic f s
  | .weftAtomicResult f => Sys2Proof.Machine.execWeftAtomicResult f s
  | .weftOwnership f => Sys2Proof.Machine.execWeftOwnership f s
  | .weftBarrier f => Sys2Proof.Machine.execWeftBarrier f s
  | .weftPause f => Sys2Proof.Machine.execWeftPause f s
  | .weftPauseExpiry lane => Sys2Proof.Machine.execWeftPauseExpiry lane s
  | .weftLoomControl f => Sys2Proof.Machine.execWeftLoomControl f s
  | .weftFlitDiscard f => Sys2Proof.Machine.execWeftFlitDiscard f s
  -- bring-up and the debugger
  | .deviceReset verified => Sys2Proof.Machine.execDeviceReset verified s
  | .selvedgeFirmwareStage verified => Sys2Proof.Machine.execSelvedgeFirmwareStage verified s
  | .loomSelfTest failing => Sys2Proof.Machine.execLoomSelfTest failing s
  | .linkTraining failing => Sys2Proof.Machine.execLinkTraining failing s
  | .aqi0Enable => Sys2Proof.Machine.execAqi0Enable s
  | .hostReset aqi => Sys2Proof.Machine.execHostReset aqi s
  | .debuggerHalt team => Sys2Proof.Machine.execDebuggerHalt team s
  | .debuggerRelease team => Sys2Proof.Machine.execDebuggerRelease team s

end Sys2Proof.Machine
end

