-- ==== Sys2Proof/Machine/Govel.lean ====
section
/-! DEFINITION. Govel code as Ozuth guarantees it (R371 to R375): the block that a core is in, its register operations with their
commit, its effect operations, its branch. Which of the core's cycles the translated code uses for them is open (log 63). -/

namespace Sys2Proof.Machine

/-! ### The native words of an operation (R373) -/

/-- Whether an operation writes only registers (R375); whether it is a branch. -/
def registerOnly (r : Nat) : Bool :=
  let op := gOp r
  match gStr r with
  | 0 => decide (op ≤ 5) || (decide (8 ≤ op) && decide (op ≤ 0x13)) || op == 0x18 || op == 0x20
  | 1 => decide (op ≤ 0x28) || op == 0x2A || (decide (0x38 ≤ op) && decide (op ≤ 0x3E)) || (decide (0x40 ≤ op) && decide (op ≤ 0x48))
  | 2 => op == 8 || op == 0xC
  | _ => false
def branches (r : Nat) : Bool := gStr r == 0 && (gOp r == 0x19 || gOp r == 0x1A)

/-- The native words of an operation that is no branch: its destination and the registers of its slots take the fields of the native
word, the slots the source fields from the highest down (DESIGN CHOICE, log 94). -/
def nativeWords (r d a b c : Nat) : Nat × Nat :=
  let op := gOp r
  let fn := gFn r
  let imm := gImm r
  match gStr r with
  | 0 =>
    let w := 2 ^ 25 * op
    if op ≤ 5 then (w + 2 ^ 19 * d + 2 ^ 13 * a + 2 ^ 7 * b + 2 ^ 4 * (c % 8) + fn, 0)
    else if op = 6 then (w + 2 ^ 13 * a + fn, 0)
    else if op ≤ 0x13 then (w + 2 ^ 19 * d + 2 ^ 13 * a + imm % 2 ^ 13, 0)
    else if op ≤ 0x17 then (w + 2 ^ 19 * a + 2 ^ 13 * b + imm % 2 ^ 13, 0)
    else if op = 0x18 then (w + 2 ^ 19 * d + 2 ^ 13 * a + fn, imm)
    else if op = 0x1F then (w + imm % 2 ^ 13, 0)
    else if op = 0x20 then (w + 2 ^ 19 * d + fn, 0)
    else (w + 2 ^ 13 * a + fn, 0)
  | 1 =>
    let w := 2 ^ 24 * op
    if op = 0x17 then (w + 2 ^ 16 * d + imm % 2 ^ 8, 0)
    else if op = 0x3E ∨ op = 0x3F then (w + 2 ^ 16 * d + 2 ^ 8 * a + fn, 0)
    else if op = 0x15 ∨ op = 0x28 then (w + 2 ^ 16 * d + 2 ^ 10 * a + imm % 2 ^ 10, 0)
    else if op = 0x29 then (w + 2 ^ 16 * a + 2 ^ 10 * b + imm % 2 ^ 10, 0)
    else if op = 0x30 ∨ op = 0x31 then (w + 2 ^ 10 * a + imm % 2 ^ 10, 0)
    else if op = 0x48 then (w + 2 ^ 16 * d + 2 ^ 10 * b, 0)
    else if op = 0x49 ∨ op = 0x4A then (w + 2 ^ 16 * a + 2 ^ 10 * b + c, 0)
    else if op = 0x2B then (w + 2 ^ 16 * a + 2 ^ 8 * b, 0)
    else (w + 2 ^ 16 * d + 2 ^ 8 * a + b, 0)
  | 2 => (2 ^ 26 * op + 2 ^ 22 * fn + 2 ^ 16 * a + 2 ^ 10 * (if op = 8 ∨ op = 0xC then d else b), 2 ^ 16 * bits r 85 70)
  | _ =>
    let w := 2 ^ 25 * op
    let tok := 2 ^ 16 * bits r 85 70
    if op = 5 then (w + 2 ^ 19 * d + 2 ^ 13 * a + 2 ^ 7 * fn, tok)
    else if op = 6 then (w + 2 ^ 19 * a + 2 ^ 13 * b + 2 ^ 7 * fn, tok)
    else if op = 7 then (w + 2 ^ 19 * d + 2 ^ 13 * a + 2 ^ 7 * b + fn, tok)
    else if 8 ≤ op ∧ op ≤ 0xB then (w + 2 ^ 17 * a + 2 ^ 11 * b + 2 ^ 5 * c, tok)
    else if op = 0x14 ∨ op = 0x15 then (w + 2 ^ 19 * d + 2 ^ 13 * a, tok)
    else (w + 2 ^ 19 * a + 2 ^ 13 * b + 2 ^ 7 * c, tok)

/-- The instruction of an operation with its registers. -/
def nativeInstr (r d a b c : Nat) : Option Instr :=
  let w := nativeWords r d a b c
  (decodeWords (strandOf (gStr r)) w.1 w.2).toOption

/-- The state in which a strand's word of the bundle runs: `rest` issue after it; each strand has free values of its
own. -/
def State.ready (s : State) (st : Strand) (rest : List Strand) : State :=
  { s with phase := .issue rest, trapped := none, fresh := s.fresh + st.num }

/-! ### Slots and results (R373, R375) -/

/-- The translator's register that takes what a producer feeds into a slot, and the destination of an operation without one. -/
def slotReg (r k : Nat) : Nat :=
  match govelFile r false k with
  | 0 => 48 + k
  | 1 => if gStr r = 0 ∧ gOp r = 5 ∧ gFn r = 4 then 7 else 12 + k
  | _ => 192 + 16 * k
def destReg (r : Nat) : Nat :=
  if gDst r ≠ 0xFF then gDst r
  else match govelFile r true 0 with
    | 0 => if gStr r = 3 then 0 else 62
    | 1 => 15
    | _ => 252

/-- Writes what a producer fed into a slot: a scalar, a predicate, or a group of vector registers (R373). -/
def State.feed (s : State) (file n : Nat) (values : List Nat) : State :=
  ((List.range values.length).zip values).foldl (fun s e => s.onCore fun c =>
    c.store (match file with
      | 0 => .s n
      | 1 => .p n
      | _ => .v (s.phys (n + e.1))) e.2) s

/-- The register of a slot: what its producer fed, if one feeds it, in a register of the translator; else the one that SRC names. -/
def State.slot (s : State) (rs : List Nat) (fed : List (Nat × Nat × List Nat)) (i k : Nat) : State × Nat :=
  let r := rs.getD i 0
  if (govelFed rs).contains (i, k) then
    let values := ((fed.find? fun e => e.1 == i && e.2.1 == k).map (·.2.2)).getD
      [(s.free (slotOf 15 3 (4 * i + k)) 4096).toNat]
    (s.feed (govelFile r false k) (slotReg r k) values, slotReg r k)
  else (s, if (gSrc r).getD k 0xFF = 0xFF then 0 else (gSrc r).getD k 0)

/-- An operation with its slots' registers in place, and its instruction. -/
def State.placed (s : State) (rs : List Nat) (fed : List (Nat × Nat × List Nat)) (i : Nat) : State × Option Instr :=
  let r := rs.getD i 0
  let (s, a) := s.slot rs fed i 0
  let (s, b) := s.slot rs fed i 1
  let (s, c) := s.slot rs fed i 2
  (s, nativeInstr r (destReg r) a b c)

/-- The row passes of a state have read all their chunks: a result that the commit waits for. -/
def State.finishRows (s : State) : State :=
  let one (s : State) (p : RowPass) : State :=
    let p' := (List.range (p.rows.rows * p.rows.chunks)).foldl (fun (p : RowPass) _ => { p with got := p.got ++ [s.rowChunk p] }) p
    let s := s.onCore fun c => ({ c with rows := [p'] }).rowDone p'
    s.onCore fun c => { c with
      rows := [], counts := c.counts ++ (c.rows.map fun p => ⟨p.tid, p.sat, p.ftz, p.nan, p.issue, p.due⟩) }
  s.core.rows.foldl one s

/-- The values that a producer's results give to a slot: the register of its destination, or the registers of its group. -/
def State.fedValues (s : State) (r : Nat) (out : List Landing) : List Nat :=
  let value (d : Dest) : Option Nat := (out.find? fun l => l.dest == d).map (·.value)
  match govelFile r true 0 with
  | 0 => (value (.s (destReg r))).toList
  | 1 => (value (.p (destReg r))).toList
  | _ => ((List.range 4).map fun k => value (.v (s.phys (destReg r + k)))).filterMap id

/-- What the register operations of a block have come to: the values fed, the writes to commit, statistic events, the first cause. -/
structure Commit where
  fed : List (Nat × Nat × List Nat)
  out : List (Dest × Nat)
  counts : List Counts
  trap : Option Trap

/-- One register operation, on the registers as they stood at block entry: its native effect (R375). -/
def State.evalOp (s : State) (rs : List Nat) (m : Commit) (i : Nat) : Commit :=
  let r := rs.getD i 0
  if m.trap.isSome ∨ !registerOnly r then m
  else match s.placed rs m.fed i with
    | (_, none) => m
    | (s1, some ins) =>
      let s2 := match exec ins (s1.ready (strandOf (gStr r)) []) with
        | .next s2 => s2
        | _ => s1
      match s2.trapped with
      | some t => { m with trap := some t }
      | none =>
        let c := s2.finishRows.core
        let feeds (k : Nat) : Option (Nat × Nat × List Nat) :=
          if bitOf k 9 then some (bits k 6 0, bits k 8 7, s1.fedValues r c.pend) else none
        { m with
          fed := m.fed ++ (gCons r).filterMap feeds
          out := m.out ++ if gDst r = 0xFF then [] else c.pend.map fun l => (l.dest, l.value)
          counts := m.counts ++ c.counts.drop s.core.counts.length }

/-! ### Where a core stands in Govel code (R375) -/

/-- The block that a core runs. -/
def State.govelBlock (s : State) (g : Govel) : Option (Nat × List Nat) :=
  ((s.launchAt s.myTag).map (·.blocks)).bind fun bs => bs[g.block]?

/-- Whether a core runs Govel code now: in handler mode it runs the trap section. -/
def Core.inGovel (c : Core) : Bool := c.govel.isSome && c.handler.isNone

/-- The next effect operation of a block from a place on. -/
def nextEffect (rs : List Nat) (at_ : Nat) : Option Nat :=
  (List.range rs.length).find? fun i => decide (at_ ≤ i) && !registerOnly (rs.getD i 0) && !branches (rs.getD i 0)

/-- The offsets at which strands stand in the translated code are Ozuth's (R375). -/
def State.anyPcs (s : State) : State :=
  let pc (st : Strand) : Nat :=
    sectionBase.getD st.num 0 + 4 * (s.pick (slotOf 15 4 st.num) (max 1 (s.core.lens.getD st.num 0) - 1))
  let thr (t : Threads) : Threads :=
    ⟨{ t.s with pc := pc .s }, { t.v with pc := pc .v }, { t.m with pc := pc .m }, { t.x with pc := pc .x }⟩
  s.onCore fun c => { c with thr := thr c.thr }

/-- A block's register operations and its commit, in one cycle, between the two restart points; a cause leaves every register as at
block entry (R375). -/
def State.govelCommit (s : State) (g : Govel) (rs : List Nat) : State :=
  let s := s.markPoint s
  let m := (List.range rs.length).foldl (s.evalOp rs) ⟨[], [], [], none⟩
  match m.trap with
  | some t => s.takeTrap t
  | none =>
    let c := m.out.foldl (fun c e => c.store e.1 e.2) s.core
    let g := { g with past := true, at_ := 0, wait := false, fed := m.fed }
    let s := { s with core := { c with counts := c.counts ++ m.counts, govel := some g } }
    s.markPoint s

/-- An effect operation, by its native rules (R375). -/
def State.govelEffect (s : State) (g : Govel) (rs : List Nat) (i : Nat) : State :=
  match s.placed rs g.fed i with
  | (_, none) => s
  | (s, some ins) =>
    let s' := match exec ins (s.ready (strandOf (gStr (rs.getD i 0))) []) with
      | .next s' => s'
      | _ => s
    if s'.trapped.isSome then s'
    else s'.onCore fun c => { c with
      govel := some (if c.hold = .none then { g with at_ := i + 1, wait := false } else { g with at_ := i, wait := true }) }

/-- The end of a block: its branch, or the block that follows (R372, R375). -/
def State.govelBranch (s : State) (g : Govel) (next : Nat) (rs : List Nat) : State :=
  let i := rs.length - 1
  let r := rs.getD i 0
  let (s', p) := s.slot rs g.fed i 0
  let taken := branches r && (gOp r == 0x1A || s'.readP0 0 p)
  let s := if taken then s.ring 1 0 (s.free (slotOf 15 5 0) 50).toNat else s
  s.onCore fun c => { c with govel := some ⟨if taken then gImm r else next, false, 0, false, []⟩ }

/-- What Govel code does in a cycle in which it goes on: a block's commit, its next effect operation, or its end (R375). -/
def State.govelGo (s : State) (g : Govel) (next : Nat) (rs : List Nat) : State :=
  let s := s.anyPcs
  if !g.past then s.govelCommit g rs
  else match nextEffect rs g.at_ with
    | some i => s.govelEffect g rs i
    | none => s.govelBranch g next rs

/-- One step of Govel code, if the translated code has one in this cycle; results in flight land before it (R375). -/
def State.govelStep (s : State) : State :=
  let c := s.core
  let quiet := c.pend == [] && c.lsPend == [] && c.counts == [] && c.rows == [] && c.gev.isNone && c.gevEnds == []
  match c.govel with
  | none => s
  | some g =>
    match s.govelBlock g with
    | none => s
    | some (next, rs) =>
      if !quiet ∨ s.flip (slotOf 15 6 0) then s else s.govelGo g next rs

end Sys2Proof.Machine
end

