-- ==== Sys2Proof/Machine/Cycle.lean ====
section
/-! DEFINITION. The cycle (R17, R26, R33, R34, R41, R71, R295, R302, R337 to R340, R345, R354): fetching, the causes of a
bundle, the boundary in front of a core's cycle, its end, and the asynchronous steps that follow. -/

namespace Sys2Proof.Machine

/-- The next state of an outcome; a state stays where there is none. -/
def nextOf (s : State) : Out → State
  | .next s' => s'
  | _ => s

/-- Free values of later steps are others (log 4). -/
def State.refresh (s : State) (n : Nat) : State := { s with fresh := s.fresh + n }

/-! ### Fetching (R26, R33, R34, R51) -/

/-- The bytes that a strand fetches: its next word and the one after it. -/
def State.fetchBytes (s : State) (st : Strand) : List Byte :=
  let t := s.core.thr.get st
  Sys2Proof.wordBytes (s.core.fetch t t.pc).toNat ++ Sys2Proof.wordBytes (s.core.fetch t (t.pc + 4)).toNat

/-- The condition number of a word that does not decode (R344); a zero word beyond the declared length has its own
(R34). -/
def condOf (beyond : Bool) : DecErr → Nat
  | .opcode => if beyond then 11 else 0
  | .subfn => 1
  | .reserved => 2
  | .token => 3
  | .csr => 4
  | .realign => 5
  | .operand => 9
  | .short => 0

/-- Whether a strand's next word is a zero beyond the length its section declares, which no `ovl` has written (R34). -/
def State.pastEnd (s : State) (st : Strand) : Bool :=
  let k := s.core.sectionOf st
  let t := s.core.thr.get st
  s.nowWord st == 0 && decide (t.pc ≥ sectionBase.getD k 0 + 4 * s.core.lens.getD k 0)
    && !look false s.core.ovlAt (t.pc / 4)

/-- Whether the words that a strand has next lie in its section, a trailing word too (R26, R33). -/
def State.fetchOk (s : State) (st : Strand) : Bool :=
  let k := s.core.sectionOf st
  let pc := (s.core.thr.get st).pc
  inSection k pc && (!hasTrail st (s.nowWord st) || inSection k (pc + 4))

/-- The instruction that a strand has next, or its illegal-encoding trap (R26, R51). -/
def State.decodeAt (s : State) (st : Strand) : Except Trap Instr :=
  if !s.fetchOk st then .error (s.illegal st 10)
  else match decode st (s.fetchBytes st) with
    | .ok (i, _) => .ok i
    | .error e => .error (s.illegal st (condOf (s.pastEnd st) e))

/-! ### Issuing (R337) -/

/-- The state after a word, the bundle's free values as before it. -/
def settle (fresh : Nat) : Out → Out
  | .next s => .next { s with fresh := fresh }
  | o => o

/-- One word of the bundle issues; one that does not decode traps (R51, R337). -/
def State.issueWord (s : State) (st : Strand) (rest : List Strand) : Out :=
  match s.decodeAt st with
  | .ok i => settle s.fresh (exec i (s.ready st rest))
  | .error t => settle s.fresh (.next ((s.ready st rest).takeTrap t))

/-! ### The causes of a bundle (R154, R303, R337, R338) -/

/-- The cause before issue that a strand's word has, tried on the state in front of the bundle. -/
def State.wordCause (s : State) (st : Strand) : Option Trap :=
  match s.decodeAt st with
  | .error t => some t
  | .ok i => (nextOf s (exec i (s.ready st []))).trapped.filter fun t => decide (t.code < 12)

/-- A core on which nothing keeps a word from the core port, but for a busy evaluator: a `gev` that finds it busy does
not issue, and claims no bank (R249, as the example of R258 has it). -/
def Core.unmet (c : Core) : Core :=
  let idle (q : Queue) : Queue := { q with cmds := [] }
  let open_ (w : Window) : Window := { w with banks := [], tile := none }
  { c with
    ports := []
    opens := c.opens.map open_
    wp := []
    rows := []
    ldq := idle c.ldq
    stq := idle c.stq
    mxq := idle c.mxq }

/-- What a strand's word would take of the core port: its accesses, and the bank set of a nest (R153, R229). -/
structure Claim where
  uses : List PortUse
  nest : List PortUse

/-- The claim of a strand's word. -/
def State.portsOf (s : State) (st : Strand) : Claim :=
  match s.decodeAt st with
  | .error _ => ⟨[], []⟩
  | .ok i =>
    let c := (nextOf s (exec i ({ s with core := s.core.unmet }.ready st []))).core
    let nest (w : Window) : PortUse := ⟨.m, w.from_, w.from_ + 2 ^ 64, w.banks⟩
    ⟨c.ports, ((c.opens.drop s.core.opens.length).filter fun w => w.banks != []).map nest⟩

/-- The banks at which two sets of accesses meet. -/
def meetBanks (us vs : List PortUse) : List Nat :=
  us.flatMap fun u => vs.flatMap fun v =>
    if u.fr ≤ v.upTo ∧ v.fr ≤ u.upTo then u.banks.filter fun b => v.banks.contains b else []

/-- A meeting on the core port: the bank, the strands whose words then do not issue, the strands that meet. -/
structure Meet where
  bank : Nat
  words : List Strand
  who : List Strand
deriving DecidableEq, Repr

/-- The meetings of a claim with what is under way: one nest's bank set does not meet another's, as nests run one after
another (R227 to R229, log 10). -/
def Core.meetsClaim (c : Core) (u : Claim) : List (Nat × Strand) := u.uses.flatMap c.meets ++ u.nest.flatMap c.meetsPorts

/-- The meetings of a bundle's words with accesses under way and with one another (R154). -/
def State.bundleMeets (s : State) (sts : List Strand) : List Meet :=
  let claims := sts.map fun st => (st, s.portsOf st)
  let later (st : Strand) := claims.filter fun f => decide (st.num < f.1.num)
  claims.flatMap fun e =>
    (s.core.meetsClaim e.2).map (fun m => ⟨m.1, [e.1], [e.1, m.2]⟩)
    ++ (later e.1).flatMap fun f =>
      (meetBanks (e.2.uses ++ e.2.nest) (f.2.uses ++ f.2.nest)).map fun b => ⟨b, [e.1, f.1], [e.1, f.1]⟩

/-- The bank-conflict trap of a bundle for the word of a strand: the lowest bank of all its meetings (R154). -/
def conflictTrap (ms : List Meet) (st : Strand) : Trap :=
  let b := (least (ms.map (·.bank))).getD 0
  let xy := lowTwo (((ms.filter fun m => m.bank == b).flatMap fun m => m.who.map Strand.num).eraseDups)
  ⟨8, info st.num (2 ^ 10 * xy.2 + 2 ^ 8 * xy.1 + b)⟩

/-- The cause of one strand's word among the bundle's: its own, or a meeting on the core port (R154, R338). -/
def State.causeIn (s : State) (ms : List Meet) (st : Strand) : List Trap :=
  let own := (s.wordCause st).toList
  if ms.any (fun m => m.words.contains st) ∧ own.all (fun t => decide (t.code ≥ 8)) then [conflictTrap ms st] else own

/-- The cause of the bundle, if any word has one; a lock entry that would hold inside a region is one (R303, R337,
R338). -/
def State.bundleTrap (s : State) : Option Trap :=
  if s.core.inGovel then none else
  let order := [Strand.s, .v, .m, .x]
  let sts := order.filter s.bundle.contains
  let ms := s.bundleMeets sts
  let held (st : Strand) : Bool := s.atEntry st && !s.entryOpen && s.core.region.isSome
  firstCause (order.flatMap fun st =>
    if sts.contains st then s.causeIn ms st else if held st then [timingTrap st.num 8] else [])

/-! ### The boundary in front of a core's cycle -/

/-- The first result in flight that lands now: registers, then LS bytes, then events (R17, R42, R156, R179). -/
def State.landsNow (s : State) : Option Nat :=
  let c := s.core
  match c.pend.findIdx? fun l => c.mayLand l.due s.cycle && c.landable s.cycle l with
  | some k => some k
  | none => match c.lsPend.findIdx? fun w => c.mayLand w.due s.cycle && c.lsLandable s.cycle w with
    | some k => some (c.pend.length + k)
    | none => (c.counts.findIdx? fun e => c.mayLand e.due s.cycle).map fun k => c.pend.length + c.lsPend.length + k

/-- The first domain whose wake ends now (R63). -/
def State.wakesNow (s : State) : Option Nat :=
  (s.core.dom.find? fun e => match e.2 with
    | .waking t _ => decide (t ≤ s.cycle)
    | _ => false).map (·.1)

/-- Whether the resident team is about to be pre-empted; whether this core has stopped for it; whether a debugger has
halted the team (R334, R354). -/
def State.yielding (s : State) : Bool := (s.team.map fun t => decide (t.status = .draining)).getD false
def State.draining (s : State) : Bool := s.yielding && s.core.stopped
def State.halted (s : State) : Bool := (s.team.map (·.halted)).getD false

/-- Whether the evaluator leaves a segment now, or a segment's results land (R249). -/
def State.gevEnds (s : State) : Bool :=
  (match s.core.gevEnds with
    | g :: _ => s.core.mayLand g.due s.cycle
    | [] => false)
  || match s.core.gev with
    | some g => !s.draining && decide (g.done = g.n) && decide (g.issue + g.occ + g.late ≤ s.cycle)
    | none => false

/-- What comes about by itself at a boundary, one thing at a time. -/
def State.landing (s : State) : Option Instr :=
  match s.landsNow with
  | some k => some (.resultLanding k)
  | none =>
    match if s.draining then none else s.wakesNow with
    | some d => some (.domainWakeComplete d (s.flip (slotOf 11 0 d)))
    | none =>
      match s.core.rows.find? fun p => decide (p.busy ≤ s.cycle) && p.finished && s.core.mayLand p.due s.cycle with
      | some p => some (.rowPassCompletion p.kind)
      | none => if s.gevEnds then some .gevCompletion else none

/-- The step that ends a hold in this cycle, if one does (R64, R297, R301, R314). -/
def State.holdEnd (s : State) : Option State :=
  match s.core.hold with
  | .none => none
  | .waitK k => if s.core.tokens k = 0 then none else some { nextOf s (exec .waitKTokenTake s) with phase := .issue [] }
  | .pwait m => if s.core.allOnBy m s.cycle then some s.endHold else none
  | .realign n => if s.cycle % 2 ^ n = 0 then some (nextOf s (exec .alignedRegionBegin s)) else none
  | .barWait h =>
    match s.myBarrier (BitVec.ofNat 64 h) with
    | some b => if s.released b (s.core.arrivalOf h) then some (nextOf s (exec .sluiceResume s)) else none
    | none => none

/-- The trap that is due at a boundary before any bundle: the watchdog, a cause that arose after issue, a region open
too long (R302, R334, R339). A cause of a cycle whose boundary has taken a trap already is not reported again. -/
def State.dueTrap (s : State) : Option State :=
  let c := s.core
  let wdog := (s.team.map fun t => decide (t.wdog = 0) && t.fatal.isNone).getD false
  if wdog then some (nextOf s (exec .watchdogExpiry s))
  else if c.stopped then none
  else match c.after with
    | t :: _ =>
      let s' := s.onCore fun c => { c with after := [] }
      some (if c.isDone ∨ c.tookAt = s.cycle then s' else s'.takeTrap t)
    | [] =>
      match c.region with
      | some t => if s.cycle ≥ t + 65536 then some (nextOf s (exec .alignedRegionTimeout s)) else none
      | none => none

/-- The boundary with nothing due before the bundle: its cause, an imprecise trap, the end of a hold, or the bundle
issues, or Govel code goes on (R337, R340, R345, R375). -/
def State.issueOrTrap (s : State) : State :=
  match s.bundleTrap with
  | some t => (s.takeTrap t).refresh 1
  | none =>
    if s.core.impr ≠ [] ∧ s.core.handler.isNone ∧ !s.core.isDone then (nextOf s (exec .impreciseTrapTaken s)).refresh 1
    else match s.holdEnd with
      | some s' => s'.refresh 1
      | none =>
        if s.core.inGovel then
          let s := if s.core.isDone ∨ s.core.hold ≠ .none then s else s.govelStep
          { s with phase := .issue [] }.refresh 1
        else if s.entryOpen && [Strand.s, .v, .m, .x].any s.atEntry then nextOf s (exec .lockEntryRelease s)
        else { s with phase := .issue s.bundle }

/-- A boundary of a core whose team is to be pre-empted: in an aligned region the pre-emption waits (R302); a trap due there
comes first, and the pre-emption is taken at the next boundary; a core that has issued `done` stops with its gang (R293); else
it stops here (R354). -/
def State.lastBoundary (s : State) : State :=
  let tookOne := decide (s.core.tookAt = s.cycle)
  let imprecise := decide (s.core.impr ≠ []) && s.core.handler.isNone
  if s.core.isDone || s.core.region.isSome || tookOne || s.bundleTrap.isSome || imprecise then s.issueOrTrap
  else s.onCore fun c => c.stopFor s.cycle

/-- Whether a fatal trap of the team stops issue on this core: at the first boundary after the trap's, and at the watchdog's
own, which every core of the team has (R334, R349). -/
def State.ending (s : State) : Bool :=
  (s.team.map fun t => (t.fatal.map fun f =>
    decide (f.tick < s.cycle) || (f.code == 24 && decide (f.tick ≤ s.cycle))).getD false).getD false

/-- One step at the boundary in front of the focus core's cycle. -/
def State.boundary (s : State) : State :=
  if s.core.team.isNone then { s with phase := .issue [] }
  else match s.landing with
    | some i => (nextOf s (exec i s)).refresh 1
    | none =>
      if s.halted then { s with phase := .issue [] }
      else if s.ending ∧ !s.core.stopped then s.onCore fun c => { c with stopped := true }
      else match s.dueTrap with
        | some s' => s'.refresh 1
        | none =>
          if s.core.stopped then { s with phase := .issue [] }
          else if s.yielding then s.lastBoundary
          else s.issueOrTrap

/-! ### The end of a core's cycle -/

/-- The core's cycle ends: the evaluator's rule and the row passes' chunks of this cycle, deliveries that no `recv` took; the next core has its
cycle, and after the last come the asynchronous steps (R218, R247, R305). -/
def State.coreEnd (s : State) : State :=
  let s := if s.core.team.isNone ∨ s.draining then s else nextOf s (exec .grammarRuleEvaluation s)
  let s := s.rowSlots
  let s := nextOf s (exec .sendDelivery s)
  let s := match s.others with
    | [] => s
    | c :: cs => { s with core := c, others := cs ++ [s.core] }
  { s with turn := s.turn - 1, fresh := s.fresh + 4, phase := if s.turn ≤ 1 then .async else .boundary }

/-! ### Asynchronous steps (R71) -/

/-- Steps that come from outside: the host's, the weft's, bring-up's, the debugger's, and failures of hardware. -/
def isInput : Instr → Bool
  | .requestSubmit _ _ _ _ | .linkFailure _ | .islandFrequencyChange _ _ | .cxlMemAccess _ _ _ | .evtailWrite _ _
  | .regionCreate _ | .regionDestroy _ | .inval _ | .dumpreg _ | .counters _ | .lend _ | .hostReturn _ | .imgExport _
  | .imgImport _ | .watch _ | .attest _ | .aqiBind _ | .aqiUnbind _ | .pasidSet _ | .pasidRevoke _ | .irqSet _
  | .hdmBind _ | .devdump _ | .power _ | .weftId _ | .deviceWideDump | .weftRead _ | .weftReadData _ | .weftWrite _
  | .weftWriteAcknowledge _ | .weftAtomic _ | .weftAtomicResult _ | .weftOwnership _ | .weftBarrier _ | .weftPause _
  | .weftPauseExpiry _ | .weftLoomControl _ | .weftFlitDiscard _ | .deviceReset _ | .selvedgeFirmwareStage _
  | .loomSelfTest _ | .linkTraining _ | .aqi0Enable | .hostReset _ | .debuggerHalt _ | .debuggerRelease _ => true
  | _ => false

/-- The asynchronous steps of cores, looms and fabric, by a number and operands: which comes next is open, and one
that may not happen yet does nothing. -/
def asyncStep (kind a b c : Nat) (yes : Bool) : Instr :=
  match kind with
  | 0 => .queueCommandBegin (4 + a % 2)
  | 1 => .farAccessAtHome ([4, 5, 6, 9].getD (a % 4) 4) b yes
  | 2 => .commandCompletion (4 + a % 3)
  | 3 => .guardedOffPush a
  | 4 => .ownershipQueueExecute
  | 5 => .crystallizerDispatch
  | 6 => .czIdleOff a b
  | 7 => .vaultSubbankWake a b c yes
  | 8 => .vaultSubbankSleep a b c yes
  | 9 => .backgroundScrub a
  | 10 => .nestStart
  | 11 => .nestCompletion
  | 12 => .phaseEnd a
  | 13 => .domainGating a
  | 14 => .barrierEpisodeComplete a b
  | 15 => .dumpWrite ⟨a, b⟩
  | 16 => .teamRetire ⟨a, b⟩
  | 17 => .preemption a b
  | 18 => .contextSave ⟨a, b⟩
  | 19 => .contextRestore a b
  | 20 => .launchStart a
  | 21 => .cohortStart a
  | 22 => .transferNodeStart a
  | 23 => .transformNodeStart a
  | 24 => .signalNode a
  | 25 => .waitNodeCheck a
  | 26 => .nodeCompletion a
  | 27 => .weftUnreachable a
  | 28 => .regionMove a b
  | 29 => .invalidationComplete
  | _ => .eventWrite a

/-- Brings the core at a place into focus, where there is one. -/
def State.focus (s : State) (place : Nat) : State := if s.core.place = place then s else s.swap place

/-- A push by a bound that must arrive in this cycle: its place among the core's (R45, R240). -/
def Core.duePush (c : Core) (cycle : Nat) : Option Instr :=
  match c.gpush.find? fun e => decide (e.2.2 ≤ cycle) with
  | none => none
  | some e => (c.gpush.findIdx? fun f => f.1.src == e.1.src).map .guardedOffPush

/-- A queue head that finds its tokens takes them in this cycle, the queues in the order of R295; the next nest does so while an earlier
one runs (DESIGN CHOICE, log 102). -/
def Core.dueTake (c : Core) : Option Instr :=
  ([7, 4, 5, 6, 8].find? fun q => (c.ready q).isSome).map .queueCommandBegin

/-- A phase marker of a core that has reached its end-of-phase point pushes in this cycle (R300). -/
def State.duePhase (s : State) (c : Core) : Option Instr :=
  (c.pmarks.findIdx? fun p => decide (p.issue < s.cycle) && { s with core := c }.phaseReached p).map .phaseEnd

/-- A barrier whose open episode has every arrival completes it in this cycle, one of a domain barrier after it has been announced
(R312). -/
def State.dueEpisode (s : State) : Option Instr :=
  (s.dev.barriers.find? fun b => b.arrived.any (fun e => decide (b.done < e.2.2))
      && ((s.launchAt b.ltag).map fun l =>
        b.ready (2 ^ l.gw) || (decide (b.xdev ≠ 0 ∧ b.told ≤ b.done) && b.here (2 ^ l.gw))).getD false).map
    fun b => .barrierEpisodeComplete b.ltag b.handle

/-- What must come about before this cycle ends, with the core at which it does. -/
def State.forced (s : State) : Option (Nat × Instr) :=
  match s.cores.findSome? fun c => ((c.duePush s.cycle) <|> c.dueTake <|> s.duePhase c).map fun i => (c.place, i) with
  | some e => some e
  | none => s.dueEpisode.map fun i => (s.core.place, i)

/-- The end of a cycle on a core: pushes are counted, ring entries ordered, the balance refills unless the core has stopped or has
just been restored (R58, R65, R356), what is over is forgotten. -/
def Core.endCycle (cycle : Nat) (c : Core) : Core :=
  let c := c.endPushes.orderRing cycle
  let c := (if c.stopped ∨ cycle < c.stopAt then c else c.refillOne).dropGhosts
  let waits (m : Nat) : Bool := [4, 5, 6].any fun q => (c.undone q).any fun x => decide (x.issue ≤ m)
  { c with
    ports := if c.stopped then c.ports else c.ports.filter fun p => decide (p.upTo > cycle)
    qmarks := c.qmarks.filter waits
    landed := [] }

/-- Pre-emptions that have been decided begin at the boundary in front of this cycle, a cohort at a time, and drains under way
go on (R302, R354). -/
def State.takePreemptions (s : State) : State :=
  let cohorts := ((s.teams.filter (·.wanted)).map fun t => (t.id.ltag, t.cohort)).eraseDups
  let s := s.teams.foldl State.settleDrain s
  cohorts.foldl (fun s k => s.preemptCohort k.1 k.2) s

/-- The end of a cycle: every core's, and the watchdogs of resident teams (R58, R295, R334); then the pre-emptions that
wait for this boundary. -/
def State.endCycle (s : State) : State :=
  let tick (t : Team) : Team :=
    if (t.status = .resident ∨ t.status = .draining) ∧ !t.halted then { t with wdog := t.wdog - 1 } else t
  let s := (s.onCores (Core.endCycle s.cycle)).tally
  let s := s.onDev fun d => { d with deliveries := d.deliveries.filter fun e => decide (e.at_ > s.cycle) }
  let s := { s with teams := s.teams.map tick, cycle := s.cycle + 1, turn := s.others.length + 1, phase := .boundary }
  s.takePreemptions

/-- One asynchronous step: one that is due in this cycle; else, by a free choice, the next outside event, one step of the device,
or the end of the cycle. -/
def State.async (s : State) : Out :=
  let n (k : Nat) : Nat := Config.freeNat s.fresh (slotOf 15 8 k)
  let o := match s.forced with
    | some (place, i) => exec i (s.focus place)
    | none =>
      match n 0 % 34, s.inputs with
      | 0, _ => .next s.endCycle
      | 1, i :: is => if isInput i then exec i { s with inputs := is } else .next { s with inputs := is }
      | 33, _ => execWeftPauseExpiry (n 1 % 8) s
      | k, _ => exec (asyncStep (k - 2) (n 1) (n 2) (n 3) (s.flip (slotOf 15 8 4))) (s.focus (n 4 % 768))
  settle (s.fresh + 1) o

/-! ### Placing an instruction -/

/-- A team of one core with nothing, as a launch outside the model would have placed it (log 5). -/
def guestTeam : Team where
  id := ⟨0, 0⟩
  ctx := 0
  pasid := 0
  gw := 0
  cohort := 0
  status := .resident
  wdog := 0xFFFFFFFF
  halted := false
  holdings := []
  stats := []
  snap := []
  mark := 0
  voids := []
  fatal := none
  image := []
  since := 0
  wanted := false
  heldWas := none

/-- A strand that fetches next at its program counter, or at its section's first word if it stands elsewhere. -/
def Core.restartAt (c : Core) (st : Strand) : Thread :=
  let t := c.thr.get st
  let k := c.sectionOf st
  { t with pc := if inSection k t.pc then t.pc else sectionBase.getD k 0, loop := none, rep := 0, gap := 0 }

/-- A core with the two words of an instruction where a strand fetches next. -/
def Core.placeWords (c : Core) (st : Strand) (w w1 : Nat) : Core :=
  let t := c.restartAt st
  let k := c.sectionOf st
  { c with
    code := put 0 (put 0 c.code (t.pc / 4) (BitVec.ofNat 32 w)) (t.pc / 4 + 1) (BitVec.ofNat 32 w1)
    thr := c.thr.set st t
    lens := c.lens.set k (max (c.lens.getD k 0) 2)
    govel := none
    team := c.team <|> some ⟨0, 0⟩ }

/-- The state in which the strand that decodes a table word issues it next, on a core with a team. -/
def State.placeWord (s : State) (nbits w : Nat) : State :=
  let st := (tableStrand nbits w).getD .s
  let v := w % 2 ^ nbits
  { s with
    core := s.core.placeWords st (v % 2 ^ 32) (v / 2 ^ 32 % 2 ^ 32)
    teams := if s.core.team.isSome ∨ s.teams.any (fun t => t.id == guestTeam.id) then s.teams else guestTeam :: s.teams
    phase := .issue [st] }

end Sys2Proof.Machine
end

