-- ==== Sys2Proof/Machine/Step.lean ====
section
/-! DEFINITION. One step of the machine, and an instruction placed where the next step fetches. -/

namespace Sys2Proof.Machine

/-- One step: a word of the bundle, the end of a core's cycle, the boundary in front of one, or an asynchronous step. -/
def step (s : State) : Host.Outcome State Fault Refusal :=
  match s.phase with
  | .issue (st :: rest) => s.issueWord st rest
  | .issue [] => .next s.coreEnd
  | .boundary => .next s.boundary
  | .async => s.async

/-- The state with an instruction in the section of the strand that decodes it, that strand alone to issue next (log 5). -/
def State.withFetchWord (s : State) (nbits w : Nat) : State := s.placeWord nbits w

end Sys2Proof.Machine
end

