-- ==== Sys2Proof/Safety.lean ====
section
/-! DEFINITION. The terms in which claims are stated: when a word runs, what its issue leaves alone, and the canonical
form that every state of a run has. -/

namespace Sys2Proof.Machine

/-- Nothing that a guard leaves in force stops a word: no rule of a loop body or a repeat, no encoding cause beyond those of
its bits, and its class's contract bound covers the device's own latency (R43, R45, R50, R285, R287). -/
def Stands (s : State) (i : Issue) : Prop := s.placeTraps i = [] ∧ i.enc = [] ∧ s.contractTraps i = []

/-- A word that is placed and whose guard, if it has one, is on (R45). -/
def Runs (s : State) (i : Issue) : Prop := Stands s i ∧ ∀ g, i.g = some g → s.guardedOff g = false

/-- A word that is placed and whose guard is off (R45). -/
def GuardedOff (s : State) (i : Issue) : Prop := Stands s i ∧ ∃ g, i.g = some g ∧ s.guardedOff g = true

/-- A trap was taken instead (R337, R345). -/
def Trapped (s t : State) : Prop := ∃ tr, t = s.takeTrap tr

/-- The results in flight to other destinations are as they were. -/
def OthersInFlight (s t : State) (ds : List Dest) : Prop :=
  t.core.pend.filter (fun l => decide (l.dest ∉ ds)) = s.core.pend.filter fun l => decide (l.dest ∉ ds)

/-- The writes in flight to LS bytes outside a set are as they were. -/
def OtherWrites (s t : State) (stored : Nat → Bool) : Prop :=
  t.core.lsPend.filter (fun w => !stored w.addr) = s.core.lsPend.filter fun w => !stored w.addr

/-- A word that only writes registers leaves all but its strand and what is in flight alone, so every register that it
does not name, every control register, every byte of the local store and of far memory reads as before. -/
def RegisterFrame (s t : State) (st : Strand) (ds : List Dest) : Prop :=
  t = { s with core := { s.core with thr := s.core.thr.set st (t.core.thr.get st), pend := t.core.pend } }
  ∧ OthersInFlight s t ds
  ∧ (∀ p n, Dest.s n ∉ ds → t.readS p n = s.readS p n)
  ∧ (∀ p n, Dest.p n ∉ ds → t.readP p n = s.readP p n)
  ∧ (∀ p n, Dest.v n ∉ ds → t.readV p n = s.readV p n)
  ∧ (∀ sel, t.core.csrAt sel = s.core.csrAt sel)
  ∧ (∀ p a, t.readLs p a = s.readLs p a)
  ∧ ∀ a, t.mem.read a = s.mem.read a

/-- The issue of a word leaves all but these alone: where the strands stand, results and events in flight, the core
port, the windows of commands, and the mark that R250 leaves on a running segment. Every register, every byte of the
local store and of far memory, every team, the device and the time are as they were. -/
def WordFrame (s t : State) : Prop :=
  t = { s with core := { s.core with
    thr := t.core.thr
    pend := t.core.pend
    lsPend := t.core.lsPend
    counts := t.core.counts
    ports := t.core.ports
    opens := t.core.opens
    gev := t.core.gev } }

/-- A core's register tables and local store in canonical form: keys rising, no entry equal to what an unlisted key
reads as. -/
def Core.canonical (c : Core) : Bool :=
  smapWf 0 c.s && smapWf 0 c.p && smapWf 0 c.v && smapWf 0 c.ls && smapWf 0 c.csr

/-- Far memory in canonical form. -/
def State.farCanonical (s : State) : Bool := s.mem.wf

/-- Every core of the machine, resident or kept in a context image, in canonical form. -/
def State.coresCanonical (s : State) : Bool :=
  s.cores.all Core.canonical && s.teams.all (fun t => t.image.all Core.canonical)
    && s.dev.exports.all fun e => e.2.1.canonical

end Sys2Proof.Machine
end

