-- ==== Sys2Proof/Certificates/Slice0/Obligations.lean ====
section
/-! DEFINITION. The statements about the model, for the provers: what the rules R<n> of the spec say of the machine,
written in the terms of Safety.lean and of the model's own operations. A docstring names the rule; where a clause rests on
a choice of the model it names the log entry. -/

open Sys2Proof Sys2Proof.Machine

namespace Sys2Proof.Claims

/-- The answer of a word that leaves its slot and leaves one result in flight, and does nothing else. -/
def lands (s : State) (i : Issue) (d : Dest) (x : Nat) : Out := .next ((s.advance i).land i.cls d x)

/-- The words that a rule decides by one bit: all bits of a predicate. -/
def everyBit (b : Prop) [Decidable b] : Nat := if b then 2 ^ 1024 - 1 else 0

/-- A domain is ON and has not lost its contents (R60, R61). -/
def Usable (s : State) (d : Nat) : Prop := s.core.isOn d = true ∧ d ∉ s.core.lost

/-- The exact address of a scalar LS access (R162). -/
def scalarAddress (s : State) (sa imm : Nat) : Int := ((s.readS 0 sa).toNat : Int) + sext imm 13

/-- The scalar loads and stores with their sizes. -/
def scalarLoads (l : Bool) (sd sa imm : Nat) : List (Nat × Instr) :=
  [(1, .ldB l sd sa imm), (2, .ldH l sd sa imm), (4, .ldW l sd sa imm), (8, .ldD l sd sa imm)]
def scalarStores (l : Bool) (sd sa imm : Nat) : List (Nat × Instr) :=
  [(1, .stB l sd sa imm), (2, .stH l sd sa imm), (4, .stW l sd sa imm), (8, .stD l sd sa imm)]

/-- The bytes of a number at an address, lowest first (R6). -/
def bytesAt (a n x : Nat) : List (Nat × Byte) :=
  (List.range n).map fun j => (a + j, BitVec.ofNat 8 (x / 256 ^ j))

/-- The number that bytes of the local store make, lowest first, as a word issuing now reads them (R6, R156). -/
def numberAt (s : State) (a n : Nat) : Nat :=
  ((List.range n).map fun j => (s.readLs 0 (a + j)).toNat * 256 ^ j).sum

/-- The S words whose only effect is a scalar or predicate register: the word and the register it writes. -/
def scalarRegisterWords (l : Bool) (d a b imm k : Nat) (g : Guard) (v32 : Nat) : List (Instr × Dest) :=
  [(.add l d a b g, .s d), (.sub l d a b g, .s d), (.and l d a b g, .s d), (.or l d a b g, .s d),
   (.xor l d a b g, .s d), (.andn l d a b g, .s d), (.shl l d a b g, .s d), (.shr l d a b g, .s d),
   (.sar l d a b g, .s d), (.min l d a b g, .s d), (.max l d a b g, .s d), (.minu l d a b g, .s d),
   (.maxu l d a b g, .s d), (.clz l d a g, .s d), (.ctz l d a g, .s d), (.popc l d a g, .s d),
   (.mul l d a b g, .s d), (.mulh l d a b g, .s d), (.mulhu l d a b g, .s d), (.div l d a b g, .s d),
   (.divu l d a b g, .s d), (.rem l d a b g, .s d), (.remu l d a b g, .s d)]
  ++ [(.cmpEq l d a b g, .p d), (.cmpNe l d a b g, .p d), (.cmpLt l d a b g, .p d), (.cmpLtu l d a b g, .p d),
   (.cmpLe l d a b g, .p d), (.cmpLeu l d a b g, .p d), (.pand l d a b g, .p d), (.por l d a b g, .p d),
   (.pxor l d a b g, .p d), (.pnot l d a g, .p d), (.sel l d a b g, .s d)]
  ++ [(.addi l d a imm, .s d), (.andi l d a imm, .s d), (.ori l d a imm, .s d), (.xori l d a imm, .s d),
   (.shli l d a k, .s d), (.shri l d a k, .s d), (.sari l d a k, .s d), (.lea l d a imm, .s d),
   (.lit l d g v32, .s d), (.litHi l d a g v32, .s d), (.csrr l d imm, .s d)]

end Sys2Proof.Claims

open Sys2Proof.Claims

/-! ### The S strand: registers -/

/-- R275: each integer instruction's result for every pair of operands, a division by zero among them; it counts no
statistic event. -/
def Obligations.ScalarIntegerResults : Prop :=
  ∀ (s : State) (l : Bool) (sd sa sb : Nat) (g : Guard),
    let a := s.readS 0 sa
    let b := s.readS 1 sb
    let res (cls x : Nat) : Out := lands s (sr cls l g) (.s sd) x
    (Runs s (sr 0 l g) →
      exec (.add l sd sa sb g) s = res 0 ((a.toNat + b.toNat) % 2 ^ 64)
      ∧ exec (.sub l sd sa sb g) s = res 0 (((a.toNat : Int) - b.toNat) % 2 ^ 64).toNat
      ∧ exec (.and l sd sa sb g) s = res 0 (a &&& b).toNat
      ∧ exec (.or l sd sa sb g) s = res 0 (a ||| b).toNat
      ∧ exec (.xor l sd sa sb g) s = res 0 (a ^^^ b).toNat
      ∧ exec (.andn l sd sa sb g) s = res 0 (a &&& ~~~b).toNat
      ∧ exec (.shl l sd sa sb g) s = res 0 (a.toNat * 2 ^ b.toNat % 2 ^ 64)
      ∧ exec (.shr l sd sa sb g) s = res 0 (a.toNat / 2 ^ b.toNat)
      ∧ exec (.sar l sd sa sb g) s = res 0 (a.toInt / 2 ^ b.toNat % 2 ^ 64).toNat
      ∧ exec (.min l sd sa sb g) s = res 0 (min a.toInt b.toInt % 2 ^ 64).toNat
      ∧ exec (.max l sd sa sb g) s = res 0 (max a.toInt b.toInt % 2 ^ 64).toNat
      ∧ exec (.minu l sd sa sb g) s = res 0 (min a.toNat b.toNat)
      ∧ exec (.maxu l sd sa sb g) s = res 0 (max a.toNat b.toNat)
      ∧ (∃ n, exec (.clz l sd sa g) s = res 0 n ∧ n ≤ 64 ∧ (∀ i < n, a.getLsbD (63 - i) = false)
          ∧ (n < 64 → a.getLsbD (63 - n) = true))
      ∧ (∃ n, exec (.ctz l sd sa g) s = res 0 n ∧ n ≤ 64 ∧ (∀ i < n, a.getLsbD i = false)
          ∧ (n < 64 → a.getLsbD n = true))
      ∧ exec (.popc l sd sa g) s = res 0 ((List.range 64).map fun i => (a.getLsbD i).toNat).sum)
    ∧ (Runs s (sr 1 l g) →
      exec (.mul l sd sa sb g) s = res 1 (a.toInt * b.toInt % 2 ^ 64).toNat
      ∧ exec (.mulh l sd sa sb g) s = res 1 (a.toInt * b.toInt / 2 ^ 64 % 2 ^ 64).toNat
      ∧ exec (.mulhu l sd sa sb g) s = res 1 (a.toNat * b.toNat / 2 ^ 64))
    ∧ (Runs s (sr 2 l g) →
      (b.toNat = 0 → exec (.div l sd sa sb g) s = res 2 (2 ^ 64 - 1) ∧ exec (.divu l sd sa sb g) s = res 2 (2 ^ 64 - 1)
        ∧ exec (.rem l sd sa sb g) s = res 2 a.toNat ∧ exec (.remu l sd sa sb g) s = res 2 a.toNat)
      ∧ (b.toNat ≠ 0 → exec (.divu l sd sa sb g) s = res 2 (a.toNat / b.toNat)
        ∧ exec (.remu l sd sa sb g) s = res 2 (a.toNat % b.toNat)
        ∧ ∃ q r : Int, a.toInt = b.toInt * q + r ∧ r.natAbs < b.toInt.natAbs ∧ (r = 0 ∨ r.sign = a.toInt.sign)
          ∧ exec (.div l sd sa sb g) s = res 2 (q % 2 ^ 64).toNat
          ∧ exec (.rem l sd sa sb g) s = res 2 (r % 2 ^ 64).toNat))

/-- R276: a compare's bit goes to all 1,024 bits of its predicate. -/
def Claims.compareWritesEveryBit : Prop :=
  ∀ (s : State) (l : Bool) (pd sa sb : Nat) (g : Guard), Runs s (sr 0 l g) →
    let a := s.readS 0 sa
    let b := s.readS 1 sb
    exec (.cmpEq l pd sa sb g) s = lands s (sr 0 l g) (.p pd) (everyBit (a.toNat = b.toNat))
    ∧ exec (.cmpNe l pd sa sb g) s = lands s (sr 0 l g) (.p pd) (everyBit (a.toNat ≠ b.toNat))
    ∧ exec (.cmpLt l pd sa sb g) s = lands s (sr 0 l g) (.p pd) (everyBit (a.toInt < b.toInt))
    ∧ exec (.cmpLtu l pd sa sb g) s = lands s (sr 0 l g) (.p pd) (everyBit (a.toNat < b.toNat))
    ∧ exec (.cmpLe l pd sa sb g) s = lands s (sr 0 l g) (.p pd) (everyBit (a.toInt ≤ b.toInt))
    ∧ exec (.cmpLeu l pd sa sb g) s = lands s (sr 0 l g) (.p pd) (everyBit (a.toNat ≤ b.toNat))

/-- R277: the predicate operations read bit 0 of their sources and write all 1,024 bits. -/
def Claims.predicateOperations : Prop :=
  ∀ (s : State) (l : Bool) (pd pa pb : Nat) (g : Guard), Runs s (sr 0 l g) →
    let a := (s.readP 0 pa).getLsbD 0 = true
    let b := (s.readP 1 pb).getLsbD 0 = true
    exec (.pand l pd pa pb g) s = lands s (sr 0 l g) (.p pd) (everyBit (a ∧ b))
    ∧ exec (.por l pd pa pb g) s = lands s (sr 0 l g) (.p pd) (everyBit (a ∨ b))
    ∧ exec (.pxor l pd pa pb g) s = lands s (sr 0 l g) (.p pd) (everyBit (¬(a ↔ b)))
    ∧ exec (.pnot l pd pa g) s = lands s (sr 0 l g) (.p pd) (everyBit (¬a))

/-- R278: `sel` chooses by its guard, and is never guarded off. -/
def Claims.selectByGuard : Prop :=
  ∀ (s : State) (l : Bool) (sd sa sb : Nat) (g : Guard), Stands s (si 0 l) →
    ((s.readP 15 g.p).getLsbD 0 ≠ g.neg →
      exec (.sel l sd sa sb g) s = lands s (si 0 l) (.s sd) (s.readS 0 sa).toNat)
    ∧ ((s.readP 15 g.p).getLsbD 0 = g.neg →
      exec (.sel l sd sa sb g) s = lands s (si 0 l) (.s sd) (s.readS 1 sb).toNat)

/-- R276 to R278: compares, predicate operations and `sel`. -/
def Obligations.ComparesPredicatesAndSelect : Prop := Claims.compareWritesEveryBit ∧ Claims.predicateOperations ∧ Claims.selectByGuard

/-- R279, R280, R281: immediates, literals, `lea`. The shift amounts are those a well-formed word can hold. -/
def Obligations.ImmediatesLiteralsAndLea : Prop :=
  ∀ (s : State) (l : Bool) (sd sa imm k v32 : Nat) (g : Guard), k < 64 → v32 < 2 ^ 32 →
    let a := s.readS 0 sa
    let i := BitVec.ofInt 64 (sext imm 13)
    (Stands s (si 0 l) →
      exec (.addi l sd sa imm) s = lands s (si 0 l) (.s sd) ((a.toNat + i.toNat) % 2 ^ 64)
      ∧ exec (.andi l sd sa imm) s = lands s (si 0 l) (.s sd) (a &&& i).toNat
      ∧ exec (.ori l sd sa imm) s = lands s (si 0 l) (.s sd) (a ||| i).toNat
      ∧ exec (.xori l sd sa imm) s = lands s (si 0 l) (.s sd) (a ^^^ i).toNat
      ∧ exec (.shli l sd sa k) s = lands s (si 0 l) (.s sd) (a.toNat * 2 ^ k % 2 ^ 64)
      ∧ exec (.shri l sd sa k) s = lands s (si 0 l) (.s sd) (a.toNat / 2 ^ k)
      ∧ exec (.sari l sd sa k) s = lands s (si 0 l) (.s sd) (a.toInt / 2 ^ k % 2 ^ 64).toNat
      ∧ exec (.lea l sd sa imm) s = lands s (si 0 l) (.s sd)
          (((s.core.thr.s.pc : Int) + 4 * sext imm 13 + a.toNat) % 2 ^ 64).toNat)
    ∧ (Runs s (sl l g) →
      exec (.lit l sd g v32) s = lands s (sl l g) (.s sd) v32
      ∧ exec (.litHi l sd sa g v32) s = lands s (sl l g) (.s sd) (v32 * 2 ^ 32 + a.toNat % 2 ^ 32))

/-- R17, R45, R273: an S word that writes a register leaves every other register, the local store, far memory and all
the rest of the machine as it was, whether its guard is on or off; only its strand moves on and its result is in
flight. Otherwise it took a trap. -/
def Obligations.ScalarRegisterWordFrame : Prop :=
  ∀ (s t : State) (l : Bool) (d a b imm k : Nat) (g : Guard) (v32 : Nat),
    ∀ w ∈ scalarRegisterWords l d a b imm k g v32,
      exec w.1 s = .next t → Trapped s t ∨ RegisterFrame s t .s [w.2]

/-! ### The S strand: the local store -/

/-- R6, R162: a load makes its bytes into a zero-extended number, at the exact sum of its address. -/
def Claims.scalarLoadResults : Prop :=
  ∀ (s : State) (l : Bool) (sd sa imm a : Nat), ∀ w ∈ scalarLoads l sd sa imm,
    (a : Int) = scalarAddress s sa imm → a < 2 ^ 21 → a % w.1 = 0 →
    Stands s (si 3 l) → Usable s (a / 2 ^ 18) → s.portTraps .s [s.portNow .s a w.1] = [] →
    s.watchTraps .s 1 ((List.range w.1).map (a + ·)) = [] →
    exec w.2 s = .next (((s.advance (si 3 l)).usePorts [s.portNow .s a w.1]).land 3 (.s sd) (numberAt s a w.1))

/-- R6, R156, R162: a store puts the low bytes of its register in flight to the bytes at the exact sum. -/
def Claims.scalarStoreResults : Prop :=
  ∀ (s : State) (l : Bool) (sd sa imm a : Nat), ∀ w ∈ scalarStores l sd sa imm,
    (a : Int) = scalarAddress s sa imm → a < 2 ^ 21 → a % w.1 = 0 →
    Stands s (si 3 l) → Usable s (a / 2 ^ 18) → s.portTraps .s [s.portNow .s a w.1] = [] →
    s.watchTraps .s 0 ((List.range w.1).map (a + ·)) = [] →
    exec w.2 s = .next (((s.advance (si 3 l)).usePorts [s.portNow .s a w.1]).writeLsAt (s.cycle + s.core.bound 3)
      (bytesAt a w.1 (s.readS 1 sd).toNat))

/-- R6, R61, R152 to R156, R162: the scalar accesses of the local store: what a load leaves in flight, what a store puts
on its way. -/
def Obligations.ScalarLoadsAndStores : Prop := Claims.scalarLoadResults ∧ Claims.scalarStoreResults

/-- R162: an access whose exact sum is negative, 2^21 or more, or not a multiple of its size raises the alignment trap,
and TRAPINFO holds the strand and the low 56 bits of the sum in two's complement. -/
def Claims.scalarMisalignedTraps : Prop :=
  ∀ (s : State) (l : Bool) (sd sa imm : Nat), ∀ w ∈ scalarLoads l sd sa imm ++ scalarStores l sd sa imm,
    let a := scalarAddress s sa imm
    (a < 0 ∨ 2 ^ 21 ≤ a ∨ a % w.1 ≠ 0) → Stands s (si 3 l) →
    exec w.2 s = .next (s.takeTrap ⟨3, BitVec.ofNat 64 (a % 2 ^ 56).toNat⟩)

/-- R156, R162: a load changes no byte; a store leaves every byte outside the bytes from its address up, every
register, far memory and the rest of the machine as they were. -/
def Claims.scalarAccessFrame : Prop :=
  ∀ (s t : State) (l : Bool) (sd sa imm : Nat),
    (∀ w ∈ scalarLoads l sd sa imm, exec w.2 s = .next t →
      Trapped s t ∨ (WordFrame s t ∧ t.core.thr = { s.core.thr with s := t.core.thr.s } ∧ t.core.lsPend = s.core.lsPend
        ∧ OthersInFlight s t [.s sd] ∧ ∀ p x, t.readLs p x = s.readLs p x))
    ∧ ∀ w ∈ scalarStores l sd sa imm, exec w.2 s = .next t →
      Trapped s t ∨ (WordFrame s t ∧ t.core.thr = { s.core.thr with s := t.core.thr.s } ∧ t.core.pend = s.core.pend
        ∧ ∀ a : Nat, (a : Int) = scalarAddress s sa imm →
        OtherWrites s t (fun x => decide (a ≤ x ∧ x < a + w.1))
        ∧ ∀ p x, (x < a ∨ a + w.1 ≤ x) → t.readLs p x = s.readLs p x)

/-! ### Registers, landing, the issue slot -/

/-- R158: s0 reads as zero and p0 as all ones, and a result for either is discarded, at issue and when it lands. -/
def Claims.zeroRegisterAndFullPredicate : Prop :=
  ∀ (s : State) (c : Core) (port cls x : Nat),
    s.readS port 0 = 0 ∧ s.readP port 0 = BitVec.allOnes 1024
    ∧ s.land cls (.s 0) x = s ∧ s.land cls (.p 0) x = s
    ∧ c.store (.s 0) x = c ∧ c.store (.p 0) x = c

/-- R17, R42, R44, R213: a result in flight lands, with those to its register whose windows overlap with its own, once all of
them may: the register then holds one of them that none issued after its window prevails over, or, for updates of an amax
register, the greatest; every other register holds what it held. -/
def Claims.resultLandsInItsRegister : Prop :=
  ∀ (s : State) (k : Nat) (r : Landing), s.core.pend[k]? = some r → s.core.canonical = true →
    (∀ l ∈ s.core.rivals r, s.core.mayLand l.due s.cycle = true ∧ l.tag ≠ 3 ∧ l.issue < l.due) →
    ∃ t, exec (.resultLanding k) s = .next t
      ∧ t.core.pend = s.core.pend.filter (fun l => decide (l ∉ s.core.rivals r)) ∧ t.mem = s.mem ∧ t.core.ls = s.core.ls
      ∧ ((∀ l ∈ s.core.rivals r, l.tag ≠ 1 ∧ ∀ m, l.dest ≠ .amaxUp m) →
        ∃ l ∈ s.core.rivals r, (∀ k ∈ s.core.rivals r, k.issue < l.due)
          ∧ (∀ n, r.dest = .s n → n ≠ 0 → look 0 t.core.s n = BitVec.ofNat 64 l.value)
          ∧ (∀ n, r.dest = .p n → n ≠ 0 → look 0 t.core.p n = BitVec.ofNat 1024 l.value)
          ∧ (∀ n, r.dest = .v n → look 0 t.core.v n = BitVec.ofNat 4096 l.value)
          ∧ ∀ n, r.dest = .csr n → t.core.csrAt n = BitVec.ofNat 64 l.value)
      ∧ (∀ m, r.dest = .amaxUp m → s.core.rivals r = [r] →
        (t.core.csrAt (0x40 + m)).toNat = max (s.core.csrAt (0x40 + m)).toNat r.value % 2 ^ 64)
      ∧ (∀ n, r.dest ≠ .s n → look 0 t.core.s n = look 0 s.core.s n)
      ∧ (∀ n, r.dest ≠ .p n → look 0 t.core.p n = look 0 s.core.p n)
      ∧ (∀ n, r.dest ≠ .v n → look 0 t.core.v n = look 0 s.core.v n)
      ∧ ∀ n, r.dest ≠ .csr n → (∀ m, r.dest = .amaxUp m → n ≠ 0x40 + m) → t.core.csrAt n = s.core.csrAt n

/-- R44, R156: a byte written on the core port becomes visible: the local store then holds it, or one of those whose windows
overlap with its own and that none issued after its window prevails over; every other byte is as it was. -/
def Claims.storedByteBecomesVisible : Prop :=
  ∀ (s : State) (k : Nat) (w : LsWrite), s.core.lsPend[k]? = some w → s.core.canonical = true → s.core.opens = [] →
    s.core.rows = [] → (∀ x ∈ s.core.lsPend, x.addr = w.addr → s.core.mayLand x.due s.cycle = true ∧ x.issue < x.due) →
    ∃ b ∈ s.core.lsPend, b.addr = w.addr ∧ (∀ x ∈ s.core.lsPend, x.addr = w.addr → x.issue < b.due)
      ∧ ∃ t, exec (.resultLanding (s.core.pend.length + k)) s = .next t
        ∧ look 0 t.core.ls w.addr = b.value ∧ (∀ a, a ≠ w.addr → look 0 t.core.ls a = look 0 s.core.ls a)
        ∧ t.core.lsPend = s.core.lsPend.filter (fun x => decide (x.addr ≠ w.addr))
        ∧ t.core.s = s.core.s ∧ t.core.v = s.core.v ∧ t.mem = s.mem

/-- R17, R42, R44, R156, R158: results and stored bytes land; s0 and p0 discard them. -/
def Obligations.ResultsLand : Prop := Claims.zeroRegisterAndFullPredicate ∧ Claims.resultLandsInItsRegister ∧ Claims.storedByteBecomesVisible

/-- R33, R284, R287: a word that issues moves its strand past its bytes, or to the loop's start after the last slot of
a trip; a repeated word keeps the strand on it. No other strand moves, and nothing else changes. -/
def Obligations.IssueMovesItsStrand : Prop :=
  ∀ (s : State) (i : Issue),
    let old := s.core.thr.get i.st
    let new := (s.advance i).core.thr.get i.st
    s.advance i = { s with core := { s.core with thr := s.core.thr.set i.st new } }
    ∧ (old.rep ≤ 1 → old.loop = none → new.pc = old.pc + i.len ∧ new.rep = 0 ∧ new.loop = none)
    ∧ (1 < old.rep → old.loop = none → new.pc = old.pc ∧ new.rep = old.rep - 1)
    ∧ (∀ lp, old.loop = some lp → lp.slot + 1 < lp.n → old.rep ≤ 1 → new.pc = old.pc + i.len
        ∧ ∃ c, new.loop = some { lp with slot := lp.slot + 1, captured := c })
    ∧ (∀ lp, old.loop = some lp → lp.n ≤ lp.slot + 1 → lp.trip + 1 < lp.count → new.pc = lp.start
        ∧ ∃ c, new.loop = some { lp with slot := 0, trip := lp.trip + 1, captured := c })
    ∧ (∀ lp, old.loop = some lp → lp.n ≤ lp.slot + 1 → lp.count ≤ lp.trip + 1 → old.rep ≤ 1 →
        new.pc = old.pc + i.len ∧ new.loop = none)

/-- R45: a synchronous word whose guard is off only leaves its slot; an asynchronous command whose guard is off makes
its push later, by the nop bound, and does nothing else. -/
def Claims.guardedOffWordsOnlyLeaveTheirSlot : Prop :=
  ∀ (s : State) (i : Issue) (causes : State → List Trap) (effect : State → State), GuardedOff s i →
    (i.async = none → s.issue i causes effect = .next (s.advance i))
    ∧ ∀ k, i.async = some k → ∃ p, p.ch = k ∧ p.qidx = 0xFFFF ∧ p.src = i.st.num
        ∧ s.issue i causes effect = .next (s.advance i |>.onCore fun c =>
            { c with gpush := c.gpush ++ [(p, s.cycle, s.cycle + s.core.bound 15)] })

/-- R43: a word whose class has a contract bound below the device's own latency takes the latency-contract trap, whose
TRAPINFO names the strand, the class, the bound and the own latency; nothing issues. -/
def Claims.latencyContractTraps : Prop :=
  ∀ (s : State) (i : Issue) (causes : State → List Trap) (effect : State → State) (stay : Bool),
    (∀ t ∈ causes s, 2 < t.code) → (∀ g, i.g = some g → s.guardedOff g = false) →
    s.placeTraps i = [] → i.enc = [] → s.core.bound i.cls < ownLatency i.cls →
    s.issue i causes effect stay = .next (s.takeTrap ⟨2, BitVec.ofNat 64
      (2 ^ 60 * i.st.num + (2 ^ 48 * i.cls + 2 ^ 32 * s.core.bound i.cls + ownLatency i.cls) % 2 ^ 60)⟩)

/-! ### The S strand: control flow -/

namespace Sys2Proof.Claims

/-- The state after a branch to a target: the S strand stands there, and the trace ring has the entry (R282, R362). -/
def branched (s : State) (l : Bool) (target : Nat) : State :=
  (((s.advance (flow l)).jumpS target).ring 1 0 (2 ^ 32 * (s.core.thr.s.pc % 2 ^ 18) + target % 2 ^ 18))

/-- The S strand has no loop, no repeat and no gap under way. -/
def Plain (s : State) : Prop := s.core.thr.s.loop = none ∧ s.core.thr.s.rep = 0 ∧ s.core.thr.s.gap = 0

/-- The operand-condition trap of the S strand: COND 9 and the instruction word (R344). -/
def operandTrapS (s : State) : Trap := ⟨1, BitVec.ofNat 64 (2 ^ 56 * 9 + s.nowWord .s)⟩

end Sys2Proof.Claims

/-- R282, R283: branches, calls and returns: the target, s63, the trace ring; a return to an offset that is no multiple
of 4 traps with the operand condition. -/
def Obligations.BranchesCallsAndReturns : Prop :=
  ∀ (s : State) (l neg : Bool) (p off target : Nat), Stands s (flow l) →
    ((target : Int) = s.core.thr.s.pc + 4 * sext off 20 → target < 2 ^ 32 →
      ((s.readP 0 p).getLsbD 0 ≠ neg → exec (.br l p neg off) s = .next (branched s l target))
      ∧ ((s.readP 0 p).getLsbD 0 = neg → exec (.br l p neg off) s = .next (s.advance (flow l)))
      ∧ exec (.jmp l off) s = .next (branched s l target)
      ∧ exec (.call l off) s = .next ((((s.advance (flow l)).land 0 (.s 63) (s.core.thr.s.pc + 4)).jumpS target).ring 1 0
          (2 ^ 32 * (s.core.thr.s.pc % 2 ^ 18) + target % 2 ^ 18)))
    ∧ ((s.readS 0 63).toNat % 4 = 0 → exec (.ret l) s = .next (branched s l (s.readS 0 63).toNat))
    ∧ ((s.readS 0 63).toNat % 4 ≠ 0 → exec (.ret l) s = .next (s.takeTrap (operandTrapS s)))

/-- R284, R287, R288: `loop` gives S and the other members of its group a loop that starts at their next words, `rpt`
a repeat count; `gap` stays for its slots and has no other effect. In handler mode, whose section has no lockstep, the word's L
bit is not kept with the loop (R347). -/
def Obligations.LoopsRepeatsAndGaps : Prop :=
  ∀ (s : State) (l : Bool) (countM1 nM1 : Nat), Stands s (flow l) → Plain s →
    (s.core.straddles 257 (s.core.thr.s.pc + 4) (nM1 + 1) = false →
      ∃ t, exec (.loop l countM1 nM1) s = .next t
        ∧ t.core.thr.s.pc = s.core.thr.s.pc + 4
        ∧ t.core.thr.s.loop = some ⟨s.core.thr.s.pc + 4, nM1 + 1, countM1 + 1, 0, 0, [], l && s.core.handler.isNone⟩
        ∧ ∀ st, st ≠ .s → t.core.thr.get st =
            if t.core.thr.s.inLock = true ∧ (s.core.thr.get st).inLock = true then
              { s.core.thr.get st with
                loop := some ⟨(s.core.thr.get st).pc, nM1 + 1, countM1 + 1, 0, 0, [], l && s.core.handler.isNone⟩ }
            else s.core.thr.get st)
    ∧ (∃ t, exec (.rpt l countM1) s = .next t
        ∧ t.core.thr.s.pc = s.core.thr.s.pc + 4 ∧ t.core.thr.s.rep = countM1 + 1
        ∧ ∀ st, st ≠ .s → t.core.thr.get st =
            if t.core.thr.s.inLock = true ∧ (s.core.thr.get st).inLock = true then
              { s.core.thr.get st with rep := countM1 + 1 }
            else s.core.thr.get st)
    ∧ ∃ t, exec (.gap l countM1) s = .next t ∧ t.core.thr.s.gap = countM1
        ∧ t.core.thr.s.pc = (if countM1 = 0 then s.core.thr.s.pc + 4 else s.core.thr.s.pc)
        ∧ t = { s with core := { s.core with thr := { s.core.thr with s := t.core.thr.s } } }

/-- R285, R287: the control-flow words trap with the operand condition in a loop body's first trip and when they are
repeated. -/
def Claims.controlFlowMayNotStandInABody : Prop :=
  ∀ (s : State) (l neg : Bool) (p off countM1 nM1 : Nat), s.contractTraps (flow l) = [] →
    ((∃ lp, s.core.thr.s.loop = some lp ∧ lp.trip = 0) ∨ 0 < s.core.thr.s.rep) →
    ∀ i ∈ [Instr.br l p neg off, .jmp l off, .call l off, .ret l, .loop l countM1 nM1, .eret l, .eretR l],
      exec i s = .next (s.takeTrap (operandTrapS s))

/-- R43, R285, R287: the traps of where a word stands and of its class. -/
def Obligations.PlacementAndContractTraps : Prop := Claims.latencyContractTraps ∧ Claims.controlFlowMayNotStandInABody

/-- R66, R161, R289, R341: what `csrr` reads: TICK, WDOG, the power state, TRAPCAUSE with PEND as it stands and, where no write is
in flight, every other register that the map stores. -/
def Claims.controlRegisterReads : Prop :=
  ∀ (s : State) (l : Bool) (sd sel : Nat), Stands s (si 3 l) →
    exec (.csrr l sd sel) s = lands s (si 3 l) (.s sd) (s.readCsr sel).toNat
    ∧ (s.readCsr 3).toNat = s.cycle % 2 ^ 64
    ∧ (∀ tm, s.team = some tm → (s.readCsr 4).toNat = tm.wdog % 2 ^ 64)
    ∧ (∀ d, d < 26 → ((s.readCsr 0x20).getLsbD d = true ↔ s.core.domAt d = .on)
        ∧ ((s.readCsr 0x20).getLsbD (32 + d) = true ↔ s.core.domAt d = .ret)
        ∧ ((s.readCsr 0x21).getLsbD d = true ↔ ∃ t r, s.core.domAt d = .waking t r)
        ∧ ((s.readCsr 0x22).getLsbD d = true ↔ d ∈ s.core.lost))
    ∧ (s.readCsr 8).toNat = (s.core.csrAt 8).toNat % 2 ^ 9 + (if s.core.impr = [] then 0 else 2 ^ 9)
    ∧ (csrKnown sel = true → sel ∉ [3, 4, 8, 0x20, 0x21, 0x22, 0x23] → s.inFlight (.csr sel) = false →
        (∀ m, sel = 0x40 + m → s.inFlight (.amaxUp m) = false) → s.readCsr sel = s.core.csrAt sel)

/-- R39, R146, R160, R161, R183, R346: what each `csrw` leaves in flight for its register; a write of a read-only or
load-time register does nothing; a value that TRAPVEC, VWB or TWIST does not take traps with the operand condition. -/
def Claims.controlRegisterWrites : Prop :=
  ∀ (s : State) (l : Bool) (sa sel m : Nat), Stands s (si 3 l) →
    let x := (s.readS 0 sa).toNat
    ((0xC ≤ sel ∧ sel ≤ 0xF) → exec (.csrw l sa sel) s = lands s (si 3 l) (.csr sel) (x % 2 ^ 32))
    ∧ (¬(0xC ≤ sel ∧ sel ≤ 0xF) → exec (.csrw l sa sel) s = .next (s.advance (si 3 l)))
    ∧ (s.core.canonical = true → ∃ t, exec (.csrwLockmask l sa) s = .next t ∧ t.core.csrAt 2 = BitVec.ofNat 64 (x % 16)
        ∧ ∀ r ∈ t.core.pend, r.dest = .csr 2 → r.value = x % 16)
    ∧ ((x = 0 ∨ (x % 4 = 0 ∧ 0x38000 ≤ x ∧ x ≤ 0x3FFFC)) →
        exec (.csrwTrapvec l sa) s = lands s (si 3 l) (.csr 0xA) x)
    ∧ (x % 64 = 0 → x ≤ 1024 → exec (.csrwVwb l sa) s = lands s (si 3 l) (.csr 0x28) x)
    ∧ (x < 64 → exec (.csrwTwist l sa) s = lands s (si 3 l) (.csr 0x29) x)
    ∧ exec (.csrwVshape l sa) s = lands s (si 3 l) (.csr 0x2A) (x % 2 ^ 24)
    ∧ exec (.csrwCzlist l sa) s = lands s (si 3 l) (.csr 0x30)
        (2 ^ 32 * (x / 2 ^ 32 % 2 ^ 16) + 2 ^ 4 * (x / 2 ^ 4 % 2 ^ 17))
    ∧ exec (.csrwAmax l sa m) s = lands s (si 3 l) (.csr (0x40 + m)) (x % 2 ^ 31)
    ∧ ((¬(x = 0 ∨ (x % 4 = 0 ∧ 0x38000 ≤ x ∧ x ≤ 0x3FFFC)) →
          exec (.csrwTrapvec l sa) s = .next (s.takeTrap (operandTrapS s)))
        ∧ (¬(x % 64 = 0 ∧ x ≤ 1024) → exec (.csrwVwb l sa) s = .next (s.takeTrap (operandTrapS s)))
        ∧ (64 ≤ x → exec (.csrwTwist l sa) s = .next (s.takeTrap (operandTrapS s))))

/-- R66, R159, R161, R289, R341: what `csrr` reads and what the rows of `csrw` write. -/
def Obligations.ControlRegisters : Prop := Claims.controlRegisterReads ∧ Claims.controlRegisterWrites

/-! ### Traps and the words of the sys major -/

/-- R345: taking a trap with a handler registered, outside handler mode: TRAPPC of each strand is the offset of its next
word, TRAPCAUSE and TRAPINFO say what happened, an aligned region ends, a hold is abandoned, and S fetches from the
handler's entry. The strands' state is kept for the return. -/
def Obligations.TrapEntersTheHandler : Prop :=
  ∀ (s : State) (tr : Trap), s.core.handler = none → 3 ≤ tr.code → tr.code ≤ 20 →
    (s.core.csrAt 0xA).toNat % 2 ^ 18 ≠ 0 → s.core.canonical = true →
    let t := s.takeTrap tr
    t.core.csrAt 0xC = BitVec.ofNat 64 s.core.thr.s.pc ∧ t.core.csrAt 0xD = BitVec.ofNat 64 s.core.thr.v.pc
    ∧ t.core.csrAt 0xE = BitVec.ofNat 64 s.core.thr.m.pc ∧ t.core.csrAt 0xF = BitVec.ofNat 64 s.core.thr.x.pc
    ∧ (t.core.csrAt 8).toNat = tr.code + (if 16 ≤ tr.code then 2 ^ 8 else 0) + (if s.core.impr ≠ [] then 2 ^ 9 else 0)
    ∧ t.core.csrAt 9 = tr.info
    ∧ (∀ sel, sel ∉ [8, 9, 0xC, 0xD, 0xE, 0xF] → t.core.csrAt sel = s.core.csrAt sel)
    ∧ t.core.region = none ∧ t.core.hold = .none ∧ t.core.stopped = s.core.stopped
    ∧ t.core.thr.s = .entry ((s.core.csrAt 0xA).toNat % 2 ^ 18)
    ∧ t.core.thr.v = s.core.thr.v ∧ t.core.thr.m = s.core.thr.m ∧ t.core.thr.x = s.core.thr.x
    ∧ t.core.handler = some ⟨s.core.thr.mapAll Thread.dropCaptured, tr.code⟩
    ∧ t.core.s = s.core.s ∧ t.core.p = s.core.p ∧ t.core.v = s.core.v ∧ t.core.ls = s.core.ls
    ∧ t.mem = s.mem ∧ t.teams = s.teams ∧ t.others = s.others ∧ t.core.pend = s.core.pend

/-- R342, R348, R349: a cause that goes to no handler, or arises in handler mode, ends the team: issue stops on the
core, the team keeps the first such cause for its dump (code 25 for a double trap, with the code that the handler
served), and no strand moves. A cause recorded for the next boundary, as `trap` leaves it, gives way to one of this cycle. -/
def Claims.fatalTrapEndsTheTeam : Prop :=
  ∀ (s : State) (tr : Trap) (tm : Team), s.team = some tm → s.core.canonical = true →
    (tr.code < 3 ∨ 20 < tr.code ∨ (s.core.csrAt 0xA).toNat % 2 ^ 18 = 0 ∨ s.core.handler ≠ none) →
    let t := s.takeTrap tr
    t.core.stopped = true ∧ t.core.thr = s.core.thr ∧ t.core.handler = s.core.handler ∧ t.mem = s.mem
    ∧ t.core.csrAt 9 = tr.info
    ∧ ∃ tm', t.team = some tm' ∧ (∀ r, tm.fatal = some r → r.tick ≤ s.cycle → tm'.fatal = some r)
        ∧ ((∀ r, tm.fatal = some r → s.cycle < r.tick) → ∃ r, tm'.fatal = some r ∧ r.rank = s.core.rank ∧ r.info = tr.info ∧ r.tick = s.cycle
            ∧ r.cause % 2 ^ 8 = tr.code % 2 ^ 8
            ∧ (s.core.handler = none → r.code = tr.code ∧ r.cause2 = 0)
            ∧ ∀ h, s.core.handler = some h → r.code = 25 ∧ r.cause2 = h.cause)

/-- R290 to R293, R347: `mark.r` records a restart point, `trap` raises the software trap after its cycle, `eret` and
`eret.r` return in handler mode, `done` ends issue and handler mode. -/
def Claims.restartTrapReturnAndDone : Prop :=
  ∀ (s : State) (l : Bool) (code : Nat), Stands s (flow l) → Stands s (sysWord l) →
    (∃ t, exec (.markR l) s = .next t
      ∧ t.core.restart.threads = (s.advance (sysWord l)).core.thr.mapAll Thread.dropCaptured
      ∧ t.core.restart.lockmask = s.core.csrAt 2 ∧ t.core.restart.at_ = s.cycle
      ∧ (∀ i, i < 16 → s.inFlight (.csr (0x40 + i)) = false → look 0 t.core.restart.amax i = s.core.csrAt (0x40 + i))
      ∧ t.core = { (s.advance (sysWord l)).core with restart := t.core.restart } ∧ t.mem = s.mem
      ∧ ∀ tm, s.team = some tm → t.team = some { tm with snap := tm.stats, mark := s.cycle })
    ∧ exec (.trap l code) s = .next ((s.advance (sysWord l)).takeTrapNext ⟨14, BitVec.ofNat 64 (code % 2 ^ 60)⟩)
    ∧ (∃ t, exec (.done l) s = .next t ∧ t.core.isDone = true ∧ t.core.handler = none
      ∧ t.core.thr = (s.advance (sysWord l)).core.thr ∧ t.core.s = s.core.s ∧ t.core.p = s.core.p ∧ t.core.v = s.core.v
      ∧ t.core.ls = s.core.ls ∧ t.core.csr = s.core.csr ∧ t.core.pend = s.core.pend ∧ t.mem = s.mem ∧ t.teams = s.teams)
    ∧ (s.core.handler = none →
      exec (.done l) s = .next ((s.advance (sysWord l)).onCore fun c => { c with isDone := true }))
    ∧ (∀ h, s.core.handler = some h →
        (∃ t, exec (.eret l) s = .next t ∧ t.core.handler = none
          ∧ ((∀ n, n < 4 → s.inFlight (.csr (0xC + n)) = false) →
            t.core.thr = ⟨{ h.threads.s with pc := (s.core.csrAt 0xC).toNat }, { h.threads.v with pc := (s.core.csrAt 0xD).toNat },
              { h.threads.m with pc := (s.core.csrAt 0xE).toNat }, { h.threads.x with pc := (s.core.csrAt 0xF).toNat }⟩)
          ∧ t.core.s = s.core.s ∧ t.core.p = s.core.p ∧ t.core.csr = s.core.csr ∧ t.teams = s.teams)
        ∧ ∃ t, exec (.eretR l) s = .next t ∧ t.core.handler = none ∧ t.core.thr = s.core.restart.threads
          ∧ (s.core.canonical = true → t.core.csrAt 2 = s.core.restart.lockmask
            ∧ ∀ m, m < 16 → t.core.csrAt (0x40 + m) = look 0 s.core.restart.amax m)
          ∧ t.core.s = s.core.s ∧ t.core.v = s.core.v ∧ t.core.ls = s.core.ls
          ∧ ∀ tm, s.team = some tm → ∃ tm', t.team = some tm' ∧ tm'.stats = tm.snap)
    ∧ (s.core.handler = none →
        exec (.eret l) s = .next (s.takeTrap (operandTrapS s)) ∧ exec (.eretR l) s = .next (s.takeTrap (operandTrapS s)))

/-- R334, R340: at a boundary the first pending imprecise trap is taken, and a watchdog that has run out ends its team. -/
def Claims.boundaryTrapsAreTaken : Prop :=
  ∀ (s : State),
    (∀ tr rest, s.core.impr = tr :: rest → s.core.handler = none → s.core.team.isSome = true → s.core.isDone = false →
      s.core.stopped = false →
      ∃ t, exec .impreciseTrapTaken s = .next t ∧ t = ({ s with core := { s.core with impr := rest } } : State).takeTrap tr)
    ∧ (∀ tm, s.team = some tm → tm.wdog = 0 → tm.status = .resident → tm.fatal = none →
      ∃ t, exec .watchdogExpiry s = .next t ∧ t.core.stopped = true ∧ t.core.thr = s.core.thr ∧ t.mem = s.mem)

/-- R290 to R293, R334, R340, R347 to R349: fatal traps, restart points, `trap`, the returns and `done`; the traps that a boundary
takes. -/
def Obligations.FatalTrapsRestartsAndReturns : Prop :=
  Claims.fatalTrapEndsTheTeam ∧ Claims.restartTrapReturnAndDone ∧ Claims.boundaryTrapsAreTaken

/-! ### The sync major -/

/-- R264, R295 to R302: tokens, marks and aligned regions: `wait.k` takes a token where there is one and holds the core
where there is none; `qmark` and `pmark` record where they stand; `realign` begins a region at the next cycle that is a
multiple, or holds; `unalign` ends it. -/
def Claims.tokensMarksAndRegions : Prop :=
  ∀ (s : State) (l : Bool) (k sa n : Nat), Stands s (syncWord l) → smapWf 0 s.core.chan = true →
    let a := s.advance (syncWord l)
    (s.core.tokens k ≠ 0 → ∃ t, exec (.waitK l k) s = .next t ∧ t.core.tokens k = s.core.tokens k - 1
      ∧ (∀ j, j ≠ k → t.core.tokens j = s.core.tokens j) ∧ t.core.hold = s.core.hold ∧ t.core.thr = a.core.thr)
    ∧ (s.core.tokens k = 0 → s.core.region = none → ∃ t, exec (.waitK l k) s = .next t ∧ t.core.hold = .waitK k
      ∧ t.core.thr.s.pc = s.core.thr.s.pc ∧ t.core.chan = s.core.chan)
    ∧ exec (.qmark l) s = .next (a.onCore fun c => { c with qmarks := c.qmarks ++ [s.cycle] })
    ∧ (s.core.pmarks.length < 4 → (s.readS 0 sa).toNat < 2 ^ 12 → (s.readS 0 sa).toNat / 2 ^ 5 % 2 ^ 3 = 0 →
        exec (.pmark l sa) s = .next (a.onCore fun c => { c with
          pmarks := c.pmarks ++ [⟨(s.readS 0 sa).toNat / 2 ^ 8 % 2 ^ 4, (s.readS 0 sa).toNat % 2 ^ 5, s.cycle⟩] }))
    ∧ (s.core.region = none →
        ((s.cycle + 1) % 2 ^ n = 0 →
          exec (.realign l n) s = .next (a.onCore fun c => { c with region := some (s.cycle + 1) }))
        ∧ ((s.cycle + 1) % 2 ^ n ≠ 0 → ∃ t, exec (.realign l n) s = .next t ∧ t.core.hold = .realign n
          ∧ t.core.thr.s.pc = s.core.thr.s.pc ∧ t.core.region = none))
    ∧ exec (.unalign l) s = .next (a.onCore fun c => { c with region := none })

/-- R309, R311, R314: `bar.arr` records the arrival of its core at the named barrier for the next episode; `bar.wait`
passes where the episode has been released to the core, which acquires (R261), and holds it where it has not. -/
def Claims.barrierArrivalAndWait : Prop :=
  ∀ (s : State) (l : Bool) (sa : Nat) (tm : Team) (b : Barrier), Stands s (syncWord l) → s.team = some tm →
    let h := (s.readS 0 sa).toNat
    s.myBarrier (s.readS 0 sa) = some b → smapWf 0 s.core.barEp = true →
    let a := s.advance (syncWord l)
    (s.core.arrivalOf h ≤ b.done → ∃ t, exec (.barArr l sa) s = .next t ∧ t.core.arrivalOf h = s.core.arrivalOf h + 1
      ∧ (∃ b', t.barrierAt tm.id.ltag h = some b' ∧ b'.arrivals tm.id.index s.core.rank = s.core.arrivalOf h + 1
        ∧ b'.pending = b.pending ∧ b'.done = b.done)
      ∧ t.core.thr = a.core.thr ∧ t.mem = s.mem)
    ∧ (s.core.arrivalOf h ≠ 0 → s.released b (s.core.arrivalOf h) = true → exec (.barWait l sa) s = .next (a.onCore (Core.acquireAt s.dev.actions)))
    ∧ (s.core.arrivalOf h ≠ 0 → s.released b (s.core.arrivalOf h) = false → s.core.region = none →
        ∃ t, exec (.barWait l sa) s = .next t ∧ t.core.hold = .barWait h ∧ t.core.thr.s.pc = s.core.thr.s.pc)

/-- R41, R297, R300 to R302, R312, R313: what the words of the sync major wait for comes about: a token is taken, a region begins or
times out, a marker pushes, an episode completes, a phase opens, the group enters the lock. -/
def Claims.syncWaitsEnd : Prop :=
  ∀ (s : State),
    (∀ k, s.core.hold = .waitK k → 0 < s.core.tokens k → ∃ t, exec .waitKTokenTake s = .next t ∧ t.core.hold = .none)
    ∧ (∀ n, s.core.hold = .realign n → s.cycle % 2 ^ n = 0 →
      ∃ t, exec .alignedRegionBegin s = .next t ∧ t.core.hold = .none ∧ t.core.region = some s.cycle)
    ∧ (∀ t0, s.core.region = some t0 → t0 + 65536 ≤ s.cycle →
      ∃ t, exec .alignedRegionTimeout s = .next t ∧ t = s.takeTrap (timingTrap 0 13))
    ∧ (∀ k p, s.core.pmarks[k]? = some p → s.phaseReached p = true → p.issue < s.cycle →
      ∃ t, exec (.phaseEnd k) s = .next t ∧ t.core.pmarks = s.core.pmarks.eraseIdx k ∧ ∃ q ∈ t.core.arrivals, q.ch = p.ch)
    ∧ (∀ ltag handle b la, s.barrierAt ltag handle = some b → s.launchAt ltag = some la → b.ready (2 ^ la.gw) = true →
      (b.xdev = 0 ∨ b.done < b.told) →
      ∃ t b', exec (.barrierEpisodeComplete ltag handle) s = .next t ∧ t.barrierAt ltag handle = some b' ∧ b'.done = b.done + 1)
    ∧ (∀ h b, s.core.hold = .barWait h → s.myBarrier (BitVec.ofNat 64 h) = some b → s.released b (s.core.arrivalOf h) = true →
      ∃ t, exec .sluiceResume s = .next t ∧ t.core.hold = .none)
    ∧ (s.entryOpen = true → (∃ st, s.atEntry st = true) → ∃ t, exec .lockEntryRelease s = .next t ∧ t.phase = .issue s.bundle)

/-- R41, R264, R297 to R302, R309, R311 to R314: tokens, marks, aligned regions, barriers, and the ends of what they wait for. -/
def Obligations.SynchronisationWords : Prop :=
  Claims.tokensMarksAndRegions ∧ Claims.barrierArrivalAndWait ∧ Claims.syncWaitsEnd

/-! ### Power -/

/-- R53, R57, R59, R63: `wake`, `sleep` and `retain` move each domain of the mask and no other. A wake debits its cost
and brings an OFF domain ON after its latency. -/
def Claims.powerWordsMoveTheirDomains : Prop :=
  ∀ (s : State) (l : Bool) (sa : Nat) (g : Guard), Runs s (sr 0 l g) → (s.readS 0 sa).toNat < 2 ^ 26 →
    smapWf .off s.core.dom = true →
    let m := (s.readS 0 sa).toNat
    let cost := (((List.range 26).filter fun d => m.testBit d && (s.core.domAt d == .off || s.core.domAt d == .ret)).map
      inrushCost).sum
    (cost ≤ s.core.bal → ∃ t, exec (.wake l sa g) s = .next t ∧ t.core.bal = s.core.bal - cost
      ∧ (0 < cost → t.core.refill = 0) ∧ (cost = 0 → t.core.refill = s.core.refill)
      ∧ ∀ d, d < 26 → t.core.domAt d =
          if m.testBit d && s.core.domAt d == .off then .waking (s.cycle + latOff d) false
          else if m.testBit d && s.core.domAt d == .ret then .waking (s.cycle + latRet d) true
          else s.core.domAt d)
    ∧ (s.core.bal < cost → exec (.wake l sa g) s = .next (s.takeTrap ⟨6, BitVec.ofNat 64 ((2 ^ 8 * s.core.bal + cost) % 2 ^ 60)⟩))
    ∧ (∃ t, exec (.sleep l sa g) s = .next t ∧ t.core.bal = s.core.bal
      ∧ ∀ d, d < 26 → (m.testBit d = true → t.core.domAt d = .off ∧ d ∉ t.core.lost)
        ∧ (m.testBit d = false → t.core.domAt d = s.core.domAt d ∧ (d ∈ t.core.lost ↔ d ∈ s.core.lost)))
    ∧ ∃ t, exec (.retain l sa g) s = .next t ∧ t.core.bal = s.core.bal
      ∧ ∀ d, d < 26 → (m.testBit d = false → t.core.domAt d = s.core.domAt d)
        ∧ (m.testBit d = true → t.core.domAt d = if s.core.domAt d = .off ∨ stateful d = false ∧ s.core.domAt d ≠ .ret then .off else .ret)

/-- R64: `pwait` passes where every named domain is ON by the next cycle, holds the core where one is still waking, and
takes the sleeping-resource trap, which names the lowest such domain, where one is OFF or RET. -/
def Claims.powerWait : Prop :=
  ∀ (s : State) (l : Bool) (sa : Nat) (g : Guard), Runs s (sr 0 l g) → (s.readS 0 sa).toNat < 2 ^ 26 →
    let m := (s.readS 0 sa).toNat
    let dead (d : Nat) : Prop := d < 26 ∧ m.testBit d = true ∧ (s.core.domAt d = .off ∨ s.core.domAt d = .ret)
    let soon (d : Nat) : Prop := s.core.domAt d = .on ∨ ∃ t r, s.core.domAt d = .waking t r ∧ t ≤ s.cycle + 1
    ((∀ d, d < 26 → m.testBit d = true → soon d) → exec (.pwait l sa g) s = .next (s.advance (sr 0 l g)))
    ∧ ((∀ d, ¬dead d) → (∃ d, d < 26 ∧ m.testBit d = true ∧ ¬soon d) → s.core.region = none →
        ∃ t, exec (.pwait l sa g) s = .next t ∧ t.core.hold = .pwait m ∧ t.core.thr.s.pc = s.core.thr.s.pc)
    ∧ ∀ d, dead d → (∀ e, dead e → d ≤ e) → exec (.pwait l sa g) s = .next (s.takeTrap ⟨4, BitVec.ofNat 64 d⟩)

/-- R57, R59, R63, R64: `wake`, `sleep`, `retain` and `pwait`. -/
def Obligations.PowerWords : Prop := Claims.powerWordsMoveTheirDomains ∧ Claims.powerWait

/-! ### The V strand -/

namespace Sys2Proof.Claims

/-- A V word may run: it is placed, its element type is permitted, the registers it names exist, its unit's domain,
those of the registers and the others it uses are ON and not LOST (R51, R60, R61, R188, R207). -/
def VReady (s : State) (cls : Nat) (l : Bool) (okType : Prop) (doms names : List Nat) : Prop :=
  Stands s (vi cls l) ∧ okType ∧ (∀ n ∈ names, n < 256) ∧ (∀ d ∈ doms, Usable s d)
    ∧ ∀ n ∈ names, Usable s (8 + s.phys n / 128)

/-- The answer of a V word that gives a group of registers its lanes, `w` bits each, and does nothing else. -/
def givesLanes (s : State) (cls : Nat) (l : Bool) (vd w n : Nat) (f : Nat → Nat × Ev) : Out :=
  .next ((s.advance (vi cls l)).putLanes s cls s.shape vd w n f)

/-- The same for a result of one register with the lanes of the shape. -/
def givesRegister (s : State) (cls : Nat) (l : Bool) (vd : Nat) (f : Nat → Nat × Ev) : Out :=
  givesLanes s cls l vd (laneWidth s.shape.ty) (laneCount s.shape.ty) f

/-- Lane `i` of a source as a pattern, and as its type's integer (R192). -/
def pat (s : State) (port n i : Nat) : Nat := s.groupLane port n (laneWidth s.shape.ty) i
def val (s : State) (port n i : Nat) : Int :=
  let w := laneWidth s.shape.ty
  let x := pat s port n i % 2 ^ w
  if s.shape.ty % 2 = 0 ∧ 2 ^ w ≤ 2 * x then (x : Int) - 2 ^ w else x

/-- An exact integer delivered under SAT: wrapped, or clamped to its type's range with a saturation event (R165). -/
def delivered (h : Shape) (x : Int) : Nat × Ev :=
  let w := laneWidth h.ty
  let lo : Int := if h.ty % 2 = 0 then -(2 ^ (w - 1)) else 0
  let hi : Int := if h.ty % 2 = 0 then 2 ^ (w - 1) - 1 else 2 ^ w - 1
  if h.sat = true ∧ x < lo then ((lo % 2 ^ w).toNat, .sat)
  else if h.sat = true ∧ hi < x then (hi.toNat, .sat)
  else ((x % 2 ^ w).toNat, .none)

/-- The integer types, all types, the floating types (R184). -/
def IntType (s : State) : Prop := s.shape.ty < 8
def AnyType (s : State) : Prop := s.shape.ty < 11
def FloatType (s : State) : Prop := 8 ≤ s.shape.ty ∧ s.shape.ty < 11

/-- The words of the V strand that write vector or predicate registers only, with the destinations by name. -/
def vectorWords (l : Bool) (d a b imm t hr amx fmt sa : Nat) : List (Instr × List Nat) :=
  [(.vadd l d a b, [d]), (.vsub l d a b, [d]), (.vmul l d a b, [d]), (.vmulh l d a b, [d]), (.vmulhu l d a b, [d]),
   (.vmla l d a b, [d]), (.vmin l d a b, [d]), (.vmax l d a b, [d]), (.vabs l d a, [d]), (.vneg l d a, [d]),
   (.vand l d a b, [d]), (.vor l d a b, [d]), (.vxor l d a b, [d]), (.vandn l d a b, [d]), (.vpopc l d a, [d]),
   (.vshl l d a b, [d]), (.vshr l d a b, [d]), (.vsar l d a b, [d]), (.vsel l d a b, [d]), (.vmov l d a, [d]),
   (.vbcast l d sa, [d]), (.vperm l d a b, [d]), (.vli l d imm, [d]), (.vredAdd l d a, [d]), (.vredMax l d a, [d]),
   (.vredMin l d a, [d]), (.vwmul l d a b, [d, d + 1]), (.vwadd l d a b, [d, d + 1]), (.vnarrow l d a, [d])]
  ++ [(.vfadd l d a b, [d]), (.vfsub l d a b, [d]), (.vfmul l d a b, [d]), (.vfma l d a b, [d]), (.vfmin l d a b, [d]),
   (.vfmax l d a b, [d]), (.vcvt l d a t, [d, d + 1, d + 2, d + 3]), (.vcvtMx l d a hr amx fmt, [d, d + 1]),
   (.vexp2 l d a, [d]), (.vlog2 l d a, [d]), (.vrcp l d a, [d]), (.vrsqrt l d a, [d]), (.vtanh l d a, [d]),
   (.vwfUpd l d a b, [d, d + 1, d + 2]), (.vwfMrg l d a b, [d, d + 1, d + 2])]

end Sys2Proof.Claims

/-- R164, R185, R188: element `i` of a result is the instruction's where its lane is enabled; where it is not, the old
element stays under MERGE and becomes zero without. -/
def Claims.disabledLanesKeepOrClear : Prop :=
  ∀ (s : State) (h : Shape) (vd w i : Nat) (f : Nat → Nat), 0 < w → w ∣ 4096 →
    let per := 4096 / w
    laneAt w (s.resultReg h vd w (i / per) f) (i % per) =
      if h.guard.testBit i = true then f i % 2 ^ w
      else if h.merge = true then s.groupLane 13 vd w i else 0

/-- R169, R178, R179, R188: a V result of `n` elements leaves the elements in flight to the physical registers of its
group, and its events under the shape's tensor id: of the enabled lanes, those that saturate, flush or meet a NaN. -/
def Claims.vectorResultsAndEvents : Prop :=
  ∀ (s t : State) (cls vd w n : Nat) (f : Nat → Nat × Ev), s.core.opens = [] → s.core.gev = none →
    t = s.putLanes s cls s.shape vd w n f →
    let due := s.cycle + s.core.bound cls
    let c (e : Ev) : Nat := ((List.range n).filter fun i => s.shape.on i && decide ((f i).2 = e)).length
    t = { s with core := { s.core with pend := t.core.pend, counts := t.core.counts } }
    ∧ (n * w / 4096 = 1 → t.core.pend =
        s.core.pend ++ [⟨.v (s.phys vd), s.resultReg s.shape vd w 0 (fun i => (f i).1), 0, s.cycle, due⟩])
    ∧ (c .sat = 0 → c .flush = 0 → c .nan = 0 → t.core.counts = s.core.counts)
    ∧ (0 < c .sat + c .flush + c .nan →
        t.core.counts = s.core.counts ++ [⟨s.shape.tid, c .sat, c .flush, c .nan, s.cycle, due⟩])

/-- R164, R169, R178, R179, R185, R188: lanes, results and events of a V word. -/
def Obligations.LanesResultsAndEvents : Prop := Claims.disabledLanesKeepOrClear ∧ Claims.vectorResultsAndEvents

/-- R165, R192, R193: integer arithmetic lane by lane, wrapped or clamped under SAT. -/
def Obligations.VectorIntegerArithmetic : Prop :=
  ∀ (s : State) (l : Bool) (vd va vb : Nat),
    let h := s.shape
    let w := laneWidth h.ty
    let a := val s 0 va
    let b := val s 1 vb
    let hi (x : Int) : Nat × Ev := ((x / 2 ^ w % 2 ^ w).toNat, .none)
    (VReady s 4 l (IntType s) [18] [vd, va, vb] →
      exec (.vadd l vd va vb) s = givesRegister s 4 l vd (fun i => delivered h (a i + b i))
      ∧ exec (.vsub l vd va vb) s = givesRegister s 4 l vd (fun i => delivered h (a i - b i))
      ∧ exec (.vmin l vd va vb) s = givesRegister s 4 l vd (fun i => delivered h (min (a i) (b i)))
      ∧ exec (.vmax l vd va vb) s = givesRegister s 4 l vd (fun i => delivered h (max (a i) (b i))))
    ∧ (VReady s 4 l (IntType s) [18] [vd, va] →
      exec (.vabs l vd va) s = givesRegister s 4 l vd (fun i => delivered h (a i).natAbs)
      ∧ exec (.vneg l vd va) s = givesRegister s 4 l vd (fun i => delivered h (-a i)))
    ∧ (VReady s 5 l (IntType s) [18] [vd, va, vb] →
      exec (.vmul l vd va vb) s = givesRegister s 5 l vd (fun i => delivered h (a i * b i))
      ∧ exec (.vmla l vd va vb) s = givesRegister s 5 l vd (fun i => delivered h (val s 2 vd i + a i * b i))
      ∧ exec (.vmulh l vd va vb) s =
          givesRegister s 5 l vd (fun i => hi (sext (pat s 0 va i) w * sext (pat s 1 vb i) w))
      ∧ exec (.vmulhu l vd va vb) s =
          givesRegister s 5 l vd (fun i => hi ((pat s 0 va i : Int) * pat s 1 vb i)))

/-- R194, R195, R197, R198, R199: logic, shifts, select and movement of lanes. -/
def Claims.vectorLogicShiftsAndMoves : Prop :=
  ∀ (s : State) (l : Bool) (vd va vb sa imm : Nat),
    let h := s.shape
    let w := laneWidth h.ty
    let a := pat s 0 va
    let b := pat s 1 vb
    let plain (f : Nat → Nat) : Nat → Nat × Ev := fun i => (f i, .none)
    (VReady s 4 l (AnyType s) [18] [vd, va, vb] →
      exec (.vand l vd va vb) s = givesRegister s 4 l vd (plain fun i => a i &&& b i)
      ∧ exec (.vor l vd va vb) s = givesRegister s 4 l vd (plain fun i => a i ||| b i)
      ∧ exec (.vxor l vd va vb) s = givesRegister s 4 l vd (plain fun i => a i ^^^ b i)
      ∧ exec (.vandn l vd va vb) s = givesRegister s 4 l vd (plain fun i => a i &&& (2 ^ w - 1 - b i))
      ∧ exec (.vsel l vd va vb) s = .next ((s.advance (vi 4 l)).landV 4 (s.phys vd)
          (packLanes w (laneCount h.ty) fun i => if h.guard.testBit i then a i else b i)))
    ∧ (VReady s 4 l (IntType s) [18] [vd, va, vb] →
      exec (.vshl l vd va vb) s = givesRegister s 4 l vd (fun i => delivered h (val s 0 va i * 2 ^ b i))
      ∧ exec (.vshr l vd va vb) s = givesRegister s 4 l vd (plain fun i => a i / 2 ^ b i)
      ∧ exec (.vsar l vd va vb) s = givesRegister s 4 l vd (plain fun i => (sext (a i) w / 2 ^ b i % 2 ^ w).toNat))
    ∧ (VReady s 4 l (IntType s) [18] [vd, va] →
      exec (.vpopc l vd va) s =
        givesRegister s 4 l vd (plain fun i => ((List.range w).map fun j => (a i).testBit j |>.toNat).sum))
    ∧ (VReady s 4 l (AnyType s) [18] [vd, va] → exec (.vmov l vd va) s = givesRegister s 4 l vd (plain a))
    ∧ (VReady s 4 l (AnyType s) [18] [vd] →
      exec (.vbcast l vd sa) s = givesRegister s 4 l vd (plain fun _ => (s.readS 0 sa).toNat)
      ∧ (IntType s → exec (.vli l vd imm) s = givesRegister s 4 l vd (plain fun _ => (sext imm 8 % 2 ^ w).toNat))
      ∧ (FloatType s → exec (.vli l vd imm) s = givesRegister s 4 l vd (plain fun _ =>
          ((fmtOf h.ty).rnd 0 (.ofFrac (sext imm 8) 1)).1)))
    ∧ (VReady s 5 l (AnyType s) [18] [vd, va, vb] →
      exec (.vperm l vd va vb) s = givesRegister s 5 l vd (plain fun i => a (b i % laneCount h.ty)))

/-- R158, R185, R196: a vector compare writes one bit for each lane, keeps or clears the bits of disabled lanes, and
clears the bits above the lanes. -/
def Claims.vectorCompares : Prop :=
  ∀ (s : State) (l : Bool) (pd va vb : Nat), VReady s 4 l (AnyType s) [18] [va, vb] →
    let h := s.shape
    let F := fmtOf h.ty
    let a := val s 0 va
    let b := val s 1 vb
    let fa (i : Nat) := F.val (pat s 0 va i)
    let fb (i : Nat) := F.val (pat s 1 vb i)
    let res (rel : Nat → Bool) : Out := lands s (vi 4 l) (.p pd) (packLanes 1 (laneCount h.ty) fun i =>
      if h.guard.testBit i then (rel i).toNat
      else if h.merge then ((s.readP 13 pd).getLsbD i).toNat else 0)
    (IntType s →
      exec (.vcmpEq l pd va vb) s = res (fun i => decide (pat s 0 va i = pat s 1 vb i))
      ∧ exec (.vcmpNe l pd va vb) s = res (fun i => decide (pat s 0 va i ≠ pat s 1 vb i))
      ∧ exec (.vcmpLt l pd va vb) s = res (fun i => decide (a i < b i))
      ∧ exec (.vcmpLe l pd va vb) s = res (fun i => decide (a i ≤ b i))
      ∧ exec (.vcmpLtu l pd va vb) s = res (fun i => decide (pat s 0 va i < pat s 1 vb i))
      ∧ exec (.vcmpLeu l pd va vb) s = res (fun i => decide (pat s 0 va i ≤ pat s 1 vb i)))
    ∧ (FloatType s →
      exec (.vcmpEq l pd va vb) s = res (fun i => (fa i).eqv (fb i))
      ∧ exec (.vcmpNe l pd va vb) s = res (fun i => !(fa i).eqv (fb i))
      ∧ exec (.vcmpLt l pd va vb) s = res (fun i => (fa i).lt (fb i))
      ∧ exec (.vcmpLe l pd va vb) s = res (fun i => (fa i).lt (fb i) || (fa i).eqv (fb i)))

/-- R158, R185, R194 to R199: logic, shifts, movement and compares of lanes. -/
def Obligations.VectorLogicMovesAndCompares : Prop := Claims.vectorLogicShiftsAndMoves ∧ Claims.vectorCompares

/-- R200, R201, R202: reductions of the enabled lanes into lane 0, the other lanes zero; exact widening results in a
pair; a pair narrowed under SAT. -/
def Obligations.VectorReductionsAndWidths : Prop :=
  ∀ (s : State) (l : Bool) (vd va vb : Nat),
    let h := s.shape
    let w := laneWidth h.ty
    let on := (List.range (laneCount h.ty)).filter fun i => h.guard.testBit i
    let lo : Int := if h.ty % 2 = 0 then -(2 ^ (w - 1)) else 0
    let hi : Int := if h.ty % 2 = 0 then 2 ^ (w - 1) - 1 else 2 ^ w - 1
    let first (r : Nat × Ev) : Out :=
      .next (((s.advance (vi 7 l)).landV 7 (s.phys vd) r.1).countEvs h.tid [r.2] (s.cycle + s.core.bound 7))
    (VReady s 7 l (IntType s) [18] [vd, va] →
      exec (.vredAdd l vd va) s = first (delivered h ((on.map (val s 0 va)).sum))
      ∧ exec (.vredMax l vd va) s = first (((on.map (val s 0 va)).foldl max lo % 2 ^ w).toNat, .none)
      ∧ exec (.vredMin l vd va) s = first (((on.map (val s 0 va)).foldl min hi % 2 ^ w).toNat, .none))
    ∧ (IntType s → w < 32 →
      (VReady s 5 l True [18] [vd, vd + 1, va, vb] →
        exec (.vwmul l vd va vb) s = givesLanes s 5 l vd (2 * w) (laneCount h.ty)
          (fun i => ((val s 0 va i * val s 1 vb i % 2 ^ (2 * w)).toNat, .none))
        ∧ exec (.vwadd l vd va vb) s = givesLanes s 5 l vd (2 * w) (laneCount h.ty)
          (fun i => (((val s 0 va i + val s 1 vb i) % 2 ^ (2 * w)).toNat, .none)))
      ∧ (VReady s 5 l True [18] [vd, va, va + 1] →
        exec (.vnarrow l vd va) s = givesRegister s 5 l vd (fun i =>
          let b := s.groupLane 0 va (2 * w) i
          delivered h (if h.ty % 2 = 0 then sext b (2 * w) else b))))

/-- R158, R159, R161, R186, R187, R203 to R205: the words that write VSHAPE, VWB and TWIST; a rotation also moves the
stage predicates; a value that VSHAPE or VWB does not take traps with the operand condition. -/
def Claims.shapeWindowAndRotation : Prop :=
  ∀ (s : State) (l : Bool) (sa imm : Nat), Stands s (vi 4 l) →
    let x := (s.readS 0 sa).toNat
    let y := x + 64 * imm
    let trap : Trap := ⟨1, BitVec.ofNat 64 (2 ^ 60 + 2 ^ 56 * 9 + s.nowWord .v)⟩
    (x < 2 ^ 24 → exec (.vshape l sa) s = lands s (vi 4 l) (.csr 0x2A) x)
    ∧ (2 ^ 24 ≤ x → exec (.vshape l sa) s = .next (s.takeTrap trap))
    ∧ (y % 64 = 0 → y ≤ 1024 → exec (.vwin l sa imm) s = lands s (vi 4 l) (.csr 0x28) y)
    ∧ (y % 64 ≠ 0 ∨ 1024 < y → exec (.vwin l sa imm) s = .next (s.takeTrap trap))
    ∧ exec (.vrot l) s = .next (((((s.advance (vi 4 l)).land 4 (.csr 0x29) ((s.twist + 1) % 64) (tag := 1)).land 4
        (.p 4) (s.readP 0 5).toNat (tag := 1)).land 4 (.p 5) (s.readP 0 6).toNat (tag := 1)).land 4
        (.p 6) (s.readP 0 7).toNat (tag := 1))

/-- R159: with VWB and TWIST in their ranges every name reaches a physical register of the file, and two names of one
window never reach the same one. -/
def Claims.namesReachDistinctRegisters : Prop :=
  ∀ vwb twist m n, vwb ≤ 1024 → m < 256 → n < 256 →
    physOf vwb twist n < 1280 ∧ (physOf vwb twist m = physOf vwb twist n → m = n)

/-- R158, R159, R161, R186, R187, R203 to R205: the shape, the window, rotation, and what a name reaches. -/
def Obligations.WindowShapeAndNames : Prop := Claims.shapeWindowAndRotation ∧ Claims.namesReachDistinctRegisters

/-- R168, R207 to R209: floating-point arithmetic: each lane is the exact result of its sources, rounded once in the
shape's mode; minimum and maximum choose a source, and a NaN gives way to a number. -/
def Obligations.VectorFloatArithmetic : Prop :=
  ∀ (s : State) (l : Bool) (vd va vb : Nat), VReady s 8 l (FloatType s) [18] [vd, va, vb] →
    let h := s.shape
    let F := fmtOf h.ty
    let a (i : Nat) := F.val (pat s 0 va i)
    let b (i : Nat) := F.val (pat s 1 vb i)
    let pick (larger : Bool) (i : Nat) : Nat × Ev :=
      if a i = .nan ∧ b i = .nan then (F.nan, .nan)
      else if a i = .nan then (pat s 1 vb i, .none)
      else if b i = .nan then (pat s 0 va i, .none)
      else if (a i).below (b i) = !larger then (pat s 0 va i, .none) else (pat s 1 vb i, .none)
    (h.rnd < 2 →
      exec (.vfadd l vd va vb) s = givesRegister s 8 l vd (fun i => F.rnd h.rnd ((a i).add (b i)))
      ∧ exec (.vfsub l vd va vb) s = givesRegister s 8 l vd (fun i => F.rnd h.rnd ((a i).add (b i).negate))
      ∧ exec (.vfmul l vd va vb) s = givesRegister s 8 l vd (fun i => F.rnd h.rnd ((a i).mul (b i)))
      ∧ exec (.vfma l vd va vb) s = givesRegister s 8 l vd (fun i =>
          F.rnd h.rnd ((F.val (pat s 2 vd i)).add ((a i).mul (b i)))))
    ∧ exec (.vfmin l vd va vb) s = givesRegister s 8 l vd (pick false)
    ∧ exec (.vfmax l vd va vb) s = givesRegister s 8 l vd (pick true)

/-- R10, R168, R169: a non-zero rational rounded to a format, where the result is finite: to nearest, no value of the
format is nearer; toward zero, none lies between. A result of zero is a flush. -/
def Obligations.RoundingIsCorrect : Prop :=
  ∀ F ∈ [fp32, fp16, bf16], ∀ (mode : Nat) (num : Int) (den : Nat), mode < 2 → num ≠ 0 → 0 < den →
    let r := F.rnd mode (.fin num den)
    (r.2 = .flush ↔ F.val r.1 = .zero (decide (num < 0)))
    ∧ ∀ (p q : Int) (b c d : Nat), F.val r.1 = .fin p b → F.val c = .fin q d → c < 2 ^ (1 + F.exp + F.frac) →
      (mode = 0 → r.2 = .none → (p * den - num * b).natAbs * d ≤ (q * den - num * d).natAbs * b)
      ∧ (mode = 1 → p.natAbs * den ≤ num.natAbs * b ∧ (q.natAbs * den ≤ num.natAbs * d → q.natAbs * b ≤ p.natAbs * d))

/-- R210 to R213: conversion between element types, and into MX blocks: for each enabled block 32 codes and a scale
byte, and a maximum update of the amax register. -/
def Obligations.VectorConversions : Prop :=
  ∀ (s : State) (l : Bool) (vd va t hr amx fmt : Nat), s.shape.rnd < 2 →
    let h := s.shape
    let a := laneWidth h.ty
    let b := laneWidth t
    let n := 4096 / min a b
    (h.ty < 11 → t < 11 → h.ty ≠ t → (8 ≤ h.ty ∨ 8 ≤ t) → max a b ≤ 4 * min a b →
      VReady s 9 l True [18] (groupOf vd (n * b / 4096) ++ groupOf va (n * a / 4096)) →
      exec (.vcvt l vd va t) s = givesLanes s 9 l vd b n (fun i =>
        let x := s.groupLane 0 va a i
        let v := if 8 ≤ h.ty then (fmtOf h.ty).val x else .ofFrac (val s 0 va i) 1
        if 8 ≤ t then (fmtOf t).rnd h.rnd v
        else
          let lo : Int := if t % 2 = 0 then -(2 ^ (b - 1)) else 0
          let hi : Int := if t % 2 = 0 then 2 ^ (b - 1) - 1 else 2 ^ b - 1
          (((cvi v lo hi h.rnd).1 % 2 ^ b).toNat, (cvi v lo hi h.rnd).2)))
    ∧ (fmt < 4 → VReady s 9 l (FloatType s) [18] (groupOf vd 2 ++ groupOf va (512 * a / 4096)) →
      s.core.opens = [] → s.core.gev = none → s.core.pend = [] →
      let x (i : Nat) := (fmtOf h.ty).val (s.groupLane 0 va a i)
      let block (k : Nat) := (List.range 32).map fun i => x (32 * k + i)
      let cw := if fmt < 2 then 8 else 4
      ∃ t, exec (.vcvtMx l vd va hr amx fmt) s = .next t
        ∧ t.core.counts.length ≤ s.core.counts.length + 1 ∧ t.mem = s.mem ∧ t.core.ls = s.core.ls
        ∧ ∃ codes scales, (∃ r ∈ t.core.pend, r.dest = .v (s.phys vd) ∧ r.value = codes)
          ∧ (∃ r ∈ t.core.pend, r.dest = .v (s.phys (vd + 1)) ∧ r.value = scales)
          ∧ (∀ k, k < 16 → h.guard.testBit k = true → laneAt 8 scales k = blockScale hr (block k) % 256)
          ∧ (∀ i, i < 512 → h.guard.testBit (i / 32) = true →
              laneAt cw codes i = ((blockCode fmt h.rnd (blockScale hr (block (i / 32))) (x i)).1 % 2 ^ cw).toNat)
          ∧ ∀ r ∈ t.core.pend, ∀ m, r.dest = .amaxUp m → m = amx)

/-- R207, R214: the special functions round an exact value once, lane by lane, and their special values are those of
the rule. Where the exact value is irrational the model rounds a bound that encloses it (log 21). -/
def Claims.specialFunctions : Prop :=
  ∀ (s : State) (l : Bool) (vd va : Nat), VReady s 10 l (FloatType s) [19] [vd, va] → s.shape.rnd < 2 →
    let h := s.shape
    let F := fmtOf h.ty
    let a (i : Nat) := F.val (pat s 0 va i)
    ∃ f2 fl fr fs ft : Nat → Nat × Ev,
      exec (.vexp2 l vd va) s = givesRegister s 10 l vd f2
      ∧ exec (.vlog2 l vd va) s = givesRegister s 10 l vd fl
      ∧ exec (.vrcp l vd va) s = givesRegister s 10 l vd fr
      ∧ exec (.vrsqrt l vd va) s = givesRegister s 10 l vd fs
      ∧ exec (.vtanh l vd va) s = givesRegister s 10 l vd ft
      ∧ ∀ i,
        (a i = .nan → f2 i = (F.nan, .nan) ∧ fl i = (F.nan, .nan) ∧ fr i = (F.nan, .nan) ∧ fs i = (F.nan, .nan)
          ∧ ft i = (F.nan, .nan))
        ∧ (∀ n, a i = .zero n → f2 i = F.rnd h.rnd (.fin 1 1) ∧ fl i = (F.inf true, .none) ∧ fr i = (F.inf n, .none)
          ∧ fs i = (F.inf n, .none) ∧ ft i = (F.sign n, .none))
        ∧ (a i = .inf false → f2 i = (F.inf false, .none) ∧ fl i = (F.inf false, .none) ∧ fr i = (F.sign false, .none)
          ∧ fs i = (F.sign false, .none) ∧ ft i = F.rnd h.rnd (.fin 1 1))
        ∧ (a i = .inf true → f2 i = (F.sign false, .none) ∧ fl i = (F.nan, .nan) ∧ fr i = (F.sign true, .none)
          ∧ fs i = (F.nan, .nan) ∧ ft i = F.rnd h.rnd (.fin (-1) 1))
        ∧ (∀ x d, a i = .fin x d → fr i = F.rnd h.rnd (FVal.div (.fin 1 1) (.fin x d))
          ∧ (x < 0 → fl i = (F.nan, .nan) ∧ fs i = (F.nan, .nan)))

/-- R215: Welford steps on FP32 triples: a sample or a triple enters a triple lane by lane. -/
def Claims.welfordSteps : Prop :=
  ∀ (s : State) (l : Bool) (vd va vb : Nat), s.shape.rnd < 2 → s.shape.ty = 8 →
    let h := s.shape
    let x (port n i : Nat) := s.groupLane port n 32 i
    let gives (f : Nat → Welford) (t : State) : Prop :=
      t = ((((s.advance (vi 10 l)).landV 10 (s.phys vd) (s.resultReg h vd 32 0 fun i => (f i).n)).landV 10 (s.phys (vd + 1))
        (s.resultReg h (vd + 1) 32 0 fun i => (f i).u)).landV 10 (s.phys (vd + 2))
        (s.resultReg h (vd + 2) 32 0 fun i => (f i).q)).countEvs h.tid (h.events 128 fun i => (f i).ev)
          (s.cycle + s.core.bound 10)
    (VReady s 10 l True [19] (groupOf vd 3 ++ (groupOf va 3 ++ [vb])) → ∃ t f, exec (.vwfUpd l vd va vb) s = .next t
      ∧ gives f t ∧ ∀ i, i < 128 → h.guard.testBit i = true →
        f i = wfUpd h.rnd (x 0 va i) (x 0 (va + 1) i) (x 0 (va + 2) i) (x 1 vb i))
    ∧ (VReady s 10 l True [19] (groupOf vd 3 ++ (groupOf va 3 ++ groupOf vb 3)) → ∃ t f, exec (.vwfMrg l vd va vb) s = .next t
      ∧ gives f t ∧ ∀ i, i < 128 → h.guard.testBit i = true →
        f i = wfMrg h.rnd (x 0 va i) (x 0 (va + 1) i) (x 0 (va + 2) i) (x 1 vb i) (x 1 (vb + 1) i) (x 1 (vb + 2) i))

/-- R207, R214, R215: special functions and Welford steps. The enclosures of log 21 are in the first part. -/
def Obligations.SpecialFunctionsAndWelford : Prop := Claims.specialFunctions ∧ Claims.welfordSteps

/-- R178, R185, R188, R273: a V word that writes registers changes nothing but what is in flight to its destinations,
its events in flight, its own strand, and the marks of R230 and R250: no other register, no byte of the local store or
of far memory. The maximum update of `vcvt.mx` is the one other result. -/
def Claims.vectorWordFrame : Prop :=
  ∀ (s t : State) (l : Bool) (d a b imm ty hr amx fmt sa : Nat),
    (∀ w ∈ vectorWords l d a b imm ty hr amx fmt sa, exec w.1 s = .next t → Trapped s t ∨
      (WordFrame s t ∧ t.core.thr = { s.core.thr with v := t.core.thr.v } ∧ t.core.lsPend = s.core.lsPend
        ∧ t.core.ports = s.core.ports
        ∧ OthersInFlight s t (.amaxUp amx :: .csr (0x40 + amx) :: w.2.map fun n => .v (s.phys n))
        ∧ (∀ p n, n ∉ w.2.map s.phys → t.readV p n = s.readV p n)
        ∧ (∀ p n, t.readS p n = s.readS p n) ∧ (∀ p n, t.readP p n = s.readP p n)
        ∧ (∀ p x, t.readLs p x = s.readLs p x) ∧ ∀ x, t.mem.read x = s.mem.read x))
    ∧ ∀ w ∈ [Instr.vcmpEq l d a b, .vcmpNe l d a b, .vcmpLt l d a b, .vcmpLtu l d a b, .vcmpLe l d a b, .vcmpLeu l d a b],
      exec w s = .next t → Trapped s t ∨ RegisterFrame s t .v [.p d]

/-! ### The V strand: the local store -/

namespace Sys2Proof.Claims

/-- The enabled lanes of a 32-bit shape, and the address that a lane of `va` names (R163). -/
def lanesOn (s : State) : List Nat := (List.range 128).filter fun i => s.shape.guard.testBit i
def laneAddress (s : State) (va i : Nat) : Nat := s.groupLane 0 va 32 i

/-- An indexed access may run: aligned words within the local store, usable, the core port free, no watchpoint. -/
def IndexReady (s : State) (l : Bool) (okType : Prop) (names : List Nat) (va last kind : Nat) : Prop :=
  VReady s 6 l okType [18] names
    ∧ (∀ i ∈ lanesOn s, laneAddress s va i % 4 = 0 ∧ laneAddress s va i ≤ 0x1FFFFC ∧ Usable s (laneAddress s va i / 2 ^ 18))
    ∧ s.portTraps .v [s.portAll last] = []
    ∧ s.watchTraps .v kind ((lanesOn s).flatMap fun i =>
        [laneAddress s va i, laneAddress s va i + 1, laneAddress s va i + 2, laneAddress s va i + 3]) = []

/-- The word at a lane's address after the atomic actions of the lanes below `k` (R163): the operands of those that
name the same address, in ascending order. -/
def wordAfter (s : State) (f : Nat → Nat → Nat) (va vb k a : Nat) : Nat :=
  ((lanesOn s).filter fun j => decide (j < k ∧ laneAddress s va j = a)).foldl
    (fun x j => f x (s.groupLane 1 vb 32 j)) (numberAt s a 4)

end Sys2Proof.Claims

/-- R163, R164: `vld` fills the enabled lanes from the 512 bytes at its address; `vst` writes the bytes of the enabled
lanes and, of a byte that holds one enabled 4-bit lane, only that half. -/
def Obligations.VectorLoadAndStore : Prop :=
  ∀ (s : State) (l : Bool) (v sa imm : Nat),
    let h := s.shape
    let w := laneWidth h.ty
    let a := (s.readS 0 sa).toNat + 64 * imm
    let old (i : Nat) := (s.readLs 0 (a + i)).toNat
    let new (i : Nat) := (s.readV 0 (s.phys v)).toNat / 256 ^ i % 256
    a % 64 = 0 → a + 511 ≤ 0x1FFFFF → VReady s 6 l (AnyType s) [18] [v] →
    (∀ i, i < 512 → (∃ k, k < laneCount h.ty ∧ h.guard.testBit k = true ∧ w * k / 8 ≤ i ∧ i ≤ (w * k + w - 1) / 8) →
      Usable s ((a + i) / 2 ^ 18)) →
    s.portTraps .v [s.portNow .v a 512] = [] →
    (s.watchTraps .v 1 (h.bytes a) = [] → exec (.vld l v sa imm) s =
      .next (((s.advance (vi 6 l)).usePorts [s.portNow .v a 512]).putLanes s 6 { h with tid := 0 } v w (laneCount h.ty)
        (fun i => (numberAt s a 512 / 2 ^ (w * i) % 2 ^ w, .none))))
    ∧ (s.watchTraps .v 0 (h.bytes a) = [] → ∃ ws, exec (.vst l v sa imm) s =
        .next (((s.advance (vi 6 l)).usePorts [s.portNow .v a 512]).writeLsAt (s.cycle + s.core.bound 6) ws)
      ∧ (ws.map (·.1)).Nodup ∧ (∀ e ∈ ws, a ≤ e.1 ∧ e.1 < a + 512)
      ∧ ∀ i, i < 512 → ∀ b : Byte,
        (8 ≤ w → ((a + i, b) ∈ ws ↔ h.guard.testBit (i * 8 / w) = true ∧ b.toNat = new i))
        ∧ (w = 4 → ((a + i, b) ∈ ws ↔ (h.guard.testBit (2 * i) = true ∨ h.guard.testBit (2 * i + 1) = true)
          ∧ b.toNat % 16 = (if h.guard.testBit (2 * i) then new i else old i) % 16
          ∧ b.toNat / 16 = (if h.guard.testBit (2 * i + 1) then new i else old i) / 16)))

/-- R155, R163: indexed access by the enabled lanes of a 32-bit shape: `vldx` loads each lane's word; of `vstx` lanes at
one address the highest prevails. -/
def Claims.indexedLoadAndStore : Prop :=
  ∀ (s : State) (l : Bool) (vd va : Nat), s.shape.ty ∈ [4, 5, 8] →
    (IndexReady s l True [vd, va] va 0 1 → exec (.vldx l vd va) s =
      .next (((s.advance (vi 6 l)).usePorts [s.portAll 0]).putLanes s 6 s.shape vd 32 128
        (fun i => (numberAt s (laneAddress s va i) 4, .none))))
    ∧ (IndexReady s l True [vd, va] va 0 0 → ∃ ws, exec (.vstx l vd va) s =
        .next (((s.advance (vi 6 l)).usePorts [s.portAll 0]).writeLsAt (s.cycle + s.core.bound 6) ws)
      ∧ (ws.map (·.1)).Nodup
      ∧ ∀ x (b : Byte), (x, b) ∈ ws ↔ ∃ i ∈ lanesOn s, ∃ j, j < 4 ∧ x = laneAddress s va i + j
          ∧ (∀ k ∈ lanesOn s, i < k → laneAddress s va k ≠ laneAddress s va i)
          ∧ b.toNat = s.groupLane 1 vd 32 i / 256 ^ j % 256)

/-- R155, R163: the LS atomics: the enabled lanes act in ascending order, each delivers the word it found, and the
words are left as the last action made them. -/
def Claims.localStoreAtomics : Prop :=
  ∀ (s : State) (l : Bool) (vd va vb : Nat), s.shape.ty ∈ [4, 5] → IndexReady s l True [vd, va, vb] va 2 2 →
    let sign (x : Nat) : Int := if s.shape.ty = 4 then sext x 32 else (x % 2 ^ 32 : Nat)
    ∀ e ∈ [(Instr.vamoOr l vd va vb, fun o b : Nat => o ||| b), (.vamoAdd l vd va vb, fun o b => (o + b) % 2 ^ 32),
        (.vamoMin l vd va vb, fun o b => if sign o ≤ sign b then o else b),
        (.vamoMax l vd va vb, fun o b => if sign b ≤ sign o then o else b)],
      ∃ ws, exec e.1 s =
        .next ((((s.advance (vi 6 l)).usePorts [s.portAll 2]).writeLsAt (s.cycle + s.core.bound 6) ws).putLanes s 6 s.shape
          vd 32 128 (fun i => (if i ∈ lanesOn s then wordAfter s e.2 va vb i (laneAddress s va i) else 0, .none)))
      ∧ (ws.map (·.1)).Nodup
      ∧ ∀ x (b : Byte), (x, b) ∈ ws ↔ ∃ i ∈ lanesOn s, ∃ j, j < 4 ∧ x = laneAddress s va i + j
          ∧ b.toNat = wordAfter s e.2 va vb 128 (laneAddress s va i) / 256 ^ j % 256

/-- R155, R163: indexed accesses and atomics of the local store. -/
def Obligations.IndexedAccessesAndAtomics : Prop := Claims.indexedLoadAndStore ∧ Claims.localStoreAtomics

/-- R163: a vector access that is misaligned or ends beyond the local store raises the alignment trap; the address of
`vld` and `vst`, and of the lowest such enabled lane of an indexed access, stands in TRAPINFO. That an aligned `vld` or `vst` which
ends beyond the local store shows its own address there is the model's reading (log 17). -/
def Claims.vectorMisalignedTraps : Prop :=
  ∀ (s : State) (l : Bool) (v va vb sa imm : Nat), VReady s 6 l (s.shape.ty ∈ [4, 5]) [18] [v, va, vb] →
    let a := (s.readS 0 sa).toNat + 64 * imm
    let trap (x : Nat) : Trap := ⟨3, BitVec.ofNat 64 (2 ^ 60 + x % 2 ^ 56)⟩
    ((a % 64 ≠ 0 ∨ 0x1FFFFF < a + 511) → ∀ i ∈ [Instr.vld l v sa imm, .vst l v sa imm], exec i s = .next (s.takeTrap (trap a)))
    ∧ ∀ k ∈ lanesOn s, (laneAddress s va k % 4 ≠ 0 ∨ 0x1FFFFC < laneAddress s va k) →
      (∀ j ∈ lanesOn s, j < k → laneAddress s va j % 4 = 0 ∧ laneAddress s va j ≤ 0x1FFFFC) →
      ∀ i ∈ [Instr.vldx l v va, .vstx l v va, .vamoOr l v va vb, .vamoAdd l v va vb, .vamoMin l v va vb, .vamoMax l v va vb],
        exec i s = .next (s.takeTrap (trap (laneAddress s va k)))

/-- R156, R163: what the vector accesses leave alone: a load every byte; `vst` every byte outside the 512 from its
address; `vstx` and the atomics every byte outside the words of their enabled lanes. -/
def Claims.vectorAccessFrame : Prop :=
  ∀ (s t : State) (l : Bool) (v va vb sa imm : Nat),
    let a := (s.readS 0 sa).toNat + 64 * imm
    let outside (x : Nat) : Prop := ∀ i ∈ lanesOn s, x < laneAddress s va i ∨ laneAddress s va i + 4 ≤ x
    let ownV (t : State) : Prop := t.core.thr = { s.core.thr with v := t.core.thr.v }
    (∀ i ∈ [Instr.vld l v sa imm, .vldx l v va], exec i s = .next t →
      Trapped s t ∨ (WordFrame s t ∧ ownV t ∧ t.core.lsPend = s.core.lsPend ∧ OthersInFlight s t [.v (s.phys v)]
        ∧ ∀ p x, t.readLs p x = s.readLs p x))
    ∧ (exec (.vst l v sa imm) s = .next t → Trapped s t ∨ (WordFrame s t ∧ ownV t ∧ t.core.pend = s.core.pend
        ∧ ∀ p x, (x < a ∨ a + 512 ≤ x) → t.readLs p x = s.readLs p x))
    ∧ (exec (.vstx l v va) s = .next t → Trapped s t ∨ (WordFrame s t ∧ ownV t ∧ t.core.pend = s.core.pend
        ∧ ∀ p x, outside x → t.readLs p x = s.readLs p x))
    ∧ ∀ i ∈ [Instr.vamoOr l v va vb, .vamoAdd l v va vb, .vamoMin l v va vb, .vamoMax l v va vb],
        exec i s = .next t → Trapped s t ∨ (WordFrame s t ∧ ownV t ∧ OthersInFlight s t [.v (s.phys v)]
          ∧ ∀ p x, outside x → t.readLs p x = s.readLs p x)

/-- R155, R156, R162, R163: what the accesses of the local store leave alone. -/
def Obligations.LocalAccessFrames : Prop := Claims.scalarAccessFrame ∧ Claims.vectorAccessFrame

/-! ### The row engine -/

namespace Sys2Proof.Claims

/-- The passes of the row engine: kind, word, register names. -/
def rowWords (l : Bool) (v sa vc : Nat) : List (Nat × Instr × List Nat) :=
  [(0, .rowmax l v sa, [v]), (1, .rowexp l v sa vc, [v, vc]), (2, .rowscl l v sa, [v])]

end Sys2Proof.Claims

/-- R216, R218, R219: a row pass takes its unit for its occupancy, the core port on its timetable, and its registers; its
register is in flight from its issue until the pass's bound after its occupancy. -/
def Claims.rowPassesStart : Prop :=
  ∀ (s : State) (l : Bool) (v sa vc : Nat), ∀ e ∈ rowWords l v sa vc,
    let h := s.shape
    let d := (s.readS 0 sa).toNat
    let r := rowsOf d
    let due := s.cycle + r.occ e.1 + s.core.bound 11
    VReady s 11 l (FloatType s) [19] e.2.2 → s.rowTraps e.1 d e.2.2 = [] →
      ∃ t p, exec e.2.1 s = .next t ∧ t.core.rows = s.core.rows ++ [p]
        ∧ p.kind = e.1 ∧ p.issue = s.cycle ∧ p.busy = s.cycle + r.occ e.1 ∧ p.due = due ∧ p.rows = r ∧ p.got = []
        ∧ p.on = r.enabled h ∧ p.ty = h.ty ∧ p.rnd = h.rnd ∧ p.tid = h.tid ∧ p.phys = s.phys v ∧ p.v = s.readV 0 (s.phys v)
        ∧ (e.1 = 1 → p.vc = s.readV 1 (s.phys vc))
        ∧ t.core.ports = s.core.ports ++ r.slots e.1 s.cycle
        ∧ t.core.ls = s.core.ls ∧ t.core.v = s.core.v ∧ t.core.lsPend = s.core.lsPend ∧ t.mem = s.mem
        ∧ (e.1 = 2 → t.core.pend = s.core.pend)
        ∧ (e.1 ≠ 2 → s.core.opens = [] → ∃ x, t.core.pend = s.core.pend ++ [⟨.v (s.phys v), x, 3, s.cycle, due⟩])

/-- R216 to R219: a pass whose last chunk has been read puts its results in flight from its issue: `rowmax` each enabled row's
largest value in that row's lane of `v`; `rowexp` each row's elements and their sum; `rowscl` each row's elements; and a pass
that has landed commits its counts. -/
def Claims.rowPassesFinish : Prop :=
  ∀ (c : Core) (p : RowPass),
    let F := fmtOf p.ty
    let r := p.rows
    let v (i : Nat) : FVal := fp32.val (laneAt 32 p.v.toNat i)
    let elems (i : Nat) : List Nat :=
      if p.kind = 1 then (rowExp F p.rnd (v i) (fp32.val (laneAt 32 p.vc.toNat i)) (p.elems i) (0, .none)).elems
      else (p.elems i).map fun x => (F.rnd p.rnd ((F.val x).div (v i))).1
    let lane (i : Nat) : Nat :=
      if p.kind = 0 then (rne32 (rowTop ((p.elems i).map F.val))).1
      else (rowExp F p.rnd (v i) (fp32.val (laneAt 32 p.vc.toNat i)) (p.elems i) (0, .none)).lane
    (∀ x, p.kind < 2 → c.pend = [⟨.v p.phys, x, 3, p.issue, p.due⟩] →
      ∃ y, (c.rowDone p).pend = [⟨.v p.phys, y, 0, p.issue, p.due⟩] ∧ ∀ i ∈ p.on, i < 128 → laneAt 32 y i = lane i % 2 ^ 32)
    ∧ (p.kind = 0 → (c.rowDone p).lsPend = c.lsPend)
    ∧ (0 < p.kind → p.kind < 3 → c.ghosts = [] → (p.ty = 8 ∨ p.ty = 9 ∨ p.ty = 10) → ∀ i ∈ p.on, ∀ j, j < 64 * r.len →
      (⟨r.at_ i + j, BitVec.ofNat 8 ((elems i).getD (8 * j / laneWidth p.ty) 0 / 256 ^ (j % (laneWidth p.ty / 8))),
        p.issue, p.due⟩ : LsWrite) ∈ (c.rowDone p).lsPend)
    ∧ ∀ s : State, s.core.rows = [p] → p.finished = true → p.busy ≤ s.cycle → p.due ≤ s.cycle →
        ∃ t, exec (.rowPassCompletion p.kind) s = .next t ∧ t.core.rows = []
          ∧ ∀ tm, s.team = some tm → t.team = some (tm.commit p.issue p.tid p.sat p.ftz p.nan)

/-- R218: a pass reads its next chunk in its cycle: `rowmax` a chunk a cycle from its issue, the others one in two; an
enabled row's chunk is its bytes of the local store where nothing is in flight or under way there. -/
def Claims.rowPassesRead : Prop :=
  ∀ (s : State) (p : RowPass), s.core.rows = [p] → p.finished = false → p.got.length + 1 < p.rows.rows * p.rows.chunks →
    s.cycle = p.issue + (if p.kind = 0 then 1 else 2) * p.got.length →
    ∃ x, s.rowSlots.core.rows = [{ p with got := p.got ++ [x] }] ∧ s.rowSlots.core.pend = s.core.pend
      ∧ (s.core.ghosts = [] → s.core.opens = [] → s.core.lsPend = [] → p.got.length / p.rows.chunks ∈ p.on →
        x = leNat ((List.range (min 512 (64 * p.rows.len - 512 * (p.got.length % p.rows.chunks)))).map fun k =>
          look 0 s.core.ls (p.rows.at_ (p.got.length / p.rows.chunks) + 512 * (p.got.length % p.rows.chunks) + k)))

/-- R216 to R219: a row pass starts, reads its chunks, has its results, and completes. -/
def Obligations.RowPasses : Prop := Claims.rowPassesStart ∧ Claims.rowPassesRead ∧ Claims.rowPassesFinish

/-! ### The M strand: matrix engine -/

namespace Sys2Proof.Claims

/-- The issue of `mgo`, and of the commands of the X strand: two words, pushing later where the guard is off (R38). -/
def mgoWord (l : Bool) (g : Guard) (t : Tok) : Issue := { mi 15 l g with len := 8, async := some t.push }

/-- A command stands in a queue as the next one, waiting for its pops, and its window is open; the command that the
queue held before are as they were (R38, R115, R116, R118). -/
def Queued (s t : State) (q : Nat) (op : CmdOp) (tok : Tok) : Prop :=
  ∃ c : Cmd, (t.core.queue q).cmds = (s.core.queue q).cmds ++ [c]
    ∧ c.idx = (s.core.queue q).next ∧ c.op = op ∧ c.push = tok.push ∧ c.stage = .waiting ∧ c.issue = s.cycle
    ∧ c.pops = [tok.popA, tok.popB, tok.popC].filter (· != 15)
    ∧ (t.core.queue q).next = ((s.core.queue q).next + 1) % 2 ^ 16
    ∧ (t.core.queue q).halted = (s.core.queue q).halted
    ∧ (∃ w ∈ t.core.opens, w.queue = q ∧ w.idx = c.idx ∧ w.push = tok.push ∧ w.pushed = false ∧ w.closed = false
        ∧ w.from_ = s.cycle + 1)
    ∧ (∀ p, p ∈ [4, 5, 6, 7, 8] → p ≠ q → t.core.queue p = s.core.queue p)
    ∧ t.core.pend = s.core.pend ∧ t.core.s = s.core.s ∧ t.core.v = s.core.v ∧ t.core.ls = s.core.ls
    ∧ t.core.chan = s.core.chan ∧ t.mem = s.mem

end Sys2Proof.Claims

/-- R221, R222, R224, R225, R232, R236 to R238, R241, R242: the words that set up the matrix engine. `mcfg` and
`mzero` also leave +0 in flight to the registers of all tiles, or of one. -/
def Obligations.MatrixSetupWords : Prop :=
  ∀ (s : State) (l : Bool) (q n tile mode c sa sb : Nat) (g : Guard), Runs s (mi 12 l g) →
    let w := (s.readS 0 sa).toNat
    let a := s.advance (mi 12 l g)
    let tc := s.tcfgNow
    let zero (regs : List Nat) (t : State) : State := regs.foldl (fun t r => t.land 12 (.v r) 0 (tag := 2)) t
    let field (hi lo : Nat) : Nat := w / 2 ^ lo % 2 ^ (hi + 1 - lo)
    let size (w : Nat) : Nat := 32 * (w % 16) * (w / 16 % 16)
    let tileAt (w t : Nat) : List Nat := (List.range (size w)).map (32 * (w / 2 ^ 16 % 64) + size w * t + ·)
    let regs := (List.range (size w * (field 10 8 + 1))).map (32 * field 21 16 + ·)
    (w < 2 ^ 22 → field 15 11 = 0 → 1 ≤ field 3 0 → field 3 0 ≤ 3 → 1 ≤ field 7 4 → field 7 4 ≤ 5 →
      32 * field 21 16 + size w * (field 10 8 + 1) ≤ 1280 → (∀ r ∈ regs, Usable s (8 + r / 128)) → s.core.nestOpen = false →
      exec (.mcfg l sa g) s = .next (zero regs (a.land 12 (.csr 0x2B) w)))
    ∧ (w % 16 = 0 → w ≤ 0x1FFFF0 → Usable s (w / 2 ^ 18) → numberAt s w 16 / 2 ^ 56 % 2 ^ 3 = 0 →
      numberAt s w 16 % 2 ^ 54 = 0 → s.portTraps .m [s.portNow .m w 16] = [] →
      exec (.mstream l q sa g) s = .next ((a.usePorts [s.portNow .m w 16]).land 12 (.q q) (numberAt s w 16)))
    ∧ (n < 6 → field 15 0 = 0 → exec (.mnest l n sa g) s = .next (a.land 12 (.nest n) w))
    ∧ (n = 6 → w < 2 ^ 32 → field 17 12 = 0 → field 20 18 ≤ 5 → exec (.mnest l n sa g) s = .next (a.land 12 (.nest n) w))
    ∧ (tc % 16 ≠ 0 → tc / 16 % 16 ≠ 0 → tile ≤ tc / 2 ^ 8 % 8 → (∀ r ∈ tileAt tc tile, Usable s (8 + r / 128)) →
      s.core.tileOpen tile = false → exec (.mzero l tile g) s = .next (zero (tileAt tc tile) a))
    ∧ (∀ tm, s.team = some tm → mode < 4 → (mode % 2 = 0 ∨ 1 ≤ tm.gw) → (mode < 2 ∨ tm.gw = 2) → s.core.nestOpen = false →
      exec (.mgang l mode g) s = .next (a.land 12 .gang mode))
    ∧ (∀ tm, s.team = some tm → c < 3 → w < 2 ^ 12 → exec (.mstat l c sa sb g) s = .next (a.land 12 (.s sb)
        ((match c with | 0 => Stat.sat | 1 => Stat.ftz | _ => Stat.nan) (look ⟨0, 0, 0⟩ tm.stats w))))

/-- R226 to R228, R239, R240: `mgo` queues a nest on the snapshot of the engine's registers; `mdrain` removes the nests
that have not begun, each of which will push, and keeps those that have. -/
def Claims.nestsAreQueuedAndDrained : Prop :=
  ∀ (s : State) (l : Bool) (g : Guard) (tok : Tok),
    (Runs s (mgoWord l g tok) → s.mgoTraps s.snapshot = [] →
      ∃ t, exec (.mgo l g tok) s = .next t ∧ Queued s t 7 (.nest s.snapshot) tok ∧ t.teams = s.teams)
    ∧ (Runs s (mi 12 l g) → ∃ t, exec (.mdrain l g) s = .next t
      ∧ t.core.mxq.cmds = s.core.mxq.cmds.filter (fun x => decide (x.stage = .begun)) ∧ t.core.mxq.record = none
      ∧ t.core.gpush.map (fun e => (e.1.ch, e.2)) = s.core.gpush.map (fun e => (e.1.ch, e.2))
          ++ (s.core.mxq.cmds.filter fun x => decide (x.stage ≠ .begun)).map fun x =>
            (x.push, s.cycle, s.cycle + s.core.bound 12))

/-- R174: one step of an element: a NaN accumulator or scale gives the canonical NaN, an infinity stays, and otherwise
the exact block sum is added and rounded once to nearest. -/
def Obligations.MatrixElementStep : Prop :=
  ∀ (acc : Nat) (sat ftz nan : Bool) (sum64 : Int) (ea eb : Nat),
    let r := blockStep (acc, sat, ftz) nan sum64 ea eb
    let blk : FVal := if sum64 = 0 then .zero false
      else if 266 ≤ ea + eb then .fin (sum64 * 2 ^ (ea + eb - 266)) 1 else .fin sum64 (2 ^ (266 - (ea + eb)))
    let v := fp32.val acc
    (nan = true ∨ v = .nan → r.1 = 0x7FC00000)
    ∧ (∀ n, nan = false → v = .inf n → r = (acc, sat, ftz))
    ∧ (nan = false → v ≠ .nan → (∀ n, v ≠ .inf n) →
        r = ((rne32 (v.add blk)).1, sat || decide ((rne32 (v.add blk)).2 = .sat), ftz || decide ((rne32 (v.add blk)).2 = .flush)))
    ∧ (nan = false → sum64 = 0 → (∃ p d, v = .fin p d) → r = (acc % 2 ^ 32, sat, ftz))

/-- R226, R227, R230, R231: a nest without sharing begins when its pops are taken and no result is in flight to its
tile; when it completes it leaves the matrix queue, pushes its token, and each element of its tile that no write
spoilt is the old element after its slots in order. -/
def Claims.nestsRunAndComplete : Prop :=
  ∀ (s : State) (x : Cmd) (n : NestSnap), s.core.mxq.cmds = [x] → x.op = .nest n → n.share = 0 →
    (x.stage = .waiting → x.pops = [] → s.core.mxq.halted = false → s.core.pend = [] → n.meets = false →
      ∃ t, exec .nestStart s = .next t ∧ t.core.mxq.cmds = [{ x with stage := .begun }] ∧ t.core.v = s.core.v
        ∧ t.core.chan = s.core.chan ∧ t.mem = s.mem)
    ∧ (x.stage = .begun → s.core.canonical = true → s.core.ghosts = [] → (∀ c ∈ s.others, c.place ≠ s.core.place) →
      ∃ t, exec .nestCompletion s = .next t ∧ t.core.mxq.cmds = []
        ∧ (∃ p ∈ t.core.arrivals, p.ch = x.push ∧ p.src = 7 ∧ p.qidx = x.idx)
        ∧ t.core.ls = s.core.ls ∧ t.mem = s.mem
        ∧ (∀ r, r ∉ tileRegs n.tcfg.toNat n.tile → look 0 t.core.v r = look 0 s.core.v r)
        ∧ (s.core.opens.all (fun w => w.spoilt == []) = true → ∀ k lane, k < tSize n.tcfg.toNat → lane < 128 →
          let r := 32 * tBase n.tcfg.toNat + tSize n.tcfg.toNat * n.tile + k
          let e := 128 * k + lane
          let cols := 64 * tCols n.tcfg.toNat
          ∀ y, (nestRun [(s.core, x)] s.core n).element (e / cols) (e % cols) (laneAt 32 (look 0 s.core.v r).toNat lane) = some y →
            laneAt 32 (look 0 t.core.v r).toNat lane = y.1 % 2 ^ 32))

/-- R226 to R231, R239, R240: nests are queued, drained, begin and complete. -/
def Obligations.NestsFromQueueToCompletion : Prop := Claims.nestsAreQueuedAndDrained ∧ Claims.nestsRunAndComplete

/-! ### The M strand: grammar engine -/

/-- R245, R246, R249, R252, R255 to R258: `gset` takes a configuration; `gev` starts a segment for its occupancy;
`gout` leaves scaled sums in flight; `gstat` reads a counter of the last segment. -/
def Claims.grammarWords : Prop :=
  ∀ (s : State) (l : Bool) (c sa sb : Nat) (g : Guard), Runs s (mi 13 l g) →
    let x := (s.readS 0 sa).toNat
    let y := (s.readS 1 sb).toNat
    let a := s.advance (mi 13 l g)
    let d := numberAt s x 32
    (x % 32 = 0 → x ≤ 0x1FFFE0 → Usable s (x / 2 ^ 18) → Usable s 24 → grammarOk d = true →
      (grammarOf d).sbase + 4 * (grammarOf d).swm1 + 3 ≤ 0x1FFFFF → (grammarOf d).scl + (grammarOf d).nrowm1 ≤ 0x1FFFFF →
      s.portTraps .m [s.portNow .m x 32] = [] →
      exec (.gset l sa g) s = .next ((a.usePorts [s.portNow .m x 32]).land 13 .gcfg d))
    ∧ (∀ cfg, s.grammarNow = some cfg → s.gevTraps x (some cfg) = [] →
      let first := x % 2 ^ 15
      let n := x / 2 ^ 16 % 2 ^ 15 + 1
      let o := s.segCycles (grammarOf cfg) first n
      ∃ t e, exec (.gev l sa g) s = .next t ∧ t.core.gev = some e ∧ e.first = first ∧ e.n = n ∧ e.done = 0
        ∧ e.issue = s.cycle ∧ e.occ = o ∧ e.due = s.cycle + o + s.core.bound 13 ∧ t.core.gevBusy = s.cycle + o
        ∧ e.xphys = (grammarOf cfg).xnames.map s.phys
        ∧ t.core.rvf = s.core.rvf ∧ t.core.pend = s.core.pend ∧ t.core.ls = s.core.ls ∧ t.mem = s.mem)
    ∧ (∀ cfg, s.grammarNow = some cfg → y < 256 → x ≤ (grammarOf cfg).nrowm1 →
      let gr := grammarOf cfg
      let n := min 128 (gr.nrowm1 + 1 - x)
      (∀ dom ∈ [24, 8 + s.phys y / 128, (gr.scl + x) / 2 ^ 18, (gr.scl + x + n - 1) / 2 ^ 18], Usable s dom) →
      s.portTraps .m [s.portNow .m (gr.scl + x) n] = [] → s.core.opens = [] → s.core.gev = none →
      ∃ t v, exec (.gout l sa sb g) s = .next t
        ∧ t.core.pend = s.core.pend ++ [⟨.v (s.phys y), v, 0, s.cycle, s.cycle + s.core.bound 13⟩]
        ∧ t.core.ls = s.core.ls ∧ t.core.rvf = s.core.rvf ∧ t.mem = s.mem
        ∧ ∀ i, i < 128 → laneAt 32 v i = (if i < n then
            (outElem (s.readRvf (gr.obase + x + i)) (s.readLs 0 (gr.scl + x + i)).toNat).1 else 0) % 2 ^ 32)
    ∧ (Usable s 24 → exec (.gstat l c sb g) s = .next (a.land 13 (.s sb) (look 0 s.core.gstat c)))

/-- R177, R247 to R249, R258: the rule whose cycles begin is evaluated: its entry takes the sum and the depth, or its
fault is a trap at the next boundary and the segment ends below it, its occupancy as before; a segment whose cycles are over
leaves the evaluator; and where it met no fault its counters and counts are there from its due cycle on, whatever the evaluator
does then. -/
def Claims.grammarSteps : Prop :=
  ∀ (s : State) (e : Gev), s.core.ghosts = [] →
    (s.core.gev = some e → e.done < e.n → e.at_ ≤ s.cycle →
      (∀ k sum depth ev terms refs, s.runRule e (e.first + e.done) = (k, .ok sum depth ev terms refs) →
        smapWf ⟨0, 0⟩ s.core.rvf = true →
        ∃ t e', exec .grammarRuleEvaluation s = .next t ∧ t.core.gev = some e' ∧ e'.done = e.done + 1
          ∧ e'.at_ = e.at_ + k ∧ e'.terms = e.terms + terms ∧ e'.refs = e.refs + refs
          ∧ look ⟨0, 0⟩ t.core.rvf (e.first + e.done) = ⟨BitVec.ofNat 32 sum, depth⟩
          ∧ (∀ r, r ≠ e.first + e.done → look ⟨0, 0⟩ t.core.rvf r = look ⟨0, 0⟩ s.core.rvf r)
          ∧ t.core.v = s.core.v ∧ t.core.ls = s.core.ls ∧ t.mem = s.mem)
      ∧ (∀ k code sym reason, s.runRule e (e.first + e.done) = (k, .fault code sym reason) →
        ∃ t, exec .grammarRuleEvaluation s = .next t ∧ t.core.gev = some { e with n := e.done, failed := true }
          ∧ t.core.rvf = s.core.rvf ∧ t.core.gevBusy = s.core.gevBusy
          ∧ t.core.after = s.core.after ++ [⟨code, BitVec.ofNat 64 (2 ^ 60 * 10
            + (2 ^ 16 * (e.first + e.done) + 2 ^ 8 * sym + reason) % 2 ^ 60)⟩]))
    ∧ (s.core.gev = some e → e.done = e.n → e.issue + e.occ + e.late ≤ s.cycle → e.spoilt = false →
        (∀ g gs, s.core.gevEnds = g :: gs → s.core.mayLand g.due s.cycle = false) →
        ∃ t, exec .gevCompletion s = .next t ∧ t.core.gev = none ∧ t.core.gevEnds = s.core.gevEnds ++ [e]
          ∧ t.core.rvf = s.core.rvf)
    ∧ (∀ gs, s.core.gevEnds = e :: gs → e.due ≤ s.cycle → e.failed = false → smapWf 0 s.core.gstat = true →
        ∃ t, exec .gevCompletion s = .next t ∧ t.core.gevEnds = gs
          ∧ look 0 t.core.gstat 0 = e.n ∧ look 0 t.core.gstat 1 = e.terms ∧ look 0 t.core.gstat 2 = e.refs
          ∧ look 0 t.core.gstat 3 = e.occ
          ∧ ∀ tm, s.team = some tm → t.team = some (tm.commit e.issue (grammarOf e.cfg.toNat).tid e.sat e.ftz e.nan))
    ∧ ∀ (sum ex : Nat), (ex = 0xFF → (outElem sum ex).1 = 0x7FC00000)
        ∧ (∀ p d, ex < 0xFF → fp32.val sum = .fin p d → (outElem sum ex).1 =
          (rne32 (if 127 ≤ ex then .fin (p * 2 ^ (ex - 127)) d else .fin p (d * 2 ^ (127 - ex)))).1)

/-- R177, R245 to R249, R252, R255 to R258: the grammar words, and the steps of a segment. -/
def Obligations.GrammarEngine : Prop := Claims.grammarWords ∧ Claims.grammarSteps

/-- R273: what the M words leave alone: the words that set up the engines change only what is in flight, their strand,
and the core port; every word leaves every register, the local store, far memory and the other strands as they were. -/
def Claims.matrixWordFrame : Prop :=
  ∀ (s t : State) (l : Bool) (q n tile mode c sa sb : Nat) (g : Guard) (tok : Tok),
    ∀ i ∈ [Instr.mcfg l sa g, .mstream l q sa g, .mnest l n sa g, .mgo l g tok, .mdrain l g, .mzero l tile g,
        .mgang l mode g, .mstat l c sa sb g, .gset l sa g, .gev l sa g, .gout l sa sb g, .gstat l c sb g],
      exec i s = .next t → Trapped s t ∨
        (t.core.s = s.core.s ∧ t.core.p = s.core.p ∧ t.core.v = s.core.v ∧ t.core.ls = s.core.ls ∧ t.core.csr = s.core.csr
          ∧ t.core.code = s.core.code ∧ t.core.rvf = s.core.rvf ∧ t.core.chan = s.core.chan ∧ t.core.dom = s.core.dom
          ∧ t.core.thr = { s.core.thr with m := t.core.thr.m } ∧ t.mem = s.mem ∧ t.teams = s.teams ∧ t.dev = s.dev
          ∧ t.others = s.others ∧ t.cycle = s.cycle)

/-! ### The X strand -/

namespace Sys2Proof.Claims

/-- A far access of the resident team to bytes may be queued: aligned, the x engine usable, the right held, room in the
queue (R61, R99, R115). -/
def FarReady (s : State) (q a al : Nat) (runs : List (Nat × Nat)) (r : Right) : Prop :=
  a % al = 0 ∧ Usable s 25 ∧ (∀ e ∈ runs, s.farFail e.1 e.2 r = none) ∧ (s.core.queue q).cmds.length < 64

/-- The answer of an X word that queues a command and changes no team. -/
def queues (s : State) (i : Instr) (q : Nat) (op : CmdOp) (tok : Tok) : Prop :=
  ∃ t, exec i s = .next t ∧ Queued s t q op tok ∧ t.teams = s.teams

/-- The X words that queue a command, and `mgo`. -/
def commandWords (l : Bool) (a b c w v : Nat) (g : Guard) (t : Tok) : List Instr :=
  [.xcopy l a b c g t, .xblk l a b c g t, .xpak l a b c g t, .xunp l a b c g t, .xfld l a b w g t, .xfst l a b w g t,
   .xamoAdd l a b c g t, .xamoAnd l a b c g t, .xamoOr l a b c g t, .xamoXor l a b c g t, .xamoMin l a b c g t,
   .xamoMax l a b c g t, .xamoMinu l a b c g t, .xamoMaxu l a b c g t, .xvamoOr l v a b g t, .xvamoAdd l v a b g t,
   .xvamoMin l v a b g t, .xvamoMax l v a b g t, .ownLend l a b c g t, .ownRet l a g t, .ownSplit l a g t,
   .ownJoin l a g t, .ownQuery l a b g t, .ownReclaim l a b g t, .ovl l a b c g t, .replay l g t]

end Sys2Proof.Claims

/-- R99, R115, R132 to R135: scalar far accesses, far atomics and overlays enter their queues with the operands read at
issue. -/
def Obligations.FarAccessesAreQueued : Prop :=
  ∀ (s : State) (l : Bool) (xa xb xc w v : Nat) (g : Guard) (tok : Tok), Runs s (xi l g tok) →
    let a := (s.readS 1 xb).toNat
    (FarReady s 4 a (2 ^ w) [(a, 2 ^ w)] .read → queues s (.xfld l xa xb w g tok) 4 (.fld xa a w) tok)
    ∧ (FarReady s 5 a (2 ^ w) [(a, 2 ^ w)] .write → queues s (.xfst l xa xb w g tok) 5 (.fst a w (s.readS 0 xa)) tok)
    ∧ (FarReady s 5 a 8 [(a, 8)] .atomic →
      ∀ e ∈ [(0, Instr.xamoAdd l xa xb xc g tok), (1, .xamoAnd l xa xb xc g tok), (2, .xamoOr l xa xb xc g tok),
          (3, .xamoXor l xa xb xc g tok), (4, .xamoMin l xa xb xc g tok), (5, .xamoMax l xa xb xc g tok),
          (6, .xamoMinu l xa xb xc g tok), (7, .xamoMaxu l xa xb xc g tok)],
        queues s e.2 5 (.amo e.1 xa a (s.readS 2 xc)) tok)
    ∧ (let d := (s.readS 0 xa).toNat
       let mask := (s.readS 1 xb).toNat
       mask < 2 ^ 16 → Usable s (8 + s.phys v / 128) →
       FarReady s 5 d 32 (((List.range 16).filter fun i => mask.testBit i).map fun i => (d + 32 * i, 32)) .atomic →
       ∀ e ∈ [(0, Instr.xvamoOr l v xa xb g tok), (1, .xvamoAdd l v xa xb g tok), (2, .xvamoMin l v xa xb g tok),
           (3, .xvamoMax l v xa xb g tok)],
         queues s e.2 5 (.vamo e.1 d mask (s.readV 2 (s.phys v))) tok)
    ∧ (let off := (s.readS 0 xa).toNat
       let n := (s.readS 2 xc).toNat
       off % 4 = 0 → n % 4 = 0 → 4 ≤ n → off + n ≤ 0x38000 → FarReady s 4 0 1 [(a, n)] .read →
       queues s (.ovl l xa xb xc g tok) 4 (.ovl off a n) tok)

/-- R119 to R123, R130, R131, R139, R147 to R149: copies and transforms enter their queues with the geometry that their
operands give: a count, a descriptor, a block table, a control operand. -/
def Obligations.CopiesAreQueued : Prop :=
  ∀ (s : State) (l : Bool) (xa xb xc : Nat) (g : Guard) (tok : Tok), Runs s (xi l g tok) →
    let c := (s.readS 2 xc).toNat
    let dst := (s.readS 0 xa).toNat
    let src := (s.readS 1 xb).toNat
    let flat : Geo := { dir := c / 2 ^ 61 % 4, c0 := c % 2 ^ 32, c := [], ss := [], ds := [], src := src, dst := dst, bt := false
                        btDst := false, btAddr := 0, table := [] }
    let desc := c % 2 ^ 21
    let form := descForm (numberAt s desc 64) s.namesBarrier
    let block : Geo := { dir := 0, c0 := c % 2 ^ 22, c := [c / 2 ^ 32 % 2 ^ 16 + 1], ss := [0], ds := [((c % 2 ^ 22 : Nat) : Int)]
                         src := 0, dst := dst, bt := true, btDst := false, btAddr := src, table := [] }
    (c < 2 ^ 63 → c / 2 ^ 60 % 2 = 0 → c / 2 ^ 44 % 2 ^ 16 = 0 → c / 2 ^ 32 % 2 ^ 12 = 0 → flat.dir ≠ 3 →
      s.copyTraps flat true [] = [] →
      queues s (.xcopy l xa xb xc g tok) (if flat.dir = 0 then 4 else 5) (.copy flat) tok)
    ∧ (c = 2 ^ 63 + desc → desc % 64 = 0 → s.core.isOn (desc / 2 ^ 18) = true → form.2.2 = true →
      s.copyTraps form.1 true [desc / 2 ^ 18] = [] → s.portTraps .x [s.portNow .x desc 64] = [] →
      s.watchTraps .x 1 ((List.range 64).map (desc + ·)) = [] →
      queues s (.xcopy l xa xb xc g tok) (if form.1.dir = 0 then 4 else 5) (.copy form.1) tok)
    ∧ (c < 2 ^ 48 → c / 2 ^ 22 % 2 ^ 10 = 0 → c % 2 ^ 22 ≠ 0 → block.total < 2 ^ 32 → src % 8 = 0 →
      s.copyTraps block true [] = [] → queues s (.xblk l xa xb xc g tok) 4 (.copy block) tok)
    ∧ (s.czTraps true dst src c = [] → queues s (.xpak l xa xb xc g tok) 6 (.pak dst src (s.readS 2 xc)) tok)
    ∧ (s.czTraps false src dst c = [] → queues s (.xunp l xa xb xc g tok) 6 (.unp dst src (s.readS 2 xc)) tok)

/-- R93, R98 to R105, R111 to R113: the ownership words enter the ownership queue; a lend marks the token as lent, or
counts the share, and a return gives the token up, at issue. -/
def Obligations.OwnershipWordsAreQueued : Prop :=
  ∀ (s : State) (l : Bool) (xa xb xc : Nat) (g : Guard) (tok : Tok) (tm : Team), Runs s (xi l g tok) → s.team = some tm →
    let rg := s.readS 0 xa
    let rb := s.readS 1 xb
    let mode := s.readS 2 xc
    (s.ownTraps rg.toNat (s.lendReason rg.toNat rb.toNat mode.toNat) = [] → ∃ t tm' to_, exec (.ownLend l xa xb xc g tok) s = .next t
      ∧ Queued s t 8 (.lend rg to_ mode) tok ∧ t.team = some tm'
      ∧ (∀ id, s.core.team = some id → s.recipient (some id) s.myCtx rb.toNat = some to_)
      ∧ ∀ h, tm.exact (roBase rg.toNat) (roSz rg.toNat) = some h → ∃ h', tm'.exact (roBase rg.toNat) (roSz rg.toNat) = some h'
        ∧ (mode = 0 → h' = { h with lent := true })
        ∧ (mode ≠ 0 → h' = { h with shares := h.shares + 1, smode := mode.toNat }))
    ∧ (∀ h, tm.exact (roBase rg.toNat) (roSz rg.toNat) = some h → s.ownTraps rg.toNat (s.retReason rg.toNat) = [] →
      ∃ t tm', exec (.ownRet l xa g tok) s = .next t ∧ Queued s t 8 (.ret rg h) tok ∧ t.team = some tm'
        ∧ (h.mode ≠ 0 → 1 < h.n → tm'.exact (roBase rg.toNat) (roSz rg.toNat) = some { h with n := h.n - 1 })
        ∧ ((h.mode = 0 ∨ h.n ≤ 1) → tm'.exact (roBase rg.toNat) (roSz rg.toNat) = none))
    ∧ (s.ownTraps rg.toNat (s.splitReason rg.toNat) = [] → queues s (.ownSplit l xa g tok) 8 (.split rg) tok)
    ∧ (s.ownTraps rg.toNat (s.joinReason rg.toNat) = [] → queues s (.ownJoin l xa g tok) 8 (.join rg) tok)
    ∧ (roOk rb.toNat = true → s.ownTraps rb.toNat none = [] → queues s (.ownQuery l xa xb g tok) 8 (.query xa rb) tok
      ∧ queues s (.ownReclaim l xa xb g tok) 8 (.reclaim xa rb) tok)

/-- R50, R136, R304, R305: `send` puts 512 bytes on their way to a peer; `recv` stores the bytes that arrive in its
cycle, if they come from the peer and tag it names, and otherwise records the timing cause; a delivery that no `recv` takes is gone
with its cycle; `replay` puts the oldest
recorded command back in its queue and will push. -/
def Obligations.SendReceiveAndReplay : Prop :=
  ∀ (s : State) (l : Bool) (tag xa xb : Nat) (g : Guard) (tok : Tok) (id : TeamId), s.core.team = some id →
    let a := (s.readS 0 xa).toNat
    let peer := (s.readS 1 xb).toNat
    let i := peerWord l g
    let next := (s.advance i).usePorts [s.portNow .x a 512]
    (Runs s i → s.peerTraps a peer 1 = [] → ∃ t d, exec (.send l tag xa xb g) s = .next t
      ∧ t = next.onDev (fun v => { v with deliveries := v.deliveries ++ [d] })
      ∧ d.ltag = id.ltag ∧ d.toTeam = peer % 2 ^ 20 ∧ d.toRank = peer / 2 ^ 20 % 4 ∧ d.fromTeam = id.index
      ∧ d.fromRank = s.core.rank ∧ d.tag = tag ∧ d.at_ = s.cycle + s.core.bound 14
      ∧ d.bytes = (List.range 512).map fun j => s.readLs 2 (a + j))
    ∧ (Runs s i → s.peerTraps a peer 0 = [] →
      (∀ d, s.arrived = [d] → d.fromTeam = peer % 2 ^ 20 → d.fromRank = peer / 2 ^ 20 % 4 → d.tag = tag →
        exec (.recv l tag xa xb g) s =
          .next (next.dropArrived.writeLsAt (s.cycle + s.core.bound 14) (cellsFrom a d.bytes)))
      ∧ (∀ d, s.arrived = [d] → ¬(d.fromTeam = peer % 2 ^ 20 ∧ d.fromRank = peer / 2 ^ 20 % 4 ∧ d.tag = tag) →
        exec (.recv l tag xa xb g) s = .next (next.dropArrived.raiseAfter ⟨10, BitVec.ofNat 64 (2 ^ 60 * 3 + 10)⟩))
      ∧ (s.arrived = [] → exec (.recv l tag xa xb g) s =
          .next (next.dropArrived.raiseAfter ⟨10, BitVec.ofNat 64 (2 ^ 60 * 3 + 9)⟩)))
    ∧ (Runs s (xi l g tok) → Usable s 25 → ((s.launchAt id.ltag).map (·.rev)).getD 0x30 = 0x30 →
      (s.core.oldestRecord = none → ∃ p, p.ch = tok.push ∧
        exec (.replay l g tok) s = .next ((s.advance (xi l g tok)).pushLater 15 p))
      ∧ ∀ q at_ x, s.core.oldestRecord = some (q, at_, x) → q ∈ [4, 5, 6] → (s.core.queue q).cmds.length < queueCap q →
        ∃ t y, exec (.replay l g tok) s = .next t ∧ y.idx = x.idx ∧ y.op = x.op ∧ y.push = x.push ∧ y.stage = .popped
          ∧ (t.core.queue q).cmds = (s.core.queue q).cmds.filter (fun c => decide (c.stage = .begun)) ++ y ::
              (s.core.queue q).cmds.filter (fun c => decide (c.stage ≠ .begun))
          ∧ (t.core.queue q).record = none
          ∧ ∃ e ∈ t.core.gpush, e.1.ch = tok.push ∧ e.2 = (s.cycle, s.cycle + s.core.bound 15))
    ∧ (s.arrived ≠ [] → ∃ t, exec .sendDelivery s = .next t ∧ t.arrived = [] ∧ t.mem = s.mem ∧ t.core.ls = s.core.ls)

/-- R45: a command whose guard is off is not queued: it leaves its slot and will push, by the nop bound, and does
nothing else. -/
def Claims.guardedOffCommandsPush : Prop :=
  ∀ (s : State) (l : Bool) (a b c w v : Nat) (g : Guard) (tok : Tok),
    (GuardedOff s (xi l g tok) → ∀ i ∈ commandWords l a b c w v g tok, ∃ p, p.ch = tok.push ∧ p.qidx = 0xFFFF
      ∧ exec i s = .next ((s.advance (xi l g tok)).onCore fun k =>
          { k with gpush := k.gpush ++ [(p, s.cycle, s.cycle + s.core.bound 15)] }))
    ∧ (GuardedOff s (mgoWord l g tok) → ∃ p, p.ch = tok.push ∧ p.qidx = 0xFFFF
      ∧ exec (.mgo l g tok) s = .next ((s.advance (mgoWord l g tok)).onCore fun k =>
          { k with gpush := k.gpush ++ [(p, s.cycle, s.cycle + s.core.bound 15)] }))

/-- R45: such a push arrives after its issue cycle, in the order of its source. -/
def Claims.guardedOffPushArrives : Prop :=
  ∀ (s : State) (k : Nat) (p : Push) (issue due : Nat), s.core.gpush[k]? = some (p, issue, due) → issue < s.cycle →
    (∀ e ∈ s.core.gpush.take k, e.1.src ≠ p.src) →
    ∃ t, exec (.guardedOffPush k) s = .next t ∧ p ∈ t.core.arrivals ∧ t.core.gpush = s.core.gpush.eraseIdx k

/-- R45: words and commands whose guard is off, and the pushes of such commands. -/
def Obligations.GuardedOffWords : Prop :=
  Claims.guardedOffWordsOnlyLeaveTheirSlot ∧ Claims.guardedOffCommandsPush ∧ Claims.guardedOffPushArrives

/-- R73, R99, R132, R162: a far access that is misaligned, or to bytes that its team may not access, traps at issue:
alignment with the address, unowned-access with the reason and the first byte that failed; no command is queued. -/
def Claims.farAccessTraps : Prop :=
  ∀ (s : State) (l : Bool) (xa xb w : Nat) (g : Guard) (tok : Tok), Runs s (xi l g tok) → w < 4 →
    let a := (s.readS 1 xb).toNat
    let i (r : Right) : Instr := if r = .read then .xfld l xa xb w g tok else .xfst l xa xb w g tok
    ∀ r ∈ [Right.read, .write],
      (a % 2 ^ w ≠ 0 → exec (i r) s = .next (s.takeTrap ⟨3, BitVec.ofNat 64 (2 ^ 60 * 3 + a % 2 ^ 56)⟩))
      ∧ (a % 2 ^ w = 0 → Usable s 25 → ∀ reason x, reason < 4 → s.farFail a (2 ^ w) r = some (reason, x) →
        exec (i r) s = .next (s.takeTrap ⟨7, BitVec.ofNat 64 (2 ^ 60 * 3 + (2 ^ 56 * reason + x % 2 ^ 56))⟩))

/-- R73, R99, R132, R162, R163: misaligned accesses and far accesses that their team may not make. -/
def Obligations.BadAddressesTrap : Prop := Claims.scalarMisalignedTraps ∧ Claims.vectorMisalignedTraps ∧ Claims.farAccessTraps

/-- R38, R115, R118, R273: what the X words leave alone: every scalar, predicate and vector register, the local store,
the scratchpad, far memory, the other strands. A word that stores by the core port, `recv`, only puts bytes in flight. -/
def Claims.xWordFrame : Prop :=
  ∀ (s t : State) (l : Bool) (a b c w v tag : Nat) (g : Guard) (tok : Tok),
    ∀ i ∈ Instr.send l tag a b g :: Instr.recv l tag a b g :: commandWords l a b c w v g tok,
      exec i s = .next t → Trapped s t ∨
        (t.core.s = s.core.s ∧ t.core.p = s.core.p ∧ t.core.v = s.core.v ∧ t.core.ls = s.core.ls ∧ t.core.csr = s.core.csr
          ∧ t.core.code = s.core.code ∧ t.core.pend = s.core.pend ∧ t.core.chan = s.core.chan ∧ t.core.dom = s.core.dom
          ∧ t.core.thr = { s.core.thr with x := t.core.thr.x } ∧ t.mem = s.mem ∧ t.others = s.others ∧ t.cycle = s.cycle)

/-- R38, R115, R118, R178, R185, R188, R230, R250, R273: what the words of the V, M and X strands leave alone. -/
def Obligations.WordFrames : Prop := Claims.vectorWordFrame ∧ Claims.matrixWordFrame ∧ Claims.xWordFrame

/-! ### Encodings and steps -/

/-- R33, R35 to R38, R46 to R49: decoding the bytes of a well-formed word gives the instruction back, with every operand
at every value that its format admits, and leaves the bytes behind it. -/
def Obligations.EncodeDecodeRoundTrip : Prop :=
  ∀ (i : Instr) (st : Strand) (rest : List Byte), i.wf = true → i.strand = some st →
    decode st ((encode i).flatMap Sys2Proof.wordBytes ++ rest) = .ok (i, rest)

/-- R35 to R38, R46 to R51: a word that decodes is the encoding of a well-formed instruction of its strand, bit for bit, so
no reserved field or value is accepted. -/
def Obligations.DecodedWordsReencode : Prop :=
  ∀ (i : Instr) (st : Strand) (bytes rest : List Byte), decode st bytes = .ok (i, rest) →
    i.wf = true ∧ i.strand = some st ∧ (encode i).flatMap Sys2Proof.wordBytes ++ rest = bytes

/-- The worked encodings that follow R38, and one word of each other family written out from R35 to R37 and R46 to R49. -/
def Obligations.DecodeSamples : Prop :=
  decodeWords .s 0x10380001 0 = .ok (.addi false 7 0 1)
  ∧ decodeWords .s 0x82282100 0 = .ok (.add true 5 1 2 ⟨0, false⟩)
  ∧ decodeWords .s 0x30480000 0x2000 = .ok (.lit false 9 ⟨0, false⟩ 0x2000)
  ∧ decodeWords .s 0x46000002 0 = .ok (.waitK false 2)
  ∧ decodeWords .s 0xB8006002 0 = .ok (.loop true 3 2)
  ∧ decodeWords .s 0xBC000000 0 = .ok (.gap true 0)
  ∧ decodeWords .v 0x81030102 0 = .ok (.vadd true 3 1 2)
  ∧ decodeWords .x 0x82494580 0x2FFF0000 = .ok (.xcopy true 9 10 11 ⟨0, false⟩ ⟨2, 15, 15, 15⟩)
  ∧ decodeWords .s 0b01000100000000000000000000000010 0 = .ok (.eret false)
  ∧ decodeWords .s 0b00101010000010000110000000000101 0 = .ok (.stH false 1 3 5)
  ∧ decodeWords .s 0b00110010101100000000000000000011 0 = .ok (.br false 5 true 3)
  ∧ decodeWords .v 0b00101000000001010000110000000111 0 = .ok (.vld false 5 3 7)
  ∧ decodeWords .m 0b00001000110000110000000011000000 0 = .ok (.mstream false 3 3 ⟨1, true⟩)
  ∧ decodeWords .m 0b00010000000000000000000000000000 0x4F1F0000 = .ok (.mgo false ⟨0, false⟩ ⟨4, 15, 1, 15⟩)
  ∧ decodeWords .x 0b00110000000010100000100001000000 0 = .ok (.send false 5 1 2 ⟨0, false⟩)
  ∧ (∀ w1, decodeWords .s 0 w1 = .error .opcode) ∧ decodeWords .s 0x82282106 0 = .ok (.shl true 5 1 2 ⟨0, false⟩)
  ∧ decodeWords .s 0x40080005 0 = .error .csr

/-- R26, R33, R51, R337: a strand whose turn it is runs the instruction that the bytes at its program counter decode to,
with the rest of the bundle after it; bytes that do not decode, or a program counter outside the strand's section, take
the illegal-encoding trap. The bytes are the two scratchpad words at the program counter, where no loop holds captured
words. -/
def Obligations.StepRunsTheDecodedWord : Prop :=
  ∀ (s : State) (st : Strand) (rest : List Strand), s.phase = .issue (st :: rest) →
    let pc := (s.core.thr.get st).pc
    let here := s.ready st rest
    (inSection (s.core.sectionOf st) pc = true →
      (∀ i r t, decode st (s.fetchBytes st) = .ok (i, r) → exec i here = .next t → step s = .next { t with fresh := s.fresh })
      ∧ (∀ e, decode st (s.fetchBytes st) = .error e → ∃ tr : Trap, tr.code = 1
        ∧ step s = .next { here.takeTrap tr with fresh := s.fresh }))
    ∧ (inSection (s.core.sectionOf st) pc = false →
      step s = .next { here.takeTrap ⟨1, BitVec.ofNat 64 (2 ^ 60 * st.num + 2 ^ 56 * 10)⟩ with fresh := s.fresh })
    ∧ ((s.core.thr.get st).loop = none → s.fetchBytes st =
        Sys2Proof.wordBytes (s.core.codeAt pc).toNat ++ Sys2Proof.wordBytes (s.core.codeAt (pc + 4)).toNat)

/-! ### What every step keeps -/

/-- Every step keeps far memory in canonical form: addresses rising, no zero byte listed. -/
def Obligations.FarMemoryStaysCanonical : Prop :=
  ∀ (s t : State), s.farCanonical = true → step s = .next t → t.farCanonical = true

/-- Every step keeps the register tables and local stores of every core, saved ones too, in canonical form. -/
def Obligations.CoreTablesStayCanonical : Prop :=
  ∀ (s t : State), s.coresCanonical = true → step s = .next t → t.coresCanonical = true

/-- R5, R71: no word, event or choice stops the machine. A step moves TICK on by one or leaves it, and moves it only at
the end of a cycle; only a device reset sets it back. -/
def Obligations.TheMachineRunsOn : Prop :=
  ∀ s : State, ∃ t, step s = .next t
    ∧ (t.cycle = s.cycle ∨ (t.cycle = s.cycle + 1 ∧ s.phase = .async ∧ t.phase = .boundary)
        ∨ ∃ v is, s.phase = .async ∧ s.inputs = .deviceReset v :: is)

/-- R334, R391: from reset the device is brought up stage by stage, a host's reset unbinds an AQI, and a debugger halts and releases
teams: each of these steps completes. -/
def Claims.bringUpCompletes : Prop :=
  ∀ (s : State) (ok : Bool) (failing : List Nat) (aqi : Nat) (id : TeamId),
    (∃ t, exec (.deviceReset ok) s = .next t ∧ t.cycle = 0 ∧ t.teams = [])
    ∧ (s.dev.recovery = false →
      (s.dev.stage = 1 → ∃ t, exec (.selvedgeFirmwareStage ok) s = .next t ∧ (t.dev.recovery = false ↔ ok = true))
      ∧ (s.dev.stage = 2 → ∃ t, exec (.loomSelfTest failing) s = .next t ∧ t.dev.stage = 3)
      ∧ (s.dev.stage = 3 → ∃ t, exec (.linkTraining failing) s = .next t ∧ t.dev.stage = 4)
      ∧ (s.dev.stage = 4 → ∃ t, exec .aqi0Enable s = .next t ∧ t.dev.stage = 5))
    ∧ ((s.dev.aqiAt aqi).bound = true → ∃ t, exec (.hostReset aqi) s = .next t ∧ s.hostAgent aqi ∉ t.dev.regions.map (·.owner))
    ∧ ∀ tm, s.teamAt id = some tm →
      (∃ t, exec (.debuggerHalt id) s = .next t ∧ (t.teamAt id).map (·.halted) = some true)
      ∧ ∃ t, exec (.debuggerRelease id) s = .next t ∧ (t.teamAt id).map (·.halted) = some false

/-- R24, R43, R55, R161, R391: after reset 768 cores without a team, every domain OFF, a balance of 64, LOCKMASK 0b1111, the
contract at the device's own latencies, and nothing bound or listed; the canonical forms hold; the steps of bring-up follow. -/
def Obligations.ResetState : Prop :=
  State.reset.farCanonical = true ∧ State.reset.coresCanonical = true
  ∧ State.reset.cores.map (·.place) = List.range 768
  ∧ (∀ c ∈ State.reset.cores, c.team = none ∧ (∀ d, c.domAt d = .off) ∧ c.bal = 64 ∧ (c.csrAt 2).toNat = 0xF
      ∧ (∀ k < 16, c.bound k = ownLatency k) ∧ ∀ k, c.tokens k = 0)
  ∧ State.reset.teams = [] ∧ State.reset.dev.stage = 0 ∧ State.reset.cycle = 0 ∧ (∀ a, State.reset.mem.read a = 0)
  ∧ Claims.bringUpCompletes

/-! ### Steps that no word encodes: cores -/

namespace Sys2Proof.Claims

/-- The S strand has left the slot of the word that held it: it has no loop or repeat, and stands at the next word. -/
def leftSlot (s t : State) : Prop :=
  s.core.thr.s.loop = none → s.core.thr.s.rep ≤ 1 → t.core.thr.s.pc = s.core.thr.s.pc + 4

/-- What an end of a hold leaves alone. -/
def sameRegisters (s t : State) : Prop :=
  t.core.s = s.core.s ∧ t.core.p = s.core.p ∧ t.core.v = s.core.v ∧ t.core.ls = s.core.ls ∧ t.core.csr = s.core.csr
    ∧ t.core.pend = s.core.pend ∧ t.mem = s.mem ∧ t.others = s.others ∧ t.teams = s.teams ∧ t.cycle = s.cycle

/-- R41, R297, R301, R302, R312, R313: the ends of holds, the timeout of an aligned region, and a barrier's episode, which for a
domain barrier this device first announces (R389; which devices it tells is log 52). -/
def holdsEnd : Prop :=
  ∀ (s : State),
    (∀ k, s.core.hold = .waitK k → 0 < s.core.tokens k → smapWf 0 s.core.chan = true →
      ∃ t, exec .waitKTokenTake s = .next t ∧ t.core.hold = .none ∧ t.core.tokens k = s.core.tokens k - 1
        ∧ (∀ j, j ≠ k → t.core.tokens j = s.core.tokens j) ∧ leftSlot s t ∧ sameRegisters s t)
    ∧ (∀ n, s.core.hold = .realign n → s.cycle % 2 ^ n = 0 →
      ∃ t, exec .alignedRegionBegin s = .next t ∧ t.core.hold = .none ∧ t.core.region = some s.cycle ∧ leftSlot s t
        ∧ sameRegisters s t)
    ∧ (∀ t0, s.core.region = some t0 → t0 + 65536 ≤ s.cycle →
      exec .alignedRegionTimeout s = .next (s.takeTrap ⟨10, BitVec.ofNat 64 13⟩))
    ∧ (∀ h b, s.core.hold = .barWait h → s.myBarrier (BitVec.ofNat 64 h) = some b →
      s.released b (s.core.arrivalOf h) = true →
      ∃ t, exec .sluiceResume s = .next t ∧ t.core.hold = .none ∧ leftSlot s t ∧ sameRegisters s t)
    ∧ (∀ ltag handle b la, s.barrierAt ltag handle = some b → s.launchAt ltag = some la → smapWf 0 b.windowEnd = true →
      (∀ u, u ≤ b.countM1 → (b.first + u) ∈ b.gone ∨ ∀ r, r < 2 ^ la.gw → b.done + 1 ≤ b.arrivals (b.first + u) r) →
      b.pending = 0 →
      (b.xdev ≠ 0 → b.told ≤ b.done → ∃ t b', exec (.barrierEpisodeComplete ltag handle) s = .next t ∧ t.core = s.core
        ∧ t.mem = s.mem ∧ t.teams = s.teams ∧ t.barrierAt ltag handle = some b' ∧ b' = { b with told := b.done + 1 }
        ∧ (s.laneOpen 3 = true → (∀ e ∈ s.dev.weftHeld, e.2.vl ≠ 3) → ∃ fs, t.dev.weftOut = s.dev.weftOut ++ fs
          ∧ fs.length = b.xdev ∧ ∀ f ∈ fs, f.type = 7 ∧ f.vl = 3 ∧ f.payload = toBytes 8 (b.did + 2 ^ 48 * la.ctx)))
      ∧ ((b.xdev = 0 ∨ b.done < b.told) → b.xdev * (b.done + 1) ≤ b.ext →
      ∃ t, exec (.barrierEpisodeComplete ltag handle) s = .next t ∧ t.core = s.core ∧ t.mem = s.mem ∧ t.teams = s.teams
        ∧ ∃ b', t.barrierAt ltag handle = some b' ∧ b' = { b with done := b.done + 1, releases := b'.releases, windowEnd := b'.windowEnd }
        ∧ ∀ die, die < 24 → ∃ t0, (b.done + 1, die, t0) ∈ b'.releases
          ∧ max s.cycle (b.windowOn die) ≤ t0 ∧ t0 ≤ max (s.cycle + look 1900 s.dev.mhz die) (b.windowOn die)
          ∧ ((s.barrierDies b).length ≤ 1 → t0 = max s.cycle (b.windowOn die))
          ∧ b'.windowOn die = t0 + b.phases * b.interval))
    ∧ (s.entryOpen = true → (∃ st, s.atEntry st = true) →
      exec .lockEntryRelease s = .next { s with phase := .issue s.bundle } ∧ ∀ st, s.atEntry st = true → st ∈ s.bundle)

/-- R45, R300, R305, R334, R340: pushes that arrive, imprecise traps, the watchdog, a delivery that no `recv` takes. -/
def boundarySteps : Prop :=
  ∀ (s : State),
    (∀ k p issue due, s.core.gpush[k]? = some (p, issue, due) → issue < s.cycle →
      (∀ e ∈ s.core.gpush.take k, e.1.src ≠ p.src) →
      exec (.guardedOffPush k) s = .next { s with core := { s.core with
        gpush := s.core.gpush.eraseIdx k, arrivals := s.core.arrivals ++ [p] } })
    ∧ (∀ k p, s.core.pmarks[k]? = some p → p.issue < s.cycle →
      (∀ i, i < 5 → p.mask.testBit i = true → ∀ c ∈ s.core.undone ([4, 5, 6, 7, 8].getD i 0), p.issue < c.issue) →
      (∀ r ∈ s.dev.weftWait, s.core.sentWrite r = true → p.issue < r.sent) →
      ∃ q, q.ch = p.ch ∧ q.src = 11 ∧ exec (.phaseEnd k) s = .next { s with core := { s.core with
        pmarks := s.core.pmarks.eraseIdx k, arrivals := s.core.arrivals ++ [q] } })
    ∧ (∀ tr rest, s.core.impr = tr :: rest → s.core.handler = none → s.core.team.isSome = true → s.core.isDone = false →
      s.core.stopped = false →
      exec .impreciseTrapTaken s = .next (({ s with core := { s.core with impr := rest } } : State).takeTrap tr))
    ∧ (∀ tm, s.team = some tm → tm.wdog = 0 → tm.status = .resident → tm.fatal = none → s.core.canonical = true →
      ∃ t f tm', exec .watchdogExpiry s = .next t ∧ t.core.stopped = true ∧ t.team = some tm' ∧ tm'.fatal = some f
        ∧ f.code = 24 ∧ f.rank = s.core.rank ∧ f.tick = s.cycle ∧ (t.core.csrAt 8).toNat % 2 ^ 8 = 24
        ∧ (t.core.csrAt 9).toNat = 2 ^ 60 * 13 ∧ t.mem = s.mem ∧ t.core.s = s.core.s)
    ∧ (∀ d ds, s.arrived = d :: ds →
      (s.core.handler = none → s.core.isDone = false → s.core.stopped = false →
        exec .sendDelivery s = .next (s.dropArrived.raiseAfter ⟨10, BitVec.ofNat 64 (2 ^ 60 * 3 + 10)⟩))
      ∧ ((s.core.handler ≠ none ∨ s.core.isDone = true ∨ s.core.stopped = true) →
        exec .sendDelivery s = .next s.dropArrived))

end Sys2Proof.Claims

/-- R372, R375: Govel code in a cycle in which it goes on and nothing is in flight: a block's register operations commit together, or
a trap leaves the registers as they were at block entry; the block's last operation, if it is `jmp`, names the next block, and the
block that follows is next where no branch ends it. Which cycles it uses is free (log 63). -/
def govelSteps : Prop :=
  ∀ (s : State) (g : Govel) (next : Nat) (rs : List Nat), s.core.govel = some g → s.govelBlock g = some (next, rs) →
    s.core.pend = [] → s.core.lsPend = [] → s.core.counts = [] → s.core.rows = [] → s.core.gev = none → s.core.gevEnds = [] →
    let t := s.govelGo g next rs
    let last := rs.getD (rs.length - 1) 0
    let kept : Prop := t.core.s = s.core.s ∧ t.core.p = s.core.p ∧ t.core.v = s.core.v ∧ t.core.ls = s.core.ls ∧ t.mem = s.mem
    (s.govelStep = s ∨ s.govelStep = t)
    ∧ (g.past = false → (∃ tr, t = (s.anyPcs.markPoint s.anyPcs).takeTrap tr)
      ∨ (t.core.ls = s.core.ls ∧ t.core.chan = s.core.chan ∧ t.mem = s.mem
        ∧ ∃ fed, t.core.govel = some { g with past := true, at_ := 0, wait := false, fed := fed }))
    ∧ (g.past = true → nextEffect rs g.at_ = none →
      (branches last = false → t.core.govel = some ⟨next, false, 0, false, []⟩ ∧ kept)
      ∧ (gStr last = 0 → gOp last = 0x1A → t.core.govel = some ⟨gImm last, false, 0, false, []⟩ ∧ kept))

/-- R41, R45, R297, R300 to R302, R305, R312, R313, R334, R340, R372, R375: the steps of a core between words: holds end, lock entry
opens, pushes and markers arrive, pending traps are taken, a barrier's episode completes, Govel code goes on. -/
def Obligations.CoreStepsBetweenWords : Prop := holdsEnd ∧ boundarySteps ∧ govelSteps

namespace Sys2Proof.Claims

/-- Every LS byte and vector register of a domain is zero, as a word would read them with nothing in flight. -/
def domainZero (s : State) (d : Nat) : Prop :=
  (∀ a, a / 2 ^ 18 = d → d < 8 → look 0 s.core.ls a = 0)
    ∧ (∀ r, 8 + r / 128 = d → d < 18 → look 0 s.core.v r = 0)
    ∧ (d = 24 → s.core.rvf = [] ∧ s.core.gstat = [])

/-- The grammar engine has no configuration (R246). -/
def noGrammar (s : State) (d : Nat) : Prop := d = 24 → s.core.gcfg = 0 ∧ s.core.gvalid = false

/-- The LS bytes and vector registers outside a domain are as they were. -/
def otherDomains (s t : State) (d : Nat) : Prop :=
  (∀ a, (a / 2 ^ 18 ≠ d ∨ 8 ≤ d) → look 0 t.core.ls a = look 0 s.core.ls a)
    ∧ (∀ r, (8 + r / 128 ≠ d ∨ 18 ≤ d) → look 0 t.core.v r = look 0 s.core.v r)

/-- R56, R58, R60, R62, R63: a domain's wake ends, an OFF domain is gated, the balance refills. -/
def powerSteps : Prop :=
  ∀ (s : State) (d : Nat), s.core.canonical = true → smapWf Dom.off s.core.dom = true →
    (∀ on ret fails, s.core.domAt d = .waking on ret → on ≤ s.cycle →
      ∃ t, exec (.domainWakeComplete d fails) s = .next t ∧ t.core.domAt d = .on
        ∧ (∀ e, e ≠ d → t.core.domAt e = s.core.domAt e) ∧ otherDomains s t d ∧ t.core.s = s.core.s ∧ t.mem = s.mem
        ∧ (ret = false → domainZero t d ∧ noGrammar t d ∧ t.core.lost = s.core.lost)
        ∧ (ret = true → fails = false → t.core.ls = s.core.ls ∧ t.core.v = s.core.v ∧ t.core.lost = s.core.lost)
        ∧ (ret = true → fails = true → domainZero t d ∧ noGrammar t d ∧ d ∈ t.core.lost))
    ∧ (s.core.domAt d = .off → s.core.pend = [] → s.core.lsPend = [] → s.core.rows = [] → s.core.gev = none →
      s.core.gevEnds = [] → (∀ q ∈ [4, 5, 6, 7, 8], (s.core.queue q).cmds = []) →
      ∃ t, exec (.domainGating d) s = .next t ∧ domainZero t d ∧ otherDomains s t d ∧ t.core.dom = s.core.dom
        ∧ t.core.gcfg = s.core.gcfg ∧ t.core.gvalid = s.core.gvalid
        ∧ t.core.s = s.core.s ∧ t.mem = s.mem)
    ∧ ∃ t, exec .inrushRefill s = .next t ∧ t = { s with core := { s.core with bal := t.core.bal, refill := t.core.refill } }
        ∧ (64 ≤ s.core.bal → t.core.bal = s.core.bal ∧ t.core.refill = 0)
        ∧ (s.core.bal < 64 → s.core.refill = 7 → t.core.bal = s.core.bal + 1 ∧ t.core.refill = 0)
        ∧ (s.core.bal < 64 → s.core.refill ≠ 7 → t.core.bal = s.core.bal ∧ t.core.refill = s.core.refill + 1)

/-- A sub-bank's bytes (R76). -/
def inBank (die pan bank a : Nat) : Prop := subbankBase die pan bank ≤ a ∧ a < subbankBase die pan bank + 0x600000

/-- Nothing but a pan's own domains changes. -/
def panOnly (s t : State) (p : Nat) (n : Pan) : Prop := t = s.onPan p fun _ => n

/-- R56, R67, R68, R76, R87 to R89: the crystallizer goes OFF, vault sub-banks wake and sleep, the scrub zeroes a granule. -/
def panSteps : Prop :=
  ∀ (s : State) (die pan bank : Nat) (x : Bool), die < 24 → pan < 8 → bank < 8 → s.farCanonical = true →
    let p := 8 * die + pan
    let n := s.dev.panAt p
    (n.cz = .on → n.idle + 4096 ≤ s.cycle → n.node = none → (∀ c ∈ s.cores, c.place / 4 = p → c.tfq.cmds = []) →
      ∃ t, exec (.czIdleOff die pan) s = .next t ∧ panOnly s t p { n with cz := .off })
    ∧ (∀ ret : Bool, look .off n.vt bank = (if ret then .ret else .off) →
      ∃ t, exec (.vaultSubbankWake die pan bank x) s = .next t
        ∧ panOnly s t p { n with vt := put .off n.vt bank (.waking (s.cycle + 200) ret) })
    ∧ (∀ at_ ret, look .off n.vt bank = .waking at_ ret → at_ ≤ s.cycle →
      ∃ t, exec (.vaultSubbankWake die pan bank x) s = .next t
        ∧ t.dev.pans = (s.onPan p fun n => { n with vt := put .off n.vt bank .on }).dev.pans
        ∧ (¬(ret = true ∧ x = true) → t.mem = s.mem)
        ∧ (ret = true → x = true → ∀ a, (inBank die pan bank a → t.mem.read a = 0)
          ∧ (¬inBank die pan bank a → t.mem.read a = s.mem.read a)))
    ∧ (look .off n.vt bank = .on → (∀ r ∈ s.dev.regions, r.lentOut = false) →
      ∃ t, exec (.vaultSubbankSleep die pan bank x) s = .next t
        ∧ t.dev.pans = (s.onPan p fun n => { n with vt := put .off n.vt bank (if x then .ret else .off) }).dev.pans
        ∧ (x = true → t.mem = s.mem)
        ∧ (x = false → ∀ a, (inBank die pan bank a → t.mem.read a = 0)
          ∧ (¬inBank die pan bank a → t.mem.read a = s.mem.read a)))
    ∧ (∀ g, (∃ k, targetOf (32 * g) = .dram k) ∨ (∃ i j k, targetOf (32 * g) = .vault i j k) →
      ∃ t, exec (.backgroundScrub g) s = .next t ∧ t.core.s = s.core.s ∧ t.cycle = s.cycle
        ∧ ∀ a, (a / 32 = g → t.mem.read a = 0) ∧ (a / 32 ≠ g → t.mem.read a = s.mem.read a))

end Sys2Proof.Claims

/-- R56, R58, R60, R62, R63, R67, R68, R76, R87 to R89: the power domains' own steps, of a core and of a pan: wakes end,
OFF contents are gone, retained ones come back or are lost, the balance refills, the scrub zeroes what it finds. -/
def Obligations.PowerDomainSteps : Prop := powerSteps ∧ panSteps

namespace Sys2Proof.Claims

/-- A command alone in its queue, which does not halt, with nothing else under way at the device. -/
def Alone (s : State) (q : Nat) (x : Cmd) : Prop :=
  (s.core.queue q).cmds = [x] ∧ (s.core.queue q).halted = false ∧ s.dev.weftWait = []

/-- The queue's one command afterwards, all other queues as they were. -/
def becomes (s t : State) (q : Nat) (xs : List Cmd) : Prop :=
  (t.core.queue q).cmds = xs ∧ ∀ p ∈ [4, 5, 6, 7, 8], p ≠ q → (t.core.queue p).cmds = (s.core.queue p).cmds

/-- R38, R116, R125, R126: a command alone in its queue takes its pops, begins with its pages pinned, or fails. -/
def commandsBegin : Prop :=
  ∀ (s : State) (q : Nat) (x : Cmd), q = 4 ∨ q = 5 → Alone s q x →
    (x.stage = .waiting → x.pops = [] → s.core.qmarks = [] →
      ∃ t, exec (.queueCommandBegin q) s = .next t ∧ becomes s t q [{ x with stage := .popped }] ∧ t.core.chan = s.core.chan)
    ∧ (∀ k, x.stage = .waiting → x.pops = [k] → 0 < s.core.tokens k → s.core.qmarks = [] → smapWf 0 s.core.chan = true →
      (∀ p ∈ [4, 5, 6, 7, 8], p ≠ q → (s.core.queue p).cmds = []) →
      ∃ t, exec (.queueCommandBegin q) s = .next t ∧ becomes s t q [{ x with stage := .popped }]
        ∧ t.core.tokens k = s.core.tokens k - 1 ∧ ∀ j, j ≠ k → t.core.tokens j = s.core.tokens j)
    ∧ (x.stage = .popped → x.fail = false → x.pins = [] → (∀ g, x.op ≠ .copy g) → (∀ a bs, x.op ≠ .arg a bs) →
      (∀ pins, s.pinAll s.myPasid x.op.pageVisits [] = .ok pins →
        ∃ t, exec (.queueCommandBegin q) s = .next t ∧ t.mem = s.mem
          ∧ becomes s t q [{ x with
              stage := .begun, pins := pins, todo := x.op.work, got := [], began := s.cycle }])
      ∧ (∀ k, x.bar = none → s.pinAll s.myPasid x.op.pageVisits [] = .error k →
        ∃ t, exec (.queueCommandBegin q) s = .next t ∧ t.mem = s.mem ∧ becomes s t q [] ∧ (t.core.queue q).halted = true
          ∧ (t.core.queue q).record = some (s.cycle, x)
          ∧ t.core.impr = s.core.impr ++ ⟨16, BitVec.ofNat 64 (2 ^ 60 * q + (2 ^ 16 * x.idx + k) % 2 ^ 60)⟩ :: x.watchTraps q))

/-- The bytes of far memory at a DPA, with their indices. -/
def farBytes (s : State) (d n : Nat) : List (Nat × Byte) := (List.range n).map fun i => (i, s.mem.read (d + i))

/-- The bytes of a unit lie in DRAM of this device under the command's pins, at consecutive DPAs. -/
def inDram (x : Cmd) (a n : Nat) : Prop :=
  ∀ i, i < n → pinnedDpa x.pins (a + i) = pinnedDpa x.pins a + i ∧ ∃ k, targetOf (pinnedDpa x.pins a + i) = .dram k

/-- R72, R87, R132 to R134, R259, R263: a scalar access and an atomic at home, for a core that has seen every action there: what is
read, what is written. -/
def accessesAtHome : Prop :=
  ∀ (s : State) (x : Cmd) (xa a w op : Nat) (v : Word), x.stage = .begun → x.todo = [0] → s.core.wp = [] →
    s.dev.vague = [] → (∀ b, s.earlier b = []) → s.farCanonical = true →
    let d := pinnedDpa x.pins a
    (w < 4 → a % 2 ^ w = 0 → Alone s 4 x → x.op = .fld xa a w → inDram x a (2 ^ w) →
      (∃ t, exec (.farAccessAtHome 4 0 false) s = .next t ∧ t.mem = s.mem
        ∧ becomes s t 4 [{ x with todo := [], got := farBytes s d (2 ^ w) }])
      ∧ (∃ t, exec (.farAccessAtHome 4 0 true) s = .next t
        ∧ becomes s t 4 [{ x with todo := [], got := (List.range (2 ^ w)).map fun i => (i, 0) }]
        ∧ ∀ b, (b / 32 = d / 32 → t.mem.read b = 0) ∧ (b / 32 ≠ d / 32 → t.mem.read b = s.mem.read b)))
    ∧ (w < 4 → a % 2 ^ w = 0 → Alone s 5 x → x.op = .fst a w v → inDram x a (2 ^ w) →
      ∃ t, exec (.farAccessAtHome 5 0 false) s = .next t ∧ becomes s t 5 [{ x with todo := [], got := [] }]
        ∧ (∀ i, i < 2 ^ w → t.mem.read (d + i) = BitVec.ofNat 8 (v.toNat / 256 ^ i))
        ∧ ∀ b, (∀ i, i < 2 ^ w → b ≠ d + i) → t.mem.read b = s.mem.read b)
    ∧ (op < 8 → a % 8 = 0 → Alone s 5 x → x.op = .amo op xa a v → xa ≠ 0 → inDram x a 8 →
      let old := leNat (s.mem.readAll d 8)
      ∃ t, exec (.farAccessAtHome 5 0 false) s = .next t ∧ becomes s t 5 [{ x with todo := [], got := farBytes s d 8 }]
        ∧ (∀ i, i < 8 → t.mem.read (d + i) = BitVec.ofNat 8 (amoNew op old v.toNat / 256 ^ i))
        ∧ ∀ b, (∀ i, i < 8 → b ≠ d + i) → t.mem.read b = s.mem.read b)
    ∧ ∀ o c : Word, amoNew 0 o.toNat c.toNat = (o + c).toNat ∧ amoNew 1 o.toNat c.toNat = (o &&& c).toNat
      ∧ amoNew 2 o.toNat c.toNat = (o ||| c).toNat ∧ amoNew 3 o.toNat c.toNat = (o ^^^ c).toNat
      ∧ amoNew 4 o.toNat c.toNat = (if o.toInt ≤ c.toInt then o else c).toNat
      ∧ amoNew 5 o.toNat c.toNat = (if o.toInt ≤ c.toInt then c else o).toNat
      ∧ amoNew 6 o.toNat c.toNat = min o.toNat c.toNat ∧ amoNew 7 o.toNat c.toNat = max o.toNat c.toNat

/-- R127, R132, R133: the oldest command, its accesses made, completes: its result is in its register, its push has
arrived. -/
def commandsComplete : Prop :=
  ∀ (s : State) (q : Nat) (x : Cmd) (xa a w op : Nat) (v : Word), q = 4 ∨ q = 5 → Alone s q x → x.stage = .begun →
    x.todo = [] → x.bar = none → x.watch = none → x.late = none → s.core.canonical = true →
    (x.op = .fld xa a w ∨ x.op = .amo op xa a v) → xa ≠ 0 →
    ∃ t, exec (.commandCompletion q) s = .next t ∧ becomes s t q []
      ∧ look 0 t.core.s xa = BitVec.ofNat 64 (leNat (x.got.map (·.2))) ∧ (∀ n, n ≠ xa → look 0 t.core.s n = look 0 s.core.s n)
      ∧ (∃ p, p.ch = x.push ∧ p.src = q ∧ p.qidx = x.idx ∧ t.core.arrivals = s.core.arrivals ++ [p])
      ∧ t.core.v = s.core.v ∧ t.core.ls = s.core.ls ∧ t.mem = s.mem

end Sys2Proof.Claims

/-- R38, R72, R87, R116, R125 to R127, R132 to R134, R259: a far access from its pops to its push: it takes its tokens,
pins its pages or fails, is performed at its home, and completes. -/
def Obligations.CommandsRunInTheirQueues : Prop := commandsBegin ∧ accessesAtHome ∧ commandsComplete

namespace Sys2Proof.Claims

/-- A command completes: it leaves its queue and its push arrives. -/
def completes (s t : State) (q : Nat) (x : Cmd) : Prop :=
  becomes s t q [] ∧ ∃ p ∈ t.core.arrivals, p.ch = x.push ∧ p.src = q ∧ p.qidx = x.idx

/-- R38, R97, R102 to R105, R111 to R113: the ownership queue. -/
def ownershipQueue : Prop :=
  ∀ (s : State) (x : Cmd) (rg : Word) (tm : Team), Alone s 8 x → s.team = some tm → x.bar = none → x.watch = none →
    x.late = none → s.core.canonical = true →
    let base := roBase rg.toNat
    let sz := roSz rg.toNat
    (x.stage = .waiting → x.pops = [] →
      ∃ t, exec .ownershipQueueExecute s = .next t ∧ becomes s t 8 [{ x with stage := .popped }] ∧ t.dev = s.dev
        ∧ t.teams = s.teams)
    ∧ (∀ r, x.stage = .popped → x.op = .split rg → roOk rg.toNat = true → s.regionExact tm.ctx base sz = some r →
      r.home ∉ s.dev.lostDies → s.homeCount r.home < 131072 →
      ∃ t, exec .ownershipQueueExecute s = .next t ∧ completes s t 8 x
        ∧ { r with sz := sz - 1 } ∈ t.dev.regions ∧ { r with base := base + 2 ^ (sz - 1), sz := sz - 1 } ∈ t.dev.regions
        ∧ t.regionExact tm.ctx base sz = none ∧ t.mem = s.mem)
    ∧ (∀ r k, x.stage = .popped → x.op = .join rg → roOk rg.toNat = true → s.regionExact tm.ctx base (sz - 1) = some r →
      s.regionExact tm.ctx (base + 2 ^ (sz - 1)) (sz - 1) = some k → r.home ∉ s.dev.lostDies →
      ∃ t, exec .ownershipQueueExecute s = .next t ∧ completes s t 8 x ∧ { r with sz := sz } ∈ t.dev.regions
        ∧ t.regionExact tm.ctx (base + 2 ^ (sz - 1)) (sz - 1) = none ∧ t.mem = s.mem)
    ∧ (∀ xa, x.stage = .popped → x.op = .query xa rg → xa ≠ 0 → s.homeLost s.myCtx base = false →
      ∃ t n, exec .ownershipQueueExecute s = .next t ∧ completes s t 8 x ∧ look 0 t.core.s xa = BitVec.ofNat 64 n
        ∧ (s.regionExact tm.ctx base sz = none → n = 0)
        ∧ (∀ r, s.regionExact tm.ctx base sz = some r →
          let held : Nat := match tm.exact base sz with
            | none => 0
            | some h => h.mode + 1
          let lent := (tm.exact base sz).any fun h => h.mode == 0 && h.lent
          n = 2 ^ 48 * r.shares + 2 ^ 6 * held + 2 ^ 5 * lent.toNat + 2 ^ 4 * r.orphan.toNat + 2 ^ 2 * r.smode + 2)
        ∧ t.dev.regions = s.dev.regions ∧ t.mem = s.mem)
    ∧ (∀ xa, x.stage = .popped → x.op = .reclaim xa rg → xa ≠ 0 → s.regionExact tm.ctx base sz = none →
      ∃ t, exec .ownershipQueueExecute s = .next t ∧ completes s t 8 x ∧ look 0 t.core.s xa = 3
        ∧ t.dev.regions = s.dev.regions ∧ t.mem = s.mem)

/-- R38, R125, R137, R138, R146 to R149: the crystallizer takes a core's transform, and an unpack completes. -/
def transformQueue : Prop :=
  ∀ (s : State) (x : Cmd) (slot ls : Nat) (ctl : Word), Alone s 6 x → x.op = .unp ls slot ctl → x.bar = none →
    x.late = none → s.core.canonical = true →
    let p := s.core.place / 4
    (x.stage = .waiting → x.pops = [] → s.core.qmarks = [] →
      ∃ t, exec .crystallizerDispatch s = .next t ∧ becomes s t 6 [{ x with stage := .popped }] ∧ t.mem = s.mem)
    ∧ (x.stage = .popped → s.czBusy p = false → (s.dev.panAt p).cz = .off →
      exec .crystallizerDispatch s = .next (s.onPan p fun n => { n with cz := .waking (s.cycle + 32) false, last := 3 }))
    ∧ (∀ pins, x.stage = .popped → x.fail = false → x.pins = [] → s.czBusy p = false →
      (s.dev.panAt p).czOn s.cycle = true → s.czNext p = some (s.core.place % 4) →
      (({ s with dev := (s.onPan p fun n => { n with cz := .on, last := s.core.place % 4, idle := s.cycle }).dev } : State).pinAll
        s.myPasid x.op.pageVisits [] = .ok pins) →
      ∃ t, exec .crystallizerDispatch s = .next t ∧ t.mem = s.mem
        ∧ becomes s t 6 [{ x with
            stage := .begun, pins := pins, todo := List.range (czS ctl.toNat / 32), got := [], began := s.cycle }])
    ∧ (x.stage = .begun → x.todo = [] → x.watch = none → s.core.wp = [] → s.core.ghosts = [] →
      x.began + (16 + (czS ctl.toNat + 63) / 64 + (czN ctl.toNat * czE ctl.toNat + 63) / 64) ≤ s.cycle →
      (∀ c ∈ s.cores, ∀ w ∈ c.opens, w.lingers = false) →
      let image := (List.range (czS ctl.toNat)).map fun i => (x.have? i).getD 0
      let out := unpackSlot (bits ctl.toNat 63 62) (czE ctl.toNat) (czN ctl.toNat) image
      ∃ t, exec (.commandCompletion 6) s = .next t ∧ completes s t 6 x ∧ t.mem = s.mem ∧ t.core.v = s.core.v
        ∧ (out.2 = [] → (∀ i, i < out.1.length → look 0 t.core.ls (ls + i) = out.1.getD i 0)
          ∧ (∀ b, (∀ i, i < out.1.length → b ≠ ls + i) → look 0 t.core.ls b = look 0 s.core.ls b)))

end Sys2Proof.Claims

/-- R38, R97, R102 to R105, R111 to R113, R125, R137, R138, R146 to R149: ownership commands perform and complete, and the
crystallizer takes transforms and completes them. -/
def Obligations.OwnershipAndTransformsRun : Prop := ownershipQueue ∧ transformQueue

/-! ### Steps that no word encodes: teams, the loom, task graphs -/

namespace Sys2Proof.Claims

/-- An AQI that nothing is bound to (R379). -/
def unboundAqi : Aqi := ⟨false, 0, 0, 0, 0, 0, 0, 0, 0, [], [], [], 0, 0, false, false, false, 0⟩

/-- The AQI has room for an event that it now raises (R383). -/
abbrev roomFor (q : Aqi) : Prop := q.waiting.length < 256 ∧ q.held = []

/-- A team with a status, off its cores, with its tokens gone; far memory is as it was. -/
def endedAs (s t : State) (id : TeamId) (status : TeamStatus) : Prop :=
  (∃ tm, t.teamAt id = some tm ∧ tm.status = status ∧ tm.holdings = []) ∧ (∀ c ∈ t.cores, c.team ≠ some id)
    ∧ (∀ b ∈ t.dev.barriers, b.ltag = id.ltag → id.index ∈ b.gone) ∧ t.mem = s.mem ∧ t.cycle = s.cycle

/-- R106, R182, R293, R309, R349, R350: a team retires when its cores are done and quiet; one with a fatal trap ends, its
dump counted as not registered where no region is. -/
def teamsEnd : Prop :=
  ∀ (s : State) (id : TeamId) (tm : Team), s.teamAt id = some tm → tm.status = .resident →
    (tm.fatal = none → (s.coresOf id).length = 2 ^ tm.gw → (∀ c ∈ s.coresOf id, c.isDone = true ∧ c.quiet = true) →
      ∃ t, exec (.teamRetire id) s = .next t ∧ endedAs s t id .retired)
    ∧ (∀ f, tm.fatal = some f →
      (∀ c ∈ s.coresOf id, (c.stopped = true ∨ c.isDone = true) ∧ c.pend = [] ∧ c.lsPend = [] ∧ c.rows = [] ∧ c.counts = []) →
      look 0 s.dev.dumpRegs tm.ctx = 0 →
      ∃ t, exec (.dumpWrite id) s = .next t ∧ endedAs s t id .ended
        ∧ ∀ la, s.launchAt id.ltag = some la → la.dump = none →
          ∃ la', t.launchAt id.ltag = some la' ∧ la'.dump = some (s.cycle, id.index, 1))

/-- The architectural state that a pre-emption saves and restores (R355, R357). -/
def sameSaved (a b : Core) : Prop :=
  a.s = b.s ∧ a.p = b.p ∧ a.v = b.v ∧ a.ls = b.ls ∧ a.csr = b.csr ∧ a.code = b.code ∧ a.chan = b.chan ∧ a.q = b.q ∧ a.nest = b.nest
    ∧ a.gang = b.gang ∧ a.lost = b.lost ∧ a.qmarks = b.qmarks ∧ a.pmarks = b.pmarks ∧ a.wp = b.wp ∧ a.impr = b.impr
    ∧ a.isDone = b.isDone ∧ a.handler = b.handler ∧ a.restart = b.restart ∧ a.thr.s.pc = b.thr.s.pc ∧ a.thr.v.pc = b.thr.v.pc
    ∧ a.thr.m.pc = b.thr.m.pc ∧ a.thr.x.pc = b.thr.x.pc ∧ a.ldq = b.ldq ∧ a.stq = b.stq ∧ a.tfq = b.tfq ∧ a.mxq = b.mxq
    ∧ a.owq = b.owq

/-- R293, R302, R315, R332, R333, R354, R355, R357: the cohort that must give way is marked and then begins to stop, each core at its
next boundary at which it has not issued `done`, is in no aligned region and has no trap to take; a drained team of one core, none of its commands begun, is saved; a pre-empted team of one
core resumes, and a `bar.wait` whose phase opened meanwhile holds no more. -/
def preemptions : Prop :=
  ∀ (s : State) (ltag cohort : Nat) (l : Launch), s.launchAt ltag = some l →
    (s.cohortTeams ltag cohort .resident ≠ [] → (∀ tm ∈ s.cohortTeams ltag cohort .resident, s.yields tm = true) →
      cohort < l.cohorts.length →
      (∃ w ∈ s.wants, s.callsFor w = true ∧
        (∃ v ∈ s.victims (s.diesOf w.launch) w.launch.prio, v.1.ltag = ltag ∧ v.2.1 = cohort
          ∧ ∀ u ∈ s.victims (s.diesOf w.launch) w.launch.prio, victimBefore u v = false)) →
      ∃ t, exec (.preemption ltag cohort) s = .next t ∧ t = { s with teams := t.teams }
        ∧ ∀ tm ∈ s.cohortTeams ltag cohort .resident, ∀ x, t.teamAt tm.id = some x → x.wanted = true)
    ∧ (∀ tm ∈ s.cohortTeams ltag cohort .resident, tm.wanted = true → s.yields tm = true →
        ∀ x, (s.preemptCohort ltag cohort).teamAt tm.id = some x → x.status = .draining ∧ x.since = s.cycle ∧ x.wanted = false)
    ∧ (s.core.isDone = true ∨ s.core.region ≠ none ∨ s.bundleTrap ≠ none → s.lastBoundary = s.issueOrTrap)
    ∧ (s.core.isDone = false → s.core.region = none → s.bundleTrap = none → s.core.tookAt ≠ s.cycle →
      s.core.impr = [] ∨ s.core.handler ≠ none →
      s.lastBoundary.core.stopped = true ∧ s.lastBoundary.core.stopAt = s.cycle ∧ s.lastBoundary.core.thr = s.core.thr
        ∧ s.lastBoundary.mem = s.mem)
    ∧ (∀ tm, s.teamAt ⟨ltag, cohort⟩ = some tm → tm.status = .draining → tm.fatal = none → tm.gw = 0 →
      s.coresOf tm.id = [s.core] → s.core.rank = 0 → s.drained s.core = true →
      (∀ q ∈ [4, 5, 6, 7, 8], ∀ x ∈ (s.core.queue q).cmds, x.stage ≠ .begun) →
      (∀ c ∈ s.others, c.place ≠ s.core.place) →
      ∃ t x o, exec (.contextSave tm.id) s = .next t ∧ t.teamAt tm.id = some x ∧ x.status = .preempted ∧ x.image = [o]
        ∧ sameSaved o s.core ∧ (∀ c ∈ t.cores, c.team ≠ some tm.id) ∧ t.mem = s.mem)
    ∧ (∀ tm o pan k, s.cohortTeams ltag cohort .preempted = [tm] → s.cohortTeams ltag cohort .draining = [] →
      s.cohortTeams ltag cohort .waiting = [] →
      (∀ w ∈ s.wants, w.launch.prio ≤ l.prio ∨ (s.diesOf w.launch &&& s.diesOf l) = 0) →
      s.teamAt tm.id = some tm → tm.image = [o] → o.rank = 0 → l.ltag = ltag →
      l.place (l.cohorts.getD cohort []) (fun i => tm.id.index == i) (s.avail (s.diesOf l) fun _ => false)
        = some [(tm.id.index, pan, [k])] → k < 4 → (∃ c ∈ s.cores, c.place = 4 * pan + k) →
      ∃ t x, exec (.contextRestore ltag cohort) s = .next t ∧ t.teamAt tm.id = some x ∧ x.status = .resident ∧ x.image = []
        ∧ t.mem = s.mem ∧ ∃ c ∈ t.cores, c.place = 4 * pan + k ∧ c.team = o.team ∧ c.stopped = false
          ∧ ((∀ h, o.hold ≠ .barWait h) → sameSaved c o ∧ c.hold = o.hold)
          ∧ ∀ h b at_, o.hold = .barWait h → s.barrierAt ltag h = some b →
            b.opensAt tm.id.index ((4 * pan + k) / 32) (o.arrivalOf h) = some at_ → o.stopAt ≤ at_ → at_ ≤ s.cycle + 1 →
            c.hold = .none)

/-- R320, R322, R325, R331: the launch and the cohorts that these teams come from start, once they are first in line and fit. -/
def launchesComplete : Prop :=
  ∀ (s : State),
    (∀ i n l c, s.nodeAt i = some n → s.nodeOf n.aqi n.id = some n → n.kind = 0 → s.mayStart n = true →
      s.launchPlan n s.newTag = .ok l → l.nextCohort = some c → s.firstInLine ⟨l, c.2, n.ready.getD 0, n.seq⟩ = true →
      s.preemptedAhead (s.diesOf l) l.prio = false → (s.fit ⟨l, c.2, n.ready.getD 0, n.seq⟩ fun _ => false).isSome = true →
      s.regionsFree l = true → s.launchBanksOn l = true →
      ∃ t, exec (.launchStart i) s = .next t ∧ (t.nodeOf n.aqi n.id).map (·.begun) = some true)
    ∧ ∀ ltag l n k c ps, s.launchAt ltag = some l → l.ltag = ltag → l.nextCohort = some (k, c) → s.nodeOf l.aqi l.node = some n →
      s.firstInLine ⟨l, c, n.ready.getD 0, n.seq⟩ = true → s.preemptedAhead (s.diesOf l) l.prio = false →
      (s.fit ⟨l, c, n.ready.getD 0, n.seq⟩ fun _ => false) = some ps →
      (∀ tm ∈ s.teams, tm.id.ltag = ltag → tm.cohort = k → tm.status ≠ .preempted) →
      ∃ t, exec (.cohortStart ltag) s = .next t ∧ ∀ p ∈ ps, ∀ x, t.teamAt ⟨ltag, p.1⟩ = some x → x.status = .resident

end Sys2Proof.Claims

/-- R106, R182, R293, R302, R309, R315, R320, R322, R325, R331 to R333, R349, R350, R354, R355, R357: teams retire, end after a fatal trap, stop for a
pre-emption, are saved, and resume with what was saved. -/
def Obligations.TeamsEndAndArePreempted : Prop := teamsEnd ∧ preemptions ∧ launchesComplete

/-- R5, R69, R83 to R86, R90, R91, R108, R309, R335, R386, R390: losses, moves, clocks, invalidations: a lost die loses its
teams; an unreachable device has no request left waiting; a region's move changes its home and storage and no right; an invalidation
completes once nothing is pinned, and answers. -/
def Obligations.LoomSteps : Prop :=
  ∀ (s : State),
    (∀ die, die < 24 → die ∉ s.dev.lostDies → (∀ l ∈ s.dev.launches, l.rerun = false) →
      ∃ t, exec (.linkFailure die) s = .next t ∧ die ∈ t.dev.lostDies ∧ t.cycle = s.cycle
        ∧ ∀ tm ∈ s.teams, (∃ c ∈ s.cores, c.team = some tm.id ∧ c.place / 32 = die) →
          (∀ x, t.teamAt tm.id = some x → x.status = .lost) ∧ ∀ c ∈ t.cores, c.team ≠ some tm.id)
    ∧ (∀ dev, dev < 192 → dev ≠ s.dev.weftId → dev ∉ s.dev.unreachable → s.unanswered dev = true →
      (∀ r ∈ s.dev.weftWait, r.place < 768) →
      ∃ t, exec (.weftUnreachable dev) s = .next t ∧ dev ∈ t.dev.unreachable ∧ (∀ r ∈ t.dev.weftWait, r.dst ≠ dev)
        ∧ t.mem = s.mem ∧ t.cycle = s.cycle)
    ∧ (∀ base ctx h, s.dev.homed.find? (fun h => h.ctx == ctx && decide (h.base ≤ base) && decide (base < h.base + 2 ^ h.sz)) = some h →
      s.homeDies ≠ [] → (∀ d ∈ s.homeDies, s.newStorage ctx h.base h.sz d ≠ none) → s.movable h = true → s.farCanonical = true →
      ∃ t new, exec (.regionMove base ctx) s = .next t ∧ new.ctx = ctx ∧ new.base = h.base ∧ new.sz = h.sz ∧ new.home ∈ s.homeDies
        ∧ t.dev.homed = s.dev.homed.map (fun k => if k = h then new else k)
        ∧ t.dev.regions = s.dev.regions.map (fun r =>
            if r.ctx = ctx ∧ within r.base r.sz h.base h.sz then { r with home := new.home } else r)
        ∧ t.teams = s.teams ∧ t.core = s.core ∧ t.others = s.others ∧ t.cycle = s.cycle
        ∧ (16 ≤ h.blk → h.blk ≤ h.sz → h.store.length = 2 ^ (h.sz - h.blk) → ∀ i k, i < 2 ^ (h.sz - 16) → k < 0x10000 →
          t.mem.read (new.part i + k) = s.mem.read (h.part i + k))
        ∧ (∀ a, (∀ b ∈ new.store, a < b ∨ b + 2 ^ new.blk ≤ a) → t.mem.read a = s.mem.read a)
        ∧ (∀ r ∈ s.dev.regions, r.ctx = ctx → within r.base r.sz h.base h.sz = true →
          ∀ e ∈ t.dev.tlb, ¬(e.1 = r.pasid ∧ e.2.va < h.base + 2 ^ h.sz ∧ h.base < e.2.va + e.2.size)))
    ∧ (∀ die mhz, die < 24 → 800 ≤ mhz → mhz ≤ 1900 → smapWf 1900 s.dev.mhz = true →
      ∃ t, exec (.islandFrequencyChange die mhz) s = .next t
        ∧ t = { s with dev := { s.dev with mhz := t.dev.mhz, mhzAt := t.dev.mhzAt, why := t.dev.why } }
        ∧ ∀ d, look 1900 t.dev.mhz d = if d = die then mhz else look 1900 s.dev.mhz d)
    ∧ (∀ v m, s.dev.invals = [v] → s.pinnedIn v.pasid v.base v.len = false → (v.aqi, s.dev.aqiAt v.aqi) ∈ s.dev.aqis →
      (s.dev.aqiAt v.aqi).bound = true → (s.dev.aqiAt v.aqi).mgmt = [(3, m)] → m.aqi = v.aqi →
      roomFor (s.dev.aqiAt v.aqi) → smapWf unboundAqi s.dev.aqis = true →
      ∃ t e, exec .invalidationComplete s = .next t ∧ t.dev.invals = [] ∧ (t.dev.aqiAt v.aqi).mgmt = []
        ∧ (t.dev.aqiAt v.aqi).waiting = (s.dev.aqiAt v.aqi).waiting ++ [e]
        ∧ (v.aqi < 4096 → e.toNat / 2 ^ 64 = 2 ^ 32 * m.tag.toNat + 2 ^ 20 * v.aqi) ∧ t.mem = s.mem
        ∧ ∀ e ∈ t.dev.tlb, ¬(e.1 = v.pasid ∧ e.2.va < v.base + v.len ∧ v.base < e.2.va + e.2.size))

namespace Sys2Proof.Claims

/-- The node that a packet makes on an AQI (R316, R318). -/
def nodeOfPacket (s : State) (aqi : Nat) (packet : BitVec 512) : Node where
  aqi := aqi
  id := packet.toNat / 2 ^ 96 % 2 ^ 32
  seq := (s.dev.aqiAt aqi).seq
  packet := packet
  deps := packet.toNat / 2 ^ 80 % 2 ^ 16
  ready := if packet.toNat / 2 ^ 80 % 2 ^ 16 = 0 then some s.cycle else none
  begun := false
  finished := false
  work := []
  status := 0
  detail := 0
  nentry := 0
  ltag := 0

/-- R316, R318, R380, R383: a packet is accepted as a node, or refused with an event whose code says why. -/
def submissions : Prop :=
  ∀ (s : State) (aqi : Nat) (packet : BitVec 512), aqi < 4096 →
    let q := s.dev.aqiAt aqi
    let n := nodeOfPacket s aqi packet
    let refused (i : Instr) (code : Nat) : Prop := ∃ t, exec i s = .next t ∧ t.dev.nodes = s.dev.nodes ∧
      ∀ p, (aqi, p) ∈ s.dev.aqis → roomFor p → ∃ p' e, (aqi, p') ∈ t.dev.aqis ∧ p'.waiting = p.waiting ++ [e]
        ∧ e.toNat = 2 ^ 84 * aqi + 2 ^ 80 + 2 ^ 72 * code + n.id
    q.bound = true → 5 ≤ s.dev.stage → s.hostUp = true → q.waiting.length < 256 →
    (s.pasidOk aqi (some q.pasid) = true →
      (n.wellFormed = true → s.nodeOf aqi n.id = none →
        ∃ t, exec (.requestSubmit aqi (some q.pasid) 64 packet) s = .next t ∧ t.dev.nodes = s.dev.nodes ++ [n] ∧ t.mem = s.mem
          ∧ t.core = s.core)
      ∧ (n.wellFormed = false → refused (.requestSubmit aqi (some q.pasid) 64 packet) 2)
      ∧ (n.wellFormed = true → s.nodeOf aqi n.id ≠ none → refused (.requestSubmit aqi (some q.pasid) 64 packet) 3))
    ∧ refused (.requestSubmit aqi none 64 packet) 1
    ∧ ∀ bytes, bytes ≠ 64 → refused (.requestSubmit aqi (some q.pasid) bytes packet) 2

/-- A node ends: it has a status and a detail, and waits to be reported. -/
def ends (t : State) (n : Node) (status detail : Nat) : Prop :=
  ∃ m, t.nodeOf n.aqi n.id = some m ∧ m.finished = true ∧ m.status = status ∧ m.detail = detail

/-- The node after a step. -/
def nodeNow (t : State) (n m : Node) : Prop := t.nodeOf n.aqi n.id = some m

/-- R67, R90, R138, R151, R318 to R320: ready transfer and transform nodes take their regions and start, or fail with their
reason; a transform first wakes the crystallizer that it is to run on. DETAIL 20 where no region of the host agent covers a run is
the model's (log 80). -/
def nodesStart : Prop :=
  ∀ (s : State) (i : Nat) (n : Node), s.nodeAt i = some n → s.nodeOf n.aqi n.id = some n → s.mayStart n = true →
    let p := s.nodePasid n
    let lent (t : State) (rs : List Region) : Prop := ∀ r ∈ rs, ∃ r' ∈ t.dev.regions,
      r'.base = r.base ∧ r'.sz = r.sz ∧ r'.ctx = r.ctx ∧ r'.owner = s.nodeAgent n ∧ r'.lender = s.hostAgent n.aqi
    (n.kind = 1 →
      (s.nodeRegions n [n.src, n.dst] = none → ∃ t, exec (.transferNodeStart i) s = .next t ∧ ends t n 4 20 ∧ t.mem = s.mem)
      ∧ ∀ rs, s.nodeRegions n [n.src, n.dst] = some rs → (∀ r ∈ rs, s.banksOn r = true) →
        (0 < n.count → covers rs n.src n.count = false ∨ covers rs n.dst n.count = false →
          ∃ t, exec (.transferNodeStart i) s = .next t ∧ ends t n 4 20 ∧ t.mem = s.mem)
        ∧ (covers rs n.src n.count = true → covers rs n.dst n.count = true →
          (∀ k, s.pinAll p (row 2 n.src n.dst n.count).pageVisits [] = .error k →
            ∃ t, exec (.transferNodeStart i) s = .next t ∧ ends t n 4 k ∧ t.mem = s.mem)
          ∧ ∀ pins, s.pinAll p (row 2 n.src n.dst n.count).pageVisits [] = .ok pins →
            ∃ t m, exec (.transferNodeStart i) s = .next t ∧ nodeNow t n m ∧ m.begun = true ∧ lent t rs ∧ t.core.s = s.core.s
              ∧ t.teams = s.teams))
    ∧ (n.kind = 2 → s.idlePans n ≠ [] →
      (s.nodeRegions n (n.runs.map (·.1)) = none → ∃ t, exec (.transformNodeStart i) s = .next t ∧ ends t n 4 20 ∧ t.mem = s.mem)
      ∧ ∀ rs pins, s.nodeRegions n (n.runs.map (·.1)) = some rs → (∀ r ∈ rs, s.banksOn r = true) →
        s.transformPins n rs = .ok pins →
        ((∀ q ∈ s.idlePans n, (s.dev.panAt q).cz = .off) →
          ∃ q ∈ s.idlePans n, exec (.transformNodeStart i) s = .next (s.onPan q fun x =>
            { x with cz := .waking (s.cycle + 32) false, last := 3, idle := s.cycle + 32 }))
        ∧ ((∀ q ∈ s.idlePans n, (s.dev.panAt q).czOn s.cycle = true) →
          ∃ t m, exec (.transformNodeStart i) s = .next t ∧ nodeNow t n m ∧ m.begun = true ∧ lent t rs
            ∧ ∃ q ∈ s.idlePans n, (t.dev.panAt q).node = some (n.aqi * 2 ^ 32 + n.id)))

/-- R72, R124, R144, R149, R151, R259, R319: the granule actions of a transfer, and of a transform's source and destination; with
the last the node has finished; a pack that has read its elements has its slot to write. -/
def nodeAccesses : Prop :=
  ∀ (s : State) (n : Node) (x : Cmd) (j dir src dst len : Nat) (a : Act), s.dev.nodes = [n] → n.work = [x] → n.kind = 1 ∨ n.kind = 2 →
    (s.nodeActs n x)[j]? = some a → x.remoteOf a = none → x.op = row dir src dst len → dir < 3 → 0 < len → x.late = none →
    s.dev.weftWait = [] → s.dev.vague = [] → s.farCanonical = true →
    (a.fetch = true → dir = 2 →
      ∃ t, exec (.farAccessAtHome 9 j false) s = .next t ∧ t.mem = s.mem ∧ t.dev.nodes = [{ n with work := [{ x with
        got := x.got ++ (x.moved a).map fun i => (i, s.mem.read (pinnedDpa x.pins (32 * a.n) + (src + i - 32 * a.n))) }] }])
    ∧ (∀ d, a.fetch = false → dir ≠ 0 → a.n ∉ x.selfFed → (∀ i, i < len → pinnedDpa x.pins (dst + i) = d + i) →
      ∃ t, exec (.farAccessAtHome 9 j false) s = .next t
        ∧ (∀ i ∈ x.op.feeding a.n, t.mem.read (d + i) = (x.have? i).getD 0)
        ∧ (∀ b, (∀ i ∈ x.op.feeding a.n, b ≠ d + i) → t.mem.read b = s.mem.read b)
        ∧ t.dev.nodes = [if x.todo.erase a.n = [] then { n with work := [], finished := true }
            else { n with work := [{ x with todo := x.todo.erase a.n }] }])
    ∧ (a.fetch = true → dir = 0 → x.missing = x.moved a → n.kind = 2 → n.unpacks = false →
      let got := x.got ++ (x.moved a).map fun i => (i, s.mem.read (pinnedDpa x.pins (32 * a.n) + (src + i - 32 * a.n)))
      let bytes := (List.range len).map fun i => ((got.find? fun e => e.1 == i).map (·.2)).getD 0
      let image := imageOf (bits n.ctl 63 62) (czE n.ctl) (pieces (czE n.ctl) (czN n.ctl) bytes)
      let slot := buildSlot (czS n.ctl) image
      image.length ≤ czC n.ctl →
      ∃ t y, exec (.farAccessAtHome 9 j false) s = .next t ∧ t.mem = s.mem ∧ y.op = row 1 0 n.dst slot.length ∧ y.pins = x.pins
        ∧ y.got = indexed 0 slot ∧ t.dev.nodes = [{ n with work := [y], status := 0, detail := 0, nentry := 0 }])

/-- R72, R87, R318, R319: signal and wait nodes act on their word, and a node that has finished is reported. An uncorrectable error
may be found at the word's granule, which is then zero before the action. That a signal node needs its bytes whole in its host
agent's hands, and DETAIL 20 where they are not, is the model's (logs 51, 80). -/
def wordNodes : Prop :=
  ∀ (s : State) (i : Nat) (n : Node), s.nodeAt i = some n → s.nodeOf n.aqi n.id = some n →
    (n.kind = 3 → s.mayStart n = true →
      (∀ x, s.hostWhole (s.nodeCtx n) n.aqi n.addr 8 = true → s.wordCmd n = .ok x → x.remoteOf ⟨false, 0⟩ = none → n.addr % 8 = 0 →
        s.dev.weftWait = [] → n.status = 0 → n.detail = 0 → s.farCanonical = true →
        (∀ k, k < 8 → pinnedDpa x.pins (n.addr + k) = pinnedDpa x.pins n.addr + k) → pinnedDpa x.pins n.addr % 8 = 0 →
        let d := pinnedDpa x.pins n.addr
        ∃ t, exec (.signalNode i) s = .next t ∧ ends t n 0 0 ∧ (∀ k, k < 8 → t.mem.read (d + k) = BitVec.ofNat 8 (n.value / 256 ^ k))
          ∧ (∀ b, b / 32 ≠ d / 32 → t.mem.read b = s.mem.read b)
          ∧ ((∀ b, (∀ k, k < 8 → b ≠ d + k) → t.mem.read b = s.mem.read b)
            ∨ ∀ b, (∀ k, k < 8 → b ≠ d + k) → b / 32 = d / 32 → t.mem.read b = 0))
      ∧ (∀ k, s.hostWhole (s.nodeCtx n) n.aqi n.addr 8 = true → s.wordCmd n = .error k →
        ∃ t, exec (.signalNode i) s = .next t ∧ ends t n 4 k ∧ t.mem = s.mem)
      ∧ (s.hostWhole (s.nodeCtx n) n.aqi n.addr 8 = false → ∃ t, exec (.signalNode i) s = .next t ∧ ends t n 4 20 ∧ t.mem = s.mem))
    ∧ (n.kind = 4 → n.finished = false → s.mayStart n = true → n.work = [] →
      ∀ r, s.regionOf (s.nodeCtx n) n.addr = some r → r.owner = s.hostAgent n.aqi →
      ∀ x, s.wordCmd n = .ok x → x.remoteOf ⟨false, 0⟩ = none → s.dev.vague = [] → s.farCanonical = true →
        let d := pinnedDpa x.pins n.addr
        ∃ t v, exec (.waitNodeCheck i) s = .next t
          ∧ ((v = leNat (s.mem.readAll d 8) ∧ t.mem = s.mem)
            ∨ (v = 0 ∧ ∀ b, t.mem.read b = if b / 32 = d / 32 then 0 else s.mem.read b))
          ∧ (n.value ≤ v → ends t n 0 0)
          ∧ (v < n.value → ∃ m, nodeNow t n m ∧ m.begun = true ∧ m.finished = false))
    ∧ (n.finished = true → n.crec = 0 → n.nsucc = 0 → n.id < 2 ^ 32 → n.aqi < 4096 →
      ∃ t, exec (.nodeCompletion i) s = .next t ∧ t.nodeOf n.aqi n.id = none ∧ t.mem = s.mem
        ∧ ∀ q, (n.aqi, q) ∈ s.dev.aqis → roomFor q → ∃ q' e, (n.aqi, q') ∈ t.dev.aqis ∧ q'.waiting = q.waiting ++ [e]
          ∧ e.toNat = 2 ^ 84 * n.aqi + 2 ^ 81 + n.id)

/-- R101, R353, R378, R379, R383: what the host does beside its packets completes: a line of a window is begun, or refused; a waiting
event is written while the ring has room; EVTAIL is taken; the device-wide dump is written where its region is whole. In recovery,
or with the CXL port lost, the host reaches nothing (R391), so these are for a host that does. -/
def hostComplete : Prop :=
  ∀ (s : State) (w off aqi value : Nat) (x : Option (BitVec 512)), smapWf unboundAqi s.dev.aqis = true →
    let q := s.dev.aqiAt aqi
    s.hostUp = true →
    (s.dev.cxlMid = none → ∃ t, exec (.cxlMemAccess w off x) s = .next t
      ∧ (t.dev.cxlMid ≠ none ∨ t.dev.refused = s.dev.refused + 1))
    ∧ (q.bound = true → q.waiting ≠ [] → (q.evhead + 2 ^ 32 - q.evtail) % 2 ^ 32 < q.ringN →
      ∃ t, exec (.eventWrite aqi) s = .next t ∧ (t.dev.aqiAt aqi).waiting = q.waiting.drop 1 ++ q.held.take 1)
    ∧ (aqi < 4096 → s.aqiOpen aqi = true → ∃ t, exec (.evtailWrite aqi value) s = .next t ∧ (t.dev.aqiAt aqi).evtail = value % 2 ^ 32)
    ∧ ∃ t, exec .deviceWideDump s = .next t ∧ t.dev = s.dev ∧ t.core = s.core

end Sys2Proof.Claims

/-- R101, R124, R151, R316, R318, R319, R353, R378 to R380, R383: request packets become nodes or are refused; transfers, transforms, signals
and waits act; a finished node is reported. -/
def Obligations.TaskGraphNodesRun : Prop := submissions ∧ nodesStart ∧ nodeAccesses ∧ wordNodes ∧ hostComplete

namespace Sys2Proof.Claims

/-- R106, R293, R349, R354, R355, R357: the teams that a launch has started end, or are stopped, saved and restored as cohorts. -/
def teamsComplete : Prop :=
  ∀ (s : State) (id : TeamId) (tm : Team) (cohort : Nat) (l : Launch), s.teamAt id = some tm → s.launchAt id.ltag = some l →
    l.ltag = id.ltag →
    (tm.status = .resident → tm.fatal = none → (s.coresOf id).length = 2 ^ tm.gw →
      (∀ c ∈ s.coresOf id, c.isDone = true ∧ c.quiet = true) →
      ∃ t, exec (.teamRetire id) s = .next t ∧ (t.teamAt id).map (·.status) = some .retired)
    ∧ (tm.status = .resident → tm.fatal ≠ none →
      (∀ c ∈ s.coresOf id, (c.stopped = true ∨ c.isDone = true) ∧ c.pend = [] ∧ c.lsPend = [] ∧ c.rows = [] ∧ c.counts = []) →
      ∃ t, exec (.dumpWrite id) s = .next t ∧ (t.teamAt id).map (·.status) = some .ended)
    ∧ (tm.status = .draining → tm.fatal = none → (∀ c ∈ s.coresOf id, s.drained c = true) →
      ∃ t, exec (.contextSave id) s = .next t ∧ (t.teamAt id).map (·.status) = some .preempted)
    ∧ (∀ w v, w ∈ s.wants → s.callsFor w = true → v ∈ s.victims (s.diesOf w.launch) w.launch.prio → v.1.ltag = id.ltag →
      v.2.1 = cohort → (∀ u ∈ s.victims (s.diesOf w.launch) w.launch.prio, victimBefore u v = false) → cohort < l.cohorts.length →
      tm ∈ s.cohortTeams id.ltag cohort .resident → s.yields tm = true →
      ∃ t, exec (.preemption id.ltag cohort) s = .next t ∧ (t.teamAt id).map (·.wanted) = some true)
    ∧ (∀ ps, s.cohortTeams id.ltag cohort .preempted ≠ [] → s.cohortTeams id.ltag cohort .draining = [] →
      (∀ w ∈ s.wants, w.launch.prio ≤ l.prio ∨ (s.diesOf w.launch &&& s.diesOf l) = 0) →
      l.place (l.cohorts.getD cohort []) (fun i => (s.cohortTeams id.ltag cohort .preempted
        ++ s.cohortTeams id.ltag cohort .waiting).any fun t => t.id.index == i) (s.avail (s.diesOf l) fun _ => false) = some ps →
      ∃ t, exec (.contextRestore id.ltag cohort) s = .next t
        ∧ ∀ p ∈ ps, ∀ x, t.teamAt ⟨id.ltag, p.1⟩ = some x → x.status = .resident)

end Sys2Proof.Claims

/-- R320, R322, R325, R326, R328, R330 to R332: a launch is refused with the reason of its plan, is complete at once when
it creates no team, whatever stands before it, or starts and takes a launch tag; a cohort that fits starts its teams, each core with the registers
of R325; and the teams end, or are saved and restored. -/
def Obligations.LaunchesAndCohortsStart : Prop :=
  teamsComplete ∧ ∀ (s : State),
    (∀ i n, s.nodeAt i = some n → s.nodeOf n.aqi n.id = some n → n.kind = 0 → s.mayStart n = true →
      (∀ k, s.launchPlan n s.newTag = .error k → ∃ t, exec (.launchStart i) s = .next t ∧ ends t n 3 k ∧ t.mem = s.mem)
      ∧ ∀ l, s.launchPlan n s.newTag = .ok l →
        ∀ c, l.nextCohort = some c →
          let w : Want := ⟨l, c.2, n.ready.getD 0, n.seq⟩
          s.firstInLine w = true → s.preemptedAhead (s.diesOf l) l.prio = false → (s.fit w fun _ => false).isSome = true →
          s.regionsFree l = true → s.launchBanksOn l = true →
          ∃ t m, exec (.launchStart i) s = .next t ∧ t.nodeOf n.aqi n.id = some m ∧ m.begun = true ∧ m.ltag = s.newTag
            ∧ (∃ l' ∈ t.dev.launches, l'.ltag = l.ltag ∧ l'.node = l.node ∧ l'.aqi = l.aqi) ∧ t.mem = s.mem ∧ t.core.s = s.core.s
            ∧ t.core.team = s.core.team)
    ∧ (∀ i n l, s.nodeAt i = some n → s.nodeOf n.aqi n.id = some n → n.kind = 0 → n.begun = false → n.ready ≠ none → n.bf = false →
      s.launchPlan n s.newTag = .ok l → l.nextCohort = none →
      ∃ t, exec (.launchStart i) s = .next t ∧ ends t n 0 0 ∧ t.mem = s.mem)
    ∧ ∀ (ltag i pan k num : Nat) (cohort : List Nat) (l : Launch) (n : Node), s.launchAt ltag = some l → l.ltag = ltag →
      l.nextCohort = some (num, cohort) → s.nodeOf l.aqi l.node = some n →
      let w : Want := ⟨l, cohort, n.ready.getD 0, n.seq⟩
      s.firstInLine w = true → s.preemptedAhead (s.diesOf l) l.prio = false → (s.fit w fun _ => false) = some [(i, pan, [k])] →
      k < 4 → s.teamAt ⟨ltag, i⟩ ≠ none → (∃ c ∈ s.cores, c.place = 4 * pan + k) →
      (∀ tm ∈ s.teams, tm.id.ltag = ltag → tm.cohort = num → tm.status ≠ .preempted) →
      ∃ t tm, exec (.cohortStart ltag) s = .next t ∧ t.teamAt ⟨ltag, i⟩ = some tm ∧ tm.status = .resident ∧ tm.wdog = l.wdog
        ∧ t.mem = s.mem ∧ ∃ c ∈ t.cores, c.place = 4 * pan + k ∧ c.team = some ⟨ltag, i⟩ ∧ c.rank = 0 ∧ c.thr = .entry
          ∧ (∀ d, c.domAt d = .off) ∧ c.p = [] ∧ (c.csrAt 10).toNat = 0 ∧ (c.csrAt 2).toNat = 0xF
          ∧ look 0 c.s 1 = BitVec.ofNat 64 i
          ∧ (∀ c1 cs, l.spatial = c1 :: cs → look 0 c.s 2 = BitVec.ofNat 64 (i % c1)
            ∧ ∀ c2 cs', cs = c2 :: cs' → look 0 c.s 3 = BitVec.ofNat 64 (i / c1 % c2)
              ∧ ∀ c3 rest, cs' = c3 :: rest → look 0 c.s 4 = BitVec.ofNat 64 (i / c1 / c2 % c3))
          ∧ look 0 c.s 5 = BitVec.ofNat 64 l.argLs ∧ look 0 c.s 6 = 0
          ∧ look 0 c.s 7 = BitVec.ofNat 64 (2 ^ l.gw) ∧ ∀ r, r = 0 ∨ 7 < r → look 0 c.s r = 0

/-! ### Steps that no word encodes: the host -/

namespace Sys2Proof.Claims

/-- The bytes of a line's half. -/
def half (x : BitVec 512) (k : Nat) : List Byte := ((toBytes 64 x.toNat).drop (32 * k)).take 32

/-- What a read of a granule gives, and far memory after it: the granule's bytes, or, where an uncorrectable error is found, zeros,
which then stand there (R87). -/
def granuleRead (s t : State) (d : Nat) (bs : List Byte) : Prop :=
  (bs = s.mem.readAll d 32 ∧ t.mem = s.mem)
    ∨ (bs = List.replicate 32 0 ∧ ∀ b, t.mem.read b = if b / 32 = d / 32 then 0 else s.mem.read b)

/-- A whole granule is written and nothing else. -/
def granuleWritten (s t : State) (d : Nat) (bs : List Byte) : Prop :=
  (∀ i, i < 32 → t.mem.read (d + i) = bs.getD i 0) ∧ ∀ b, (b < d ∨ d + 32 ≤ b) → t.mem.read b = s.mem.read b

/-- R72, R87, R101, R260, R378: a line of a window is checked as a whole, and written or read as two granule actions, of which the
second is the event that comes next; an access that is refused is counted, and reads poison. -/
def windowAccesses : Prop :=
  ∀ (s : State) (w off aqi base : Nat) (x : BitVec 512), w < 8 → off < 2 ^ 40 → look (0, 0) s.dev.hdm w = (aqi + 1, base) →
    s.farCanonical = true → s.dev.vague = [] → s.hostUp = true →
    let q := s.dev.aqiAt aqi
    let va := base + off / 64 * 64
    (∀ p, s.dev.cxlMid = none → s.agentMay q.ctx (s.hostAgent aqi) va 64 .write = true → s.xlate q.pasid va true = .ok p →
      (∃ k, targetOf (p.dpa + (va - p.va)) = .dram k) →
      let d := p.dpa + (va - p.va)
      ∃ t, exec (.cxlMemAccess w off (some x)) s = .next t ∧ granuleWritten s t d (half x 0)
        ∧ t.dev.cxlMid = some ⟨w, off, some x, va + 32, d + 32, [], q.ctx, q.pasid, p⟩ ∧ t.inputs = .cxlMemAccess w off (some x) :: s.inputs)
    ∧ (∀ p, s.dev.cxlMid = none → s.agentMay q.ctx (s.hostAgent aqi) va 64 .read = true → s.xlate q.pasid va false = .ok p →
      (∃ k, targetOf (p.dpa + (va - p.va)) = .dram k) →
      let d := p.dpa + (va - p.va)
      ∃ t bs, exec (.cxlMemAccess w off none) s = .next t ∧ granuleRead s t d bs
        ∧ t.dev.cxlMid = some ⟨w, off, none, va + 32, d + 32, bs, q.ctx, q.pasid, p⟩ ∧ t.inputs = .cxlMemAccess w off none :: s.inputs)
    ∧ (∀ d at_ ctx pasid page, s.dev.cxlMid = some ⟨w, off, some x, at_, d, [], ctx, pasid, page⟩ → (∃ k, targetOf d = .dram k) →
      ∃ t, exec (.cxlMemAccess w off (some x)) s = .next t ∧ granuleWritten s t d (half x 1) ∧ t.dev.cxlMid = none
        ∧ t.inputs = s.inputs)
    ∧ (∀ d got at_ ctx pasid page, s.dev.cxlMid = some ⟨w, off, none, at_, d, got, ctx, pasid, page⟩ → (∃ k, targetOf d = .dram k) →
      ∃ t bs, exec (.cxlMemAccess w off none) s = .next t ∧ granuleRead s t d bs ∧ t.dev.cxlMid = none
        ∧ t.dev.cxlOut = s.dev.cxlOut ++ [some (BitVec.ofNat 512 (leNat (got ++ bs)))] ∧ t.inputs = s.inputs)
    ∧ (s.dev.cxlMid = none → s.agentMay q.ctx (s.hostAgent aqi) va 64 .read = false →
      exec (.cxlMemAccess w off none) s = .next { s with dev := { s.dev with
        refused := s.dev.refused + 1, cxlOut := s.dev.cxlOut ++ [none] } })
    ∧ (s.dev.cxlMid = none → s.agentMay q.ctx (s.hostAgent aqi) va 64 .write = false →
      exec (.cxlMemAccess w off (some x)) s = .next { s with dev := { s.dev with refused := s.dev.refused + 1 } })

/-- R353, R377, R379, R383, R384: an event goes to its ring slot while there is room, with the PASID of its AQI, and its message
follows; a notify page lies in BAR0, EVTAIL is the host's, and the other fields that are no packet take no write; the device-wide dump changes nothing but far memory, and nothing where no region is named. -/
def eventsAndDump : Prop :=
  ∀ (s : State) (aqi value : Nat) (e : BitVec 128) (es : List (BitVec 128)), smapWf unboundAqi s.dev.aqis = true →
    let q := s.dev.aqiAt aqi
    let slot : Nat × Nat × Nat := (q.pasid, q.ring + 16 * (q.evhead % q.ringN), e.toNat)
    (q.bound = true → s.hostUp = true → q.waiting = e :: es → (q.evhead + 2 ^ 32 - q.evtail) % 2 ^ 32 < q.ringN →
      ∃ t, exec (.eventWrite aqi) s = .next t ∧ (t.dev.aqiAt aqi).waiting = es ++ q.held.take 1
        ∧ (t.dev.aqiAt aqi).held = q.held.drop 1
        ∧ (t.dev.aqiAt aqi).evhead = (q.evhead + 1) % 2 ^ 32 ∧ (t.dev.aqiAt aqi).evtail = q.evtail
        ∧ (q.irqValid = true → q.irqMask = false →
            t.dev.hostWrites = s.dev.hostWrites ++ [slot, (q.pasid, q.irqAddr, q.irqData)])
        ∧ (q.irqValid = false → t.dev.hostWrites = s.dev.hostWrites ++ [slot])
        ∧ (q.irqValid = true → q.irqMask = true → (t.dev.aqiAt aqi).irqPending = true
            ∧ t.dev.hostWrites = s.dev.hostWrites ++ [slot])
        ∧ t.mem = s.mem)
    ∧ (aqi < 4096 → s.aqiOpen aqi = true → ∃ t, exec (.evtailWrite aqi value) s = .next t
        ∧ (t.dev.aqiAt aqi).evtail = value % 2 ^ 32 ∧ (t.dev.aqiAt aqi).evhead = q.evhead ∧ t.mem = s.mem)
    ∧ (∀ off, aqi < 4096 → off < 4096 → s.barRead (4096 * aqi + off) = s.notifyRead aqi off
        ∧ s.barWrite (4096 * aqi + off) value = s.notifyWrite aqi off value)
    ∧ (q.evhead < 2 ^ 32 → q.evtail < 2 ^ 32 → q.ovf < 2 ^ 32 → (s.notifyRead aqi 0x80).toNat = q.evhead
      ∧ (s.notifyRead aqi 0x84).toNat = q.evtail ∧ (s.notifyRead aqi 0x88).toNat = q.ovf)
    ∧ (∀ off, off < 0x80 ∨ 0x98 ≤ off → s.notifyRead aqi off = 0)
    ∧ (∀ off, 0x80 ≤ off → off ≠ 0x84 → s.notifyWrite aqi off value = s)
    ∧ (s.dev.devDump = none → exec .deviceWideDump s = .next s)
    ∧ (∀ g, s.dev.devDump = some g → (s.regionExact 0 (roBase g) (roSz g)).isSome = true →
      s.hostWhole 0 0 (roBase g) (2 ^ roSz g) = true → s.xlateFail (s.dev.aqiAt 0).pasid (roBase g) (2 ^ roSz g) true = none →
      s.farCanonical = true →
      ∃ t, exec .deviceWideDump s = .next t ∧ t = { s with mem := t.mem } ∧ t.farCanonical = true)

/-- R318 to R320, R380: what the host submits completes: a packet becomes a node, a ready node that its checks let pass begins, one
that has finished is gone. -/
def nodesComplete : Prop :=
  ∀ (s : State) (i : Nat) (n : Node), s.nodeAt i = some n → s.nodeOf n.aqi n.id = some n →
    let begins (j : Instr) : Prop := ∃ t, exec j s = .next t ∧ (t.nodeOf n.aqi n.id).map (·.begun) = some true
    (∀ aqi packet, aqi < 4096 → (s.dev.aqiAt aqi).bound = true → 5 ≤ s.dev.stage → s.hostUp = true →
      (s.dev.aqiAt aqi).waiting.length < 256 → s.pasidOk aqi (some (s.dev.aqiAt aqi).pasid) = true → (nodeOfPacket s aqi packet).wellFormed = true →
      s.nodeOf aqi (nodeOfPacket s aqi packet).id = none →
      ∃ t, exec (.requestSubmit aqi (some (s.dev.aqiAt aqi).pasid) 64 packet) s = .next t
        ∧ nodeOfPacket s aqi packet ∈ t.dev.nodes)
    ∧ (s.mayStart n = true →
      (n.kind = 1 → (∀ rs, s.nodeRegions n [n.src, n.dst] = some rs → ∀ r ∈ rs, s.banksOn r = true) → begins (.transferNodeStart i))
      ∧ (n.kind = 2 → s.idlePans n ≠ [] → (∀ q ∈ s.idlePans n, (s.dev.panAt q).czOn s.cycle = true) →
        (∀ rs, s.nodeRegions n (n.runs.map (·.1)) = some rs → ∀ r ∈ rs, s.banksOn r = true) → begins (.transformNodeStart i))
      ∧ (n.kind = 3 → begins (.signalNode i))
      ∧ (n.kind = 4 → n.finished = false → n.work = [] → begins (.waitNodeCheck i)))
    ∧ (n.finished = true → ∃ t, exec (.nodeCompletion i) s = .next t ∧ t.nodeOf n.aqi n.id = none)

end Sys2Proof.Claims

/-- R72, R87, R101, R260, R318 to R320, R353, R377 to R379, R383, R384: the host's own accesses: lines of a window, event rings and messages, the
device-wide dump. -/
def Obligations.HostAccessesAndEvents : Prop := windowAccesses ∧ eventsAndDump ∧ nodesComplete

namespace Sys2Proof.Claims

/-- A management packet of 64 bytes with a MOP of the list arrives alone at an AQI that takes it: it is bound, the loom accepts packets,
its PASID is good, no event waits, and no field is set that its request does not name (R380, R381). -/
def Arrives (s : State) (m : Mgmt) : Prop :=
  m.aqi < 4096 ∧ m.bytes = 64 ∧ mopListed m.mop = true ∧ (s.dev.aqiAt m.aqi).bound = true ∧ 5 ≤ s.dev.stage ∧ s.hostUp = true
    ∧ (s.dev.aqiAt m.aqi).waiting = [] ∧ (s.dev.aqiAt m.aqi).held = []
    ∧ (s.dev.aqiAt m.aqi).mgmt = [] ∧ s.pasidOk m.aqi m.pasid = true ∧ m.resv = 0 ∧ smapWf unboundAqi s.dev.aqis = true

/-- Its request runs: the queue is empty again, the event with its tag and a code waits, and the state afterwards is as
given (R382, R383). -/
def answered (s : State) (m : Mgmt) (i : Instr) (code : Nat) (after : State → Prop) : Prop :=
  ∃ t e, exec i s = .next t ∧ (t.dev.aqiAt m.aqi).mgmt = [] ∧ (t.dev.aqiAt m.aqi).waiting = [e]
    ∧ e.toNat / 2 ^ 64 = 2 ^ 32 * m.tag.toNat + 2 ^ 20 * m.aqi + 2 ^ 8 * code
    ∧ t.core = s.core ∧ t.others = s.others ∧ t.cycle = s.cycle ∧ after t

/-- The same for a request that touches no team and no byte. -/
def answeredQuietly (s : State) (m : Mgmt) (i : Instr) (code : Nat) (after : State → Prop) : Prop :=
  answered s m i code fun t => t.mem = s.mem ∧ t.teams = s.teams ∧ after t

/-- The bytes of far memory that a request wrote. -/
def wrote (s : State) (m : Mgmt) (va n : Nat) (t : State) : Prop :=
  ∃ bs : List Byte, bs.length = n ∧ t.mem = (s.poke (s.dev.aqiAt m.aqi).pasid va bs).mem

end Sys2Proof.Claims

/-- R92, R97, R98, R104, R182, R350, R358, R360, R363, R382, R383, R386, R393: the management requests of any AQI: what each
does, and the event that answers it. Code 8 where no die can be a region's home is the model's choice (log 82). -/
def Obligations.ManagementRequests : Prop :=
  ∀ (s : State) (m : Mgmt), Arrives s m →
    let q := s.dev.aqiAt m.aqi
    let a := m.a.toNat
    let base := roBase a
    let sz := roSz a
    let me := s.hostAgent m.aqi
    (m.d = 0 → roOk a = true →
      (∀ r ∈ s.dev.regions, r.ctx = q.ctx → r.base + 2 ^ r.sz ≤ base ∨ base + 2 ^ sz ≤ r.base) →
      (s.homeDies ≠ [] → (∀ d ∈ s.homeDies, s.newStorage q.ctx base sz d ≠ none) →
        answeredQuietly s m (.regionCreate m) 0 fun t => ∃ home ∈ s.homeDies, ∃ h : Homed,
          t.dev.regions = s.dev.regions ++ [⟨home, base, sz, q.ctx, me, me, 0, 0, false, [], q.pasid, []⟩]
          ∧ t.dev.homed = s.dev.homed ++ [h] ∧ h.ctx = q.ctx ∧ h.base = base ∧ h.sz = sz ∧ h.home = home
          ∧ ∀ k ∈ s.dev.homed, ∀ b ∈ k.store, ∀ b' ∈ h.store, b + 2 ^ k.blk ≤ b' ∨ b' + 2 ^ h.blk ≤ b)
      ∧ (s.homeDies = [] → answeredQuietly s m (.regionCreate m) 8 fun t => t.dev.regions = s.dev.regions))
    ∧ (∀ r, m.d = 0 → roOk a = true → s.regionExact q.ctx base sz = some r → r.owner = me → r.shares = 0 →
      answeredQuietly s m (.regionDestroy m) 0 fun t => t.regionExact q.ctx base sz = none)
    ∧ (m.d = 0 → a + m.b.toNat ≤ 2 ^ 56 →
      ∃ t, exec (.inval m) s = .next t ∧ t.dev.invals = s.dev.invals ++ [⟨m.aqi, m.tag.toNat, q.pasid, a, m.b.toNat⟩]
        ∧ (t.dev.aqiAt m.aqi).mgmt = [(3, m)] ∧ (t.dev.aqiAt m.aqi).waiting = [] ∧ t.mem = s.mem ∧ t.core = s.core)
    ∧ (m.d = 0 → (a = 0 ∨ roOk a = true) → smapWf 0 s.dev.dumpRegs = true →
      answeredQuietly s m (.dumpreg m) 0 fun t => ∀ c, look 0 t.dev.dumpRegs c = if c = q.ctx then a else look 0 s.dev.dumpRegs c)
    ∧ (m.d = 0 → s.hostWriteCode m.aqi a 131072 = none →
      answered s m (.counters m) 0 fun t => t.teams = s.teams ∧ t.mem = (s.poke q.pasid a ((List.range 4096).flatMap fun i =>
        let x := look ⟨0, 0, 0⟩ s.dev.counters (4096 * q.ctx + i)
        toBytes 8 x.sat ++ toBytes 8 x.ftz ++ toBytes 8 x.nan ++ toBytes 8 0)).mem)
    ∧ (∀ ag, m.d = 0 → s.hostLendReason m = none → s.recipient none q.ctx m.b.toNat = some ag →
      (∀ r, s.regionExact q.ctx base sz = some r → r.home ∉ s.dev.lostDies) →
      (∀ p k, look .off (s.dev.panAt p).vt k ≠ .ret) → s.laneOpen 2 = true → (∀ e ∈ s.dev.weftHeld, e.2.vl ≠ 2) →
      ∃ t f r, exec (.lend m) s = .next t ∧ t.dev.weftOut = s.dev.weftOut ++ [f] ∧ f.dst = ag.dev ∧ f.type = 6 ∧ f.vl = 2
        ∧ t.dev.weftWait = s.dev.weftWait ++ [r] ∧ r.dst = ag.dev ∧ r.xid = f.xid ∧ (t.dev.aqiAt m.aqi).mgmt = [(6, m)]
        ∧ t.dev.regions = s.dev.regions ∧ t.mem = s.mem ∧ t.core = s.core)
    ∧ (∀ r, m.d = 0 → roOk a = true → s.regionExact q.ctx base sz = some r → r.owner = me → r.shares = 0 →
      r.home ∉ s.dev.lostDies → r.lender.dev = s.dev.weftId → r.lender.kind = 2 →
      answeredQuietly s m (.hostReturn m) 0 fun t => ∃ r', t.regionExact q.ctx base sz = some r' ∧ r'.owner = r.lender)
    ∧ (∀ tm c, m.d = 0 → s.teamAt ⟨a % 2 ^ 16, a / 2 ^ 16 % 2 ^ 20⟩ = some tm → a < 2 ^ 38 → tm.ctx = q.ctx →
      a / 2 ^ 36 < 2 ^ tm.gw → tm.status = .preempted → (tm.image.find? fun c => c.rank == a / 2 ^ 36) = some c →
      s.hostWriteCode m.aqi m.b.toNat (s.imageBytes c tm).length = none →
      ∃ t e, exec (.imgExport m) s = .next t ∧ (t.dev.aqiAt m.aqi).waiting = [e]
        ∧ e.toNat / 2 ^ 64 = 2 ^ 32 * m.tag.toNat + 2 ^ 20 * m.aqi ∧ t.teams = s.teams ∧ t.core = s.core
        ∧ ∃ bs, bs.length = (s.imageBytes c tm).length ∧ t.mem = (s.poke q.pasid m.b.toNat bs).mem
          ∧ t.dev.exports = (bs, c, tm) :: s.dev.exports)
    ∧ (∀ l tm c tx, m.d = 0 → s.xlateFail q.pasid a 64 false = none →
      let h := leNat (s.peek q.pasid a 64)
      let n := 64 * (h / 2 ^ 480)
      s.xlateFail q.pasid a n false = none → s.agentMay q.ctx me a (max n 64) .read = true → imageRefused h = false →
      s.launchAt m.b.toNat = some l → s.teamAt ⟨m.b.toNat, h / 2 ^ 356 % 2 ^ 20⟩ = some tm → l.ctx = q.ctx → tm.status = .waiting →
      tm.gw = 0 → h / 2 ^ 352 % 2 ^ 4 = 0 → (s.dev.exports.find? fun e => e.1 == s.peek q.pasid a n) = some (s.peek q.pasid a n, c, tx) →
      c.rank = 0 → tm.image = [] →
      ∃ t x o, exec (.imgImport m) s = .next t ∧ t.teamAt tm.id = some x ∧ x.status = .preempted ∧ x.image = [o] ∧ o.s = c.s
        ∧ o.p = c.p ∧ o.v = c.v ∧ o.ls = c.ls ∧ o.code = c.code ∧ o.chan = c.chan ∧ o.thr = c.thr ∧ o.team = some tm.id
        ∧ x.stats = tx.stats ∧ x.wdog = tx.wdog ∧ t.mem = s.mem ∧ t.core = s.core)
    ∧ (∀ tm, s.teamAt ⟨a % 2 ^ 16, a / 2 ^ 16 % 2 ^ 20⟩ = some tm → a < 2 ^ 36 → tm.ctx = q.ctx → m.b.toNat < 4 →
      m.c.toNat / 2 ^ 10 % 2 ^ 2 ≠ 3 → m.c.toNat % 2 ^ 8 = 0 → m.d.toNat / 2 ^ 16 = 0 →
      (∀ c ∈ s.cores, smapWf 0 c.wp = true) →
      ∃ t, exec (.watch m) s = .next t ∧ t.mem = s.mem ∧ t.core.s = s.core.s ∧ ∀ c ∈ t.cores, c.team = some tm.id → c.rank = 0 →
        look 0 c.wp m.b.toNat = BitVec.ofNat 128 (2 ^ 64 * m.c.toNat + m.d.toNat))
    ∧ (s.hostWriteCode m.aqi a 768 = none → answered s m (.attest m) 0 fun t => t.teams = s.teams ∧ wrote s m a 768 t)

/-- R69, R83, R85, R91, R108, R386, R390: what the loom does of its own completes: a link or a device is lost, a region moves, an
island's clock changes, an invalidation ends. -/
def Claims.loomComplete : Prop :=
  ∀ (s : State),
    (∀ die, die < 24 → die ∉ s.dev.lostDies → ∃ t, exec (.linkFailure die) s = .next t ∧ die ∈ t.dev.lostDies)
    ∧ (∀ dev, dev < 192 → dev ≠ s.dev.weftId → dev ∉ s.dev.unreachable → s.unanswered dev = true →
      ∃ t, exec (.weftUnreachable dev) s = .next t ∧ dev ∈ t.dev.unreachable)
    ∧ (∀ base ctx h, s.dev.homed.find? (fun h => h.ctx == ctx && decide (h.base ≤ base) && decide (base < h.base + 2 ^ h.sz)) = some h →
      s.homeDies ≠ [] → (∀ d ∈ s.homeDies, s.newStorage ctx h.base h.sz d ≠ none) → s.movable h = true →
      ∃ t new, exec (.regionMove base ctx) s = .next t ∧ new ∈ t.dev.homed ∧ new.base = h.base ∧ new.sz = h.sz)
    ∧ (∀ die mhz, die < 24 → 800 ≤ mhz → mhz ≤ 1900 → smapWf 1900 s.dev.mhz = true →
      ∃ t, exec (.islandFrequencyChange die mhz) s = .next t ∧ look 1900 t.dev.mhz die = mhz)
    ∧ (∀ v, s.dev.invals = [v] → s.pinnedIn v.pasid v.base v.len = false → (s.dev.aqiAt v.aqi).mgmt.length ≤ 1 →
      ∃ t, exec .invalidationComplete s = .next t ∧ t.dev.invals = [])

/-- R69, R78, R83 to R85, R91, R108, R378, R379, R382, R384, R386, R388, R390, R394: the requests of the device owner, on AQI 0: bindings, PASID entries,
interrupts, windows, the device-wide dump's region, telemetry, the weft id; and the loom's own steps complete. -/
def Obligations.OwnerRequests : Prop :=
  Claims.loomComplete ∧ ∀ (s : State) (m : Mgmt), Arrives s m → m.aqi = 0 → m.d = 0 →
    let a := m.a.toNat
    let b := m.b.toNat
    let c := m.c.toNat
    (a < 4096 → (s.dev.aqiAt a).bound = false → c % 2 ^ 12 ≤ 10 → b < 2 ^ 56 →
      answeredQuietly s m (.aqiBind m) 0 fun t => (t.dev.aqiAt a).bound = true ∧ (t.dev.aqiAt a).ctx = b % 2 ^ 16
        ∧ (t.dev.aqiAt a).pasid = b / 2 ^ 16 % 2 ^ 16 ∧ (t.dev.aqiAt a).dies = b / 2 ^ 32 % 2 ^ 24
        ∧ (t.dev.aqiAt a).ring = 2 ^ 12 * (c / 2 ^ 12) ∧ (t.dev.aqiAt a).ringN = 2 ^ (c % 2 ^ 4 + 6)
        ∧ (t.dev.aqiAt a).evhead = 0 ∧ (t.dev.aqiAt a).evtail = 0 ∧ (t.dev.aqiAt a).ovf = 0
        ∧ (∀ d ∈ t.dev.islandOff, d ∈ s.dev.islandOff ∧ b.testBit (32 + d) = false)
        ∧ ((∀ e ∈ s.dev.aqis, e.2.bound = true → e.2.ctx ≠ b % 2 ^ 16) →
          ∀ i, i < 4096 → look ⟨0, 0, 0⟩ t.dev.counters (4096 * (b % 2 ^ 16) + i) = ⟨0, 0, 0⟩))
    ∧ (a < 4096 → (s.dev.aqiAt a).bound = true →
      ∃ t, exec (.aqiBind m) s = .next t ∧ t.dev.aqiAt a = (if a = 0 then t.dev.aqiAt 0 else s.dev.aqiAt a) ∧ t.dev.regions = s.dev.regions)
    ∧ (a ≠ 0 → (∀ n ∈ s.dev.nodes, n.aqi ≠ a) →
      let others (die : Nat) : Prop := ∃ e ∈ s.dev.aqis, e.1 ≠ a ∧ e.1 ≠ 0 ∧ e.2.bound = true ∧ e.2.dies.testBit die = true
      ((∀ die, die < 24 → (s.dev.aqiAt a).dies.testBit die = true → others die) →
        answeredQuietly s m (.aqiUnbind m) 0 fun t => (t.dev.aqiAt a).bound = false ∧ (t.dev.aqiAt a).waiting = [])
      ∧ ∀ die, die < 24 → (s.dev.aqiAt a).dies.testBit die = true → ¬others die → s.occupied die = false → s.stores die = false →
        (∀ h ∈ s.dev.homed, ∀ x, h.holds x = true → onDie die x = false) → s.farCanonical = true →
        ∃ t, exec (.aqiUnbind m) s = .next t ∧ (t.dev.aqiAt a).bound = false ∧ die ∈ t.dev.islandOff
          ∧ (∀ x, onDie die x = true → t.mem.read x = 0)
          ∧ (∀ c ∈ t.cores, c.place / 32 = die → c.team = none → c = Core.reset c.place) ∧ t.teams = s.teams)
    ∧ (a < 2 ^ 16 → (look 0 s.dev.pasids a).getLsbD 1 = false → smapWf 0 s.dev.pasids = true →
      answeredQuietly s m (.pasidSet m) 0 fun t => (look 0 t.dev.pasids a).toNat % 2 ^ 52 = 2 ^ 12 * (b / 2 ^ 12 % 2 ^ 40) + 1
        ∧ ∀ p, p ≠ a → look 0 t.dev.pasids p = look 0 s.dev.pasids p)
    ∧ (a < 2 ^ 16 → smapWf 0 s.dev.pasids = true →
      ∃ t, exec (.pasidRevoke m) s = .next t ∧ look 0 t.dev.pasids a = look 0 s.dev.pasids a ||| 2
        ∧ (∀ p, p ≠ a → look 0 t.dev.pasids p = look 0 s.dev.pasids p)
        ∧ t.dev.invals = s.dev.invals ++ [⟨0, m.tag.toNat, a, 0, 2 ^ 56⟩]
        ∧ (∀ n ∈ t.dev.nodes, (s.dev.aqiAt n.aqi).pasid = a → n.begun = true ∨ n.finished = true)
        ∧ (t.dev.aqiAt 0).mgmt = [(0x23, m)] ∧ t.mem = s.mem ∧ t.core = s.core
        ∧ ((∀ n ∈ s.dev.nodes, n.kind = 0 → n.begun = false) → t.teams = s.teams))
    ∧ (a < 4096 → c < 2 ^ 33 → (s.dev.aqiAt a).irqPending = false →
      answeredQuietly s m (.irqSet m) 0 fun t => (a ≠ 0 ∨ (s.dev.aqiAt 0).bound = true) → (t.dev.aqiAt a).irqAddr = b
        ∧ (t.dev.aqiAt a).irqData = c % 2 ^ 32 ∧ (t.dev.aqiAt a).irqMask = c.testBit 32 ∧ (t.dev.aqiAt a).irqValid = true
        ∧ t.dev.hostWrites = s.dev.hostWrites)
    ∧ (a < 8 → b < 4096 → smapWf (0, 0) s.dev.hdm = true →
      answeredQuietly s m (.hdmBind m) 0 fun t => ∀ w, look (0, 0) t.dev.hdm w = if w = a then (b + 1, c) else look (0, 0) s.dev.hdm w)
    ∧ (roOk a = true → answeredQuietly s m (.devdump m) 0 fun t => t.dev.devDump = some a)
    ∧ (s.hostWriteCode 0 a 256 = none → answered s m (.power m) 0 fun t => t.teams = s.teams ∧ wrote s m a 256 t)
    ∧ (a < 192 → s.dev.weftSet = false → answeredQuietly s m (.weftId m) 0 fun t => t.dev.weftId = a)

/-! ### Steps that no word encodes: the weft, bring-up -/

namespace Sys2Proof.Claims

/-- A flit for this device, which is not in recovery, from one that has not been declared unreachable (R390, R391). -/
def Heard (s : State) (f : Flit) : Prop := f.dst = s.dev.weftId ∧ s.dev.recovery = false ∧ f.src ∉ s.dev.unreachable

/-- Responses go out at once: their lane is not paused, and nothing waits on it (R389). -/
def Answers (s : State) : Prop := s.laneOpen 1 = true ∧ ∀ e ∈ s.dev.weftHeld, e.2.vl ≠ 1

/-- One flit leaves, a response to another on lane 1, that begins with a status. -/
def responds (s t : State) (f : Flit) (type status : Nat) : Prop :=
  ∃ g : Flit, t.dev.weftOut = s.dev.weftOut ++ [g] ∧ g.dst = f.src ∧ g.src = s.dev.weftId ∧ g.vl = 1 ∧ g.type = type
    ∧ g.xid = f.xid % 2 ^ 20 ∧ g.word 0 = status

/-- R87, R90, R101, R388, R389: what another device asks of this one's memory: a read, a write and an atomic are performed and
answered, or refused and counted; where the home die or the memory's own is lost nothing answers (R91). The payload's layout is the model's own (log 30). -/
def weftRequests : Prop :=
  ∀ (s : State) (f : Flit), Heard s f → Answers s → s.dev.vague = [] → s.farCanonical = true →
    (s.weftReaches f = false → exec (.weftRead f) s = .next s ∧ exec (.weftWrite f) s = .next s ∧ exec (.weftAtomic f) s = .next s)
    ∧ (s.weftReaches f = true →
    (f.type = 0 → s.weftMay f .read = true → ∃ t bs, exec (.weftRead f) s = .next t ∧ responds s t f 1 0 ∧ granuleRead s t f.dpa bs
      ∧ ∀ g ∈ t.dev.weftOut.drop s.dev.weftOut.length, g.payload.drop 8 = bs)
    ∧ (f.type = 0 → s.weftMay f .read = false → ∃ t, exec (.weftRead f) s = .next t ∧ responds s t f 1 16
      ∧ t.dev.refused = s.dev.refused + 1 ∧ t.mem = s.mem)
    ∧ (f.type = 2 → s.weftMay f .write = true →
      ∃ t, exec (.weftWrite f) s = .next t ∧ responds s t f 3 0
        ∧ (∀ i, i < 32 → f.mask.testBit i = true → t.mem.read (f.dpa + i) = f.payload.getD (32 + i) 0)
        ∧ (∀ a, a / 32 ≠ f.dpa / 32 → t.mem.read a = s.mem.read a)
        ∧ ((∀ a, (∀ i, i < 32 → f.mask.testBit i = true → a ≠ f.dpa + i) → t.mem.read a = s.mem.read a)
          ∨ ∀ i, i < 32 → f.mask.testBit i = false → t.mem.read (f.dpa + i) = 0))
    ∧ (f.type = 2 → s.weftMay f .write = false → ∃ t, exec (.weftWrite f) s = .next t ∧ responds s t f 3 16
      ∧ t.dev.refused = s.dev.refused + 1 ∧ t.mem = s.mem)
    ∧ (∀ lo, lo < 25 → f.type = 4 → s.weftMay f .atomic = true → f.opn < 8 → f.mask = 255 * 2 ^ lo →
      ∃ t old, exec (.weftAtomic f) s = .next t ∧ responds s t f 5 0 ∧ (old = leNat (s.mem.readAll (f.dpa + lo) 8) ∨ old = 0)
        ∧ (∀ i, i < 8 → t.mem.read (f.dpa + lo + i) = BitVec.ofNat 8 (amoNew f.opn old
            (leNat ((List.range 8).map fun j => f.payload.getD (32 + lo + j) 0)) / 256 ^ i))
        ∧ (∀ a, a / 32 ≠ f.dpa / 32 → t.mem.read a = s.mem.read a)
        ∧ ((∀ a, (∀ i, i < 8 → a ≠ f.dpa + lo + i) → t.mem.read a = s.mem.read a)
          ∨ (old = 0 ∧ ∀ j, j < 32 → (∀ i, i < 8 → j ≠ lo + i) → t.mem.read (f.dpa + j) = 0)))
    ∧ (f.type = 4 → s.weftMay f .atomic = false → ∃ t, exec (.weftAtomic f) s = .next t ∧ responds s t f 5 16
      ∧ t.dev.refused = s.dev.refused + 1 ∧ t.mem = s.mem))

/-- A response for the focus core's one waiting request, which a command of its store or load queue made. -/
def Awaited (s : State) (f : Flit) (r : Remote) (x : Cmd) : Prop :=
  Heard s f ∧ s.dev.weftWait = [r] ∧ r.xid = f.xid ∧ r.dst = f.src ∧ r.place = s.core.place
    ∧ r.place < 768
    ∧ (s.core.queue r.queue).cmds = [x] ∧ x.idx = r.idx ∧ x.issue = r.issue ∧ s.core.wp = [] ∧ r.item = 0 ∧ x.todo = [0]

/-- R90, R101, R107, R389: responses reach the command that waits for them; one that refuses leaves a refusal of kind
16. -/
def weftResponses : Prop :=
  ∀ (s : State) (f : Flit) (r : Remote) (x : Cmd) (xa a w op : Nat) (v : Word), Awaited s f r x → f.word 0 = 0 →
    (f.type = 1 → r.queue = 4 → x.op = .fld xa a w → a % 32 + 2 ^ w ≤ 32 → x.got = [] →
      ∃ t, exec (.weftReadData f) s = .next t ∧ t.dev.weftWait = [] ∧ t.mem = s.mem
        ∧ (t.core.queue 4).cmds = [{ x with
            todo := [], got := (List.range (2 ^ w)).map fun i => (i, f.payload.getD (8 + a % 32 + i) 0) }])
    ∧ (f.type = 3 → r.queue = 5 → x.op = .fst a w v →
      ∃ t, exec (.weftWriteAcknowledge f) s = .next t ∧ t.dev.weftWait = [] ∧ t.mem = s.mem
        ∧ (t.core.queue 5).cmds = [{ x with todo := [] }])
    ∧ (f.type = 5 → r.queue = 5 → x.op = .amo op xa a v → xa ≠ 0 →
      ∃ t, exec (.weftAtomicResult f) s = .next t ∧ t.dev.weftWait = [] ∧ t.mem = s.mem
        ∧ (t.core.queue 5).cmds = [{ x with
            todo := [], got := (List.range 8).map fun i => (i, f.payload.getD (8 + i) 0) }])

/-- R96, R97, R102, R388: another device lends a region of its memory to a host agent of this one, and takes it back. -/
def weftOwnership : Prop :=
  ∀ (s : State) (f : Flit), Heard s f → Answers s → f.type = 6 → f.vl ≠ 1 → f.word 3 = 0 →
    let rg := f.word 1
    let aqi := f.word 2 % 2 ^ 20
    let q := s.dev.aqiAt aqi
    roOk rg = true → q.bound = true → f.word 2 / 2 ^ 48 = 0 →
    ((∀ r ∈ s.dev.regions, r.ctx = q.ctx → r.base + 2 ^ r.sz ≤ roBase rg ∨ roBase rg + 2 ^ roSz rg ≤ r.base) →
      ∃ t r, exec (.weftOwnership f) s = .next t ∧ responds s t f 6 0 ∧ t.dev.regions = s.dev.regions ++ [r]
        ∧ r.base = roBase rg ∧ r.sz = roSz rg ∧ r.ctx = q.ctx ∧ r.owner = s.hostAgent aqi ∧ r.shares = 0 ∧ t.mem = s.mem)
    ∧ ((∃ r ∈ s.dev.regions, r.ctx = q.ctx ∧ r.base < roBase rg + 2 ^ roSz rg ∧ roBase rg < r.base + 2 ^ r.sz) →
      ∃ t, exec (.weftOwnership f) s = .next t ∧ responds s t f 6 17 ∧ t.dev.regions = s.dev.regions ∧ t.mem = s.mem)

/-- R308, R312, R388, R389: arrivals of other devices, pauses, after which no flit waits whose lane may send, flits that are discarded. A flit of loom control has no effect on
anything that the state holds (log 30). -/
def weftControl : Prop :=
  ∀ (s : State) (f : Flit),
    (Heard s f → f.type = 7 → ∃ t, exec (.weftBarrier f) s = .next t
      ∧ t = { s with dev := { s.dev with barriers := t.dev.barriers } }
      ∧ t.dev.barriers = s.dev.barriers.map fun b =>
          if b.desc.toNat / 2 ^ 88 % 2 ^ 8 ≠ 0 ∧ b.desc.toNat / 2 ^ 96 % 2 ^ 12 = f.word 0 % 2 ^ 48
            ∧ ((s.launchAt b.ltag).any fun l => l.ctx == f.word 0 / 2 ^ 48) = true then { b with ext := b.ext + 1 } else b)
    ∧ (Heard s f → f.type = 8 → smapWf 0 s.dev.paused = true → ∃ t, exec (.weftPause f) s = .next t
      ∧ (s.dev.weftHeld = [] → t = { s with dev := { s.dev with paused := t.dev.paused } })
      ∧ t.mem = s.mem ∧ t.core = s.core ∧ (∀ e ∈ t.dev.weftHeld, e ∈ s.dev.weftHeld ∧ t.laneOpen e.2.vl = false)
      ∧ ∀ v, look 0 t.dev.paused v = if v < 8 then (f.payload.getD v 0).toNat else look 0 s.dev.paused v)
    ∧ (∀ lane, smapWf 0 s.dev.paused = true → ∃ t, exec (.weftPauseExpiry lane) s = .next t
      ∧ ∀ v, look 0 t.dev.paused v = if v = lane then 0 else look 0 s.dev.paused v)
    ∧ exec (.weftLoomControl f) s = .next s
    ∧ (f.type ≥ 10 ∨ f.dst ≥ 192 → exec (.weftFlitDiscard f) s = .next { s with dev := { s.dev with discards := s.dev.discards + 1 } })

end Sys2Proof.Claims

/-- R90, R96, R97, R101, R102, R107, R312, R388, R389: flits that arrive: accesses of another device, responses, ownership,
barriers, pauses, discards. What a payload looks like is the model's own (log 30). -/
def Obligations.WeftFlits : Prop := weftRequests ∧ weftResponses ∧ weftOwnership ∧ weftControl

/-- R108, R334, R391: the stages of bring-up, in order; recovery where a signature fails; a host reset unbinds its AQI and
drops its nodes that have not started; the debugger halts a team and lets it go. That no region's owner is the host agent after its
reset is the model's choice: it gives the lost agent another name (log 50). -/
def Obligations.BringUpResetAndDebug : Prop :=
  ∀ (s : State) (failing : List Nat) (aqi : Nat) (id : TeamId),
    (∃ t, exec (.deviceReset true) s = .next t ∧ t.dev.stage = 1 ∧ t.dev.recovery = false ∧ t.mem = s.mem ∧ t.core = State.reset.core
      ∧ t.others = State.reset.others ∧ t.teams = [] ∧ t.cycle = 0)
    ∧ (∃ t, exec (.deviceReset false) s = .next t ∧ t.dev.stage = 0 ∧ t.dev.recovery = true ∧ t.mem = s.mem)
    ∧ (s.dev.stage = 1 → s.dev.recovery = false →
      (∃ t, exec (.selvedgeFirmwareStage true) s = .next t ∧ t.dev.stage = 2 ∧ t.dev.recovery = false ∧ t.core = s.core)
      ∧ ∃ t, exec (.selvedgeFirmwareStage false) s = .next t ∧ t.dev.stage = 1 ∧ t.dev.recovery = true)
    ∧ (s.dev.stage = 2 → s.dev.recovery = false →
      exec (.loomSelfTest failing) s = .next { s with dev := { s.dev with
        stage := 3, fenced := failing.filter fun k => decide (k < 24) } })
    ∧ (s.dev.stage = 3 → s.dev.recovery = false →
      ∃ t, exec (.linkTraining failing) s = .next t ∧ t = { s with dev := { s.dev with
          stage := 4, lostDies := t.dev.lostDies, lostPorts := t.dev.lostPorts, cxlLost := t.dev.cxlLost
          weftSet := t.dev.weftSet } }
        ∧ (∀ k, k ∈ t.dev.lostDies ↔ k < 24 ∧ k ∈ failing) ∧ (∀ p, p ∈ t.dev.lostPorts ↔ p < 144 ∧ 25 + p ∈ failing)
        ∧ (t.dev.cxlLost = true ↔ 24 ∈ failing) ∧ (t.dev.weftSet = true ↔ ∃ p, p < 144 ∧ 25 + p ∉ failing))
    ∧ (s.dev.stage = 4 → s.dev.recovery = false → smapWf unboundAqi s.dev.aqis = true → smapWf 0 s.dev.pasids = true →
      ∃ t, exec .aqi0Enable s = .next t ∧ t.dev.stage = 5 ∧ (t.dev.aqiAt 0).bound = true ∧ (t.dev.aqiAt 0).ctx = 0
        ∧ (t.dev.aqiAt 0).dies = 2 ^ 24 - 1 ∧ (look 0 t.dev.pasids (t.dev.aqiAt 0).pasid).toNat % 2 ^ 12 = 1 ∧ t.mem = s.mem)
    ∧ (∀ k, k < 4 → s.dev.stage = k → exec .aqi0Enable s = .next s)
    ∧ ((s.dev.aqiAt aqi).bound = true → smapWf unboundAqi s.dev.aqis = true →
      ∃ t, exec (.hostReset aqi) s = .next t ∧ (t.dev.aqiAt aqi).bound = false ∧ (t.dev.aqiAt aqi).mgmt = []
        ∧ (∀ n ∈ t.dev.nodes, n.aqi = aqi → n.begun = true) ∧ (∀ r ∈ t.dev.regions, r.owner ≠ s.hostAgent aqi)
        ∧ (∀ r ∈ s.dev.regions, r.owner = s.hostAgent aqi → r.home ∉ s.dev.lostDies → ∃ r' ∈ t.dev.regions, r'.base = r.base ∧ r'.sz = r.sz ∧ r'.orphan = true)
        ∧ t.mem = s.mem)
    ∧ (∃ t, exec (.debuggerHalt id) s = .next t ∧ t = { s with teams := t.teams } ∧ ∀ tm, s.teamAt id = some tm →
        t.teamAt id = some { tm with halted := true })
    ∧ ∃ t, exec (.debuggerRelease id) s = .next t ∧ t = { s with teams := t.teams } ∧ ∀ tm, s.teamAt id = some tm →
        t.teamAt id = some { tm with halted := false }
end

