-- ==== Sys2Proof/Laws/Memory.lean ====
section
/-! SUPPORT. Sparse tables and far memory: reading after writing, and the canonical form that every write keeps. -/

namespace Sys2Proof.Machine

/-! ### Sparse tables -/

section
variable {α : Type} [DecidableEq α] {d : α}

/-- A bound below which no key lies may be lowered. -/
theorem wfFrom_mono {lo lo' : Nat} (h : lo' ≤ lo) {m : SMap α} (w : wfFrom d lo m = true) : wfFrom d lo' m = true := by
  cases m with
  | nil => rfl
  | cons e m =>
    simp only [wfFrom, Bool.and_eq_true, decide_eq_true_eq] at w ⊢
    exact ⟨⟨Nat.le_trans h w.1.1, w.1.2⟩, w.2⟩

/-- A key below the bound of a table is not listed. -/
theorem look_low {lo n : Nat} {m : SMap α} (w : wfFrom d lo m = true) (h : n < lo) : look d m n = d := by
  cases m with
  | nil => rfl
  | cons e m =>
    simp only [wfFrom, Bool.and_eq_true, decide_eq_true_eq] at w
    have a := w.1.1
    simp only [look]
    rw [if_neg (by omega), if_pos (by omega)]

/-- A write at or above the bound keeps the canonical form. -/
theorem put_wfFrom {lo n : Nat} (x : α) {m : SMap α} (w : wfFrom d lo m = true) (h : lo ≤ n) : wfFrom d lo (put d m n x) = true := by
  induction m generalizing lo with
  | nil => by_cases e : x = d <;> simp [put, e, wfFrom, h]
  | cons p m ih =>
    obtain ⟨k, v⟩ := p
    simp only [wfFrom, Bool.and_eq_true, decide_eq_true_eq] at w
    obtain ⟨⟨a, b⟩, c⟩ := w
    simp only [put]
    split
    · by_cases e : x = d
      · simp [e, wfFrom, a, b, c]
      · rename_i l
        simp [e, wfFrom, h, b, c]
        omega
    · split
      · rename_i _ l
        subst l
        by_cases e : x = d
        · simpa [e] using wfFrom_mono (by omega) c
        · simp [e, wfFrom, h, c]
      · rename_i _ _
        have := ih c (by omega)
        simp [wfFrom, a, b, this]

/-- A write keeps the canonical form. -/
theorem put_wf (n : Nat) (x : α) {m : SMap α} (w : smapWf d m = true) : smapWf d (put d m n x) = true :=
  put_wfFrom x w (Nat.zero_le n)

/-- Reading a canonical table after a write: the value written, and elsewhere what stood there. -/
theorem look_put_from {lo n : Nat} (k : Nat) (x : α) {m : SMap α} (w : wfFrom d lo m = true) :
    look d (put d m n x) k = if k = n then x else look d m k := by
  induction m generalizing lo with
  | nil =>
    by_cases e : x = d
    · simp [put, e, look]
    · simp only [put, e, if_false, look]
      by_cases h : k = n <;> simp [h]
  | cons p m ih =>
    obtain ⟨j, v⟩ := p
    simp only [wfFrom, Bool.and_eq_true, decide_eq_true_eq] at w
    obtain ⟨⟨-, b⟩, c⟩ := w
    simp only [put]
    split
    · rename_i l
      by_cases e : x = d
      · simp only [e, if_true, look]
        by_cases h : k = n
        · simp [h, l]; omega
        · simp [h]
      · simp only [e, if_false, look]
        by_cases h : k = n
        · simp [h]
        · by_cases h' : k < n
          · simp [h, h', show ¬k = j by omega, show k < j by omega]
          · simp [h, h']
    · split
      · rename_i _ l
        subst l
        by_cases e : x = d
        · simp only [e, if_true, look]
          by_cases h : k = n
          · subst h; simpa using look_low c (by omega)
          · by_cases h' : k < n
            · simp [h, h', look_low c (show k < n + 1 by omega)]
            · simp [h, h']
        · simp only [e, if_false, look]
          by_cases h : k = n <;> simp [h]
      · simp only [look, ih c]
        by_cases h : k = n
        · subst h; rw [if_neg (by omega), if_neg (by omega), if_pos rfl, if_pos rfl]
        · simp [h]

theorem look_put {m : SMap α} (w : smapWf d m = true) (n k : Nat) (x : α) :
    look d (put d m n x) k = if k = n then x else look d m k := look_put_from k x w

theorem look_put_self {m : SMap α} (w : smapWf d m = true) (n : Nat) (x : α) : look d (put d m n x) n = x := by
  rw [look_put w, if_pos rfl]

theorem look_put_ne {m : SMap α} (w : smapWf d m = true) {n k : Nat} (x : α) (h : k ≠ n) : look d (put d m n x) k = look d m k := by
  rw [look_put w, if_neg h]

end

/-! ### Far memory -/

/-- Reset lists no byte, and that is the canonical form. -/
theorem reset_mem_wf : State.reset.mem.wf = true := rfl

theorem Memory.write_wf {m : Memory} (w : m.wf = true) (a : Nat) (b : Byte) : (m.write a b).wf = true := put_wf a b w

theorem Memory.read_write {m : Memory} (w : m.wf = true) (a k : Nat) (b : Byte) :
    (m.write a b).read k = if k = a then b else m.read k := look_put w a k b

theorem Memory.writeAll_wf {m : Memory} (w : m.wf = true) (a : Nat) (bs : List Byte) : (m.writeAll a bs).wf = true := by
  induction bs generalizing m a with
  | nil => exact w
  | cons b bs ih => exact ih (Memory.write_wf w a b) (a + 1)

/-- Reading after a run of bytes: inside the run its bytes, outside it what stood there. -/
theorem Memory.read_writeAll {m : Memory} (w : m.wf = true) (a k : Nat) (bs : List Byte) :
    (m.writeAll a bs).read k = if a ≤ k ∧ k < a + bs.length then bs.getD (k - a) 0 else m.read k := by
  induction bs generalizing m a with
  | nil => rw [if_neg (by simp)]; rfl
  | cons b bs ih =>
    rw [Memory.writeAll, ih (Memory.write_wf w a b), Memory.read_write w]
    simp only [List.length_cons]
    by_cases h : a + 1 ≤ k ∧ k < a + 1 + bs.length
    · rw [if_pos h, if_pos ⟨by omega, by omega⟩]
      obtain ⟨j, hj⟩ : ∃ j, k - a = j + 1 := ⟨k - a - 1, by omega⟩
      rw [hj, show k - (a + 1) = j by omega]; rfl
    · rw [if_neg h]
      by_cases e : k = a
      · subst e; rw [if_pos rfl, if_pos ⟨Nat.le_refl _, by omega⟩, Nat.sub_self]; rfl
      · rw [if_neg e, if_neg (by omega)]

/-! ### The tables of a core -/

/-- A landed result keeps the canonical form of every table. -/
theorem Core.store_canonical {c : Core} (h : c.canonical = true) (d : Dest) (x : Nat) : (c.store d x).canonical = true := by
  simp only [Core.canonical, Bool.and_eq_true] at h ⊢
  obtain ⟨⟨⟨⟨hs, hp⟩, hv⟩, hl⟩, hc⟩ := h
  cases d with
  | s n =>
    simp only [Core.store]
    split
    · exact ⟨⟨⟨⟨hs, hp⟩, hv⟩, hl⟩, hc⟩
    · exact ⟨⟨⟨⟨put_wf _ _ hs, hp⟩, hv⟩, hl⟩, hc⟩
  | p n =>
    simp only [Core.store]
    split
    · exact ⟨⟨⟨⟨hs, hp⟩, hv⟩, hl⟩, hc⟩
    · exact ⟨⟨⟨⟨hs, put_wf _ _ hp⟩, hv⟩, hl⟩, hc⟩
  | v n => exact ⟨⟨⟨⟨hs, hp⟩, put_wf _ _ hv⟩, hl⟩, hc⟩
  | amaxUp m => exact ⟨⟨⟨⟨hs, hp⟩, hv⟩, hl⟩, put_wf _ _ hc⟩
  | csr sel => exact ⟨⟨⟨⟨hs, hp⟩, hv⟩, hl⟩, put_wf _ _ hc⟩
  | q n => exact ⟨⟨⟨⟨hs, hp⟩, hv⟩, hl⟩, hc⟩
  | nest n => exact ⟨⟨⟨⟨hs, hp⟩, hv⟩, hl⟩, hc⟩
  | gang => exact ⟨⟨⟨⟨hs, hp⟩, hv⟩, hl⟩, hc⟩
  | gcfg => exact ⟨⟨⟨⟨hs, hp⟩, hv⟩, hl⟩, hc⟩

/-- A core at reset is canonical. -/
theorem Core.reset_canonical (place : Nat) : (Core.reset place).canonical = true := by
  have e : (Core.reset place).canonical = (Core.reset 0).canonical := rfl
  rw [e]; decide +kernel

end Sys2Proof.Machine
end

