-- ==== Sys2Proof/Laws/State.lean ====
section
/-! SUPPORT. What each update of the state leaves in each field: one lemma for a field and an update, so that no proof
unfolds a record. -/

namespace Sys2Proof.Machine

/-! ### Updates of one part of the state -/

@[simp] theorem State.onCore_core (g : Core → Core) (s : State) : (s.onCore g).core = g s.core := rfl
@[simp] theorem State.onCore_others (g : Core → Core) (s : State) : (s.onCore g).others = s.others := rfl
@[simp] theorem State.onCore_teams (g : Core → Core) (s : State) : (s.onCore g).teams = s.teams := rfl
@[simp] theorem State.onCore_dev (g : Core → Core) (s : State) : (s.onCore g).dev = s.dev := rfl
@[simp] theorem State.onCore_mem (g : Core → Core) (s : State) : (s.onCore g).mem = s.mem := rfl
@[simp] theorem State.onCore_cycle (g : Core → Core) (s : State) : (s.onCore g).cycle = s.cycle := rfl
@[simp] theorem State.onCore_turn (g : Core → Core) (s : State) : (s.onCore g).turn = s.turn := rfl
@[simp] theorem State.onCore_phase (g : Core → Core) (s : State) : (s.onCore g).phase = s.phase := rfl
@[simp] theorem State.onCore_trapped (g : Core → Core) (s : State) : (s.onCore g).trapped = s.trapped := rfl
@[simp] theorem State.onCore_inputs (g : Core → Core) (s : State) : (s.onCore g).inputs = s.inputs := rfl
@[simp] theorem State.onCore_fresh (g : Core → Core) (s : State) : (s.onCore g).fresh = s.fresh := rfl
@[simp] theorem State.onDev_core (g : Device → Device) (s : State) : (s.onDev g).core = s.core := rfl
@[simp] theorem State.onDev_others (g : Device → Device) (s : State) : (s.onDev g).others = s.others := rfl
@[simp] theorem State.onDev_teams (g : Device → Device) (s : State) : (s.onDev g).teams = s.teams := rfl
@[simp] theorem State.onDev_dev (g : Device → Device) (s : State) : (s.onDev g).dev = g s.dev := rfl
@[simp] theorem State.onDev_mem (g : Device → Device) (s : State) : (s.onDev g).mem = s.mem := rfl
@[simp] theorem State.onDev_cycle (g : Device → Device) (s : State) : (s.onDev g).cycle = s.cycle := rfl
@[simp] theorem State.onDev_turn (g : Device → Device) (s : State) : (s.onDev g).turn = s.turn := rfl
@[simp] theorem State.onDev_phase (g : Device → Device) (s : State) : (s.onDev g).phase = s.phase := rfl
@[simp] theorem State.onDev_trapped (g : Device → Device) (s : State) : (s.onDev g).trapped = s.trapped := rfl
@[simp] theorem State.onDev_inputs (g : Device → Device) (s : State) : (s.onDev g).inputs = s.inputs := rfl
@[simp] theorem State.onDev_fresh (g : Device → Device) (s : State) : (s.onDev g).fresh = s.fresh := rfl
@[simp] theorem State.onCores_core (g : Core → Core) (s : State) : (s.onCores g).core = g s.core := rfl
@[simp] theorem State.onCores_others (g : Core → Core) (s : State) : (s.onCores g).others = s.others.map g := rfl
@[simp] theorem State.onCores_teams (g : Core → Core) (s : State) : (s.onCores g).teams = s.teams := rfl
@[simp] theorem State.onCores_dev (g : Core → Core) (s : State) : (s.onCores g).dev = s.dev := rfl
@[simp] theorem State.onCores_mem (g : Core → Core) (s : State) : (s.onCores g).mem = s.mem := rfl
@[simp] theorem State.onCores_cycle (g : Core → Core) (s : State) : (s.onCores g).cycle = s.cycle := rfl
@[simp] theorem State.onCores_turn (g : Core → Core) (s : State) : (s.onCores g).turn = s.turn := rfl
@[simp] theorem State.onCores_phase (g : Core → Core) (s : State) : (s.onCores g).phase = s.phase := rfl
@[simp] theorem State.onCores_trapped (g : Core → Core) (s : State) : (s.onCores g).trapped = s.trapped := rfl
@[simp] theorem State.onCores_inputs (g : Core → Core) (s : State) : (s.onCores g).inputs = s.inputs := rfl
@[simp] theorem State.onCores_fresh (g : Core → Core) (s : State) : (s.onCores g).fresh = s.fresh := rfl
@[simp] theorem State.onTeam_core (id : TeamId) (g : Team → Team) (s : State) : (s.onTeam id g).core = s.core := rfl
@[simp] theorem State.onTeam_others (id : TeamId) (g : Team → Team) (s : State) : (s.onTeam id g).others = s.others := rfl
@[simp] theorem State.onTeam_teams (id : TeamId) (g : Team → Team) (s : State) : (s.onTeam id g).teams = s.teams.map fun t => if t.id = id then g t else t := rfl
@[simp] theorem State.onTeam_dev (id : TeamId) (g : Team → Team) (s : State) : (s.onTeam id g).dev = s.dev := rfl
@[simp] theorem State.onTeam_mem (id : TeamId) (g : Team → Team) (s : State) : (s.onTeam id g).mem = s.mem := rfl
@[simp] theorem State.onTeam_cycle (id : TeamId) (g : Team → Team) (s : State) : (s.onTeam id g).cycle = s.cycle := rfl
@[simp] theorem State.onTeam_turn (id : TeamId) (g : Team → Team) (s : State) : (s.onTeam id g).turn = s.turn := rfl
@[simp] theorem State.onTeam_phase (id : TeamId) (g : Team → Team) (s : State) : (s.onTeam id g).phase = s.phase := rfl
@[simp] theorem State.onTeam_trapped (id : TeamId) (g : Team → Team) (s : State) : (s.onTeam id g).trapped = s.trapped := rfl
@[simp] theorem State.onTeam_inputs (id : TeamId) (g : Team → Team) (s : State) : (s.onTeam id g).inputs = s.inputs := rfl
@[simp] theorem State.onTeam_fresh (id : TeamId) (g : Team → Team) (s : State) : (s.onTeam id g).fresh = s.fresh := rfl

theorem State.onMyTeam_teams_only (g : Team → Team) (s : State) : s.onMyTeam g = { s with teams := (s.onMyTeam g).teams } := by
  unfold State.onMyTeam; split <;> rfl

@[simp] theorem State.onMyTeam_core (g : Team → Team) (s : State) : (s.onMyTeam g).core = s.core := by
  rw [State.onMyTeam_teams_only]
@[simp] theorem State.onMyTeam_others (g : Team → Team) (s : State) : (s.onMyTeam g).others = s.others := by
  rw [State.onMyTeam_teams_only]
@[simp] theorem State.onMyTeam_dev (g : Team → Team) (s : State) : (s.onMyTeam g).dev = s.dev := by
  rw [State.onMyTeam_teams_only]
@[simp] theorem State.onMyTeam_mem (g : Team → Team) (s : State) : (s.onMyTeam g).mem = s.mem := by
  rw [State.onMyTeam_teams_only]
@[simp] theorem State.onMyTeam_cycle (g : Team → Team) (s : State) : (s.onMyTeam g).cycle = s.cycle := by
  rw [State.onMyTeam_teams_only]
@[simp] theorem State.onMyTeam_turn (g : Team → Team) (s : State) : (s.onMyTeam g).turn = s.turn := by
  rw [State.onMyTeam_teams_only]
@[simp] theorem State.onMyTeam_phase (g : Team → Team) (s : State) : (s.onMyTeam g).phase = s.phase := by
  rw [State.onMyTeam_teams_only]
@[simp] theorem State.onMyTeam_trapped (g : Team → Team) (s : State) : (s.onMyTeam g).trapped = s.trapped := by
  rw [State.onMyTeam_teams_only]
@[simp] theorem State.onMyTeam_inputs (g : Team → Team) (s : State) : (s.onMyTeam g).inputs = s.inputs := by
  rw [State.onMyTeam_teams_only]
@[simp] theorem State.onMyTeam_fresh (g : Team → Team) (s : State) : (s.onMyTeam g).fresh = s.fresh := by
  rw [State.onMyTeam_teams_only]

/-! ### Operations that write the focus core alone -/

@[simp] theorem State.advance_others (s : State) (i : Issue) (stay : Bool) : (s.advance i stay).others = s.others := rfl
@[simp] theorem State.advance_teams (s : State) (i : Issue) (stay : Bool) : (s.advance i stay).teams = s.teams := rfl
@[simp] theorem State.advance_dev (s : State) (i : Issue) (stay : Bool) : (s.advance i stay).dev = s.dev := rfl
@[simp] theorem State.advance_mem (s : State) (i : Issue) (stay : Bool) : (s.advance i stay).mem = s.mem := rfl
@[simp] theorem State.advance_cycle (s : State) (i : Issue) (stay : Bool) : (s.advance i stay).cycle = s.cycle := rfl
@[simp] theorem State.advance_turn (s : State) (i : Issue) (stay : Bool) : (s.advance i stay).turn = s.turn := rfl
@[simp] theorem State.advance_phase (s : State) (i : Issue) (stay : Bool) : (s.advance i stay).phase = s.phase := rfl
@[simp] theorem State.advance_trapped (s : State) (i : Issue) (stay : Bool) : (s.advance i stay).trapped = s.trapped := rfl
@[simp] theorem State.advance_inputs (s : State) (i : Issue) (stay : Bool) : (s.advance i stay).inputs = s.inputs := rfl
@[simp] theorem State.advance_fresh (s : State) (i : Issue) (stay : Bool) : (s.advance i stay).fresh = s.fresh := rfl
@[simp] theorem State.usePorts_others (s : State) (us : List PortUse) : (s.usePorts us).others = s.others := rfl
@[simp] theorem State.usePorts_teams (s : State) (us : List PortUse) : (s.usePorts us).teams = s.teams := rfl
@[simp] theorem State.usePorts_dev (s : State) (us : List PortUse) : (s.usePorts us).dev = s.dev := rfl
@[simp] theorem State.usePorts_mem (s : State) (us : List PortUse) : (s.usePorts us).mem = s.mem := rfl
@[simp] theorem State.usePorts_cycle (s : State) (us : List PortUse) : (s.usePorts us).cycle = s.cycle := rfl
@[simp] theorem State.usePorts_turn (s : State) (us : List PortUse) : (s.usePorts us).turn = s.turn := rfl
@[simp] theorem State.usePorts_phase (s : State) (us : List PortUse) : (s.usePorts us).phase = s.phase := rfl
@[simp] theorem State.usePorts_trapped (s : State) (us : List PortUse) : (s.usePorts us).trapped = s.trapped := rfl
@[simp] theorem State.usePorts_inputs (s : State) (us : List PortUse) : (s.usePorts us).inputs = s.inputs := rfl
@[simp] theorem State.usePorts_fresh (s : State) (us : List PortUse) : (s.usePorts us).fresh = s.fresh := rfl
@[simp] theorem State.push_others (s : State) (p : Push) : (s.push p).others = s.others := rfl
@[simp] theorem State.push_teams (s : State) (p : Push) : (s.push p).teams = s.teams := rfl
@[simp] theorem State.push_dev (s : State) (p : Push) : (s.push p).dev = s.dev := rfl
@[simp] theorem State.push_mem (s : State) (p : Push) : (s.push p).mem = s.mem := rfl
@[simp] theorem State.push_cycle (s : State) (p : Push) : (s.push p).cycle = s.cycle := rfl
@[simp] theorem State.push_turn (s : State) (p : Push) : (s.push p).turn = s.turn := rfl
@[simp] theorem State.push_phase (s : State) (p : Push) : (s.push p).phase = s.phase := rfl
@[simp] theorem State.push_trapped (s : State) (p : Push) : (s.push p).trapped = s.trapped := rfl
@[simp] theorem State.push_inputs (s : State) (p : Push) : (s.push p).inputs = s.inputs := rfl
@[simp] theorem State.push_fresh (s : State) (p : Push) : (s.push p).fresh = s.fresh := rfl
@[simp] theorem State.pushLater_others (s : State) (cls : Nat) (p : Push) : (s.pushLater cls p).others = s.others := rfl
@[simp] theorem State.pushLater_teams (s : State) (cls : Nat) (p : Push) : (s.pushLater cls p).teams = s.teams := rfl
@[simp] theorem State.pushLater_dev (s : State) (cls : Nat) (p : Push) : (s.pushLater cls p).dev = s.dev := rfl
@[simp] theorem State.pushLater_mem (s : State) (cls : Nat) (p : Push) : (s.pushLater cls p).mem = s.mem := rfl
@[simp] theorem State.pushLater_cycle (s : State) (cls : Nat) (p : Push) : (s.pushLater cls p).cycle = s.cycle := rfl
@[simp] theorem State.pushLater_turn (s : State) (cls : Nat) (p : Push) : (s.pushLater cls p).turn = s.turn := rfl
@[simp] theorem State.pushLater_phase (s : State) (cls : Nat) (p : Push) : (s.pushLater cls p).phase = s.phase := rfl
@[simp] theorem State.pushLater_trapped (s : State) (cls : Nat) (p : Push) : (s.pushLater cls p).trapped = s.trapped := rfl
@[simp] theorem State.pushLater_inputs (s : State) (cls : Nat) (p : Push) : (s.pushLater cls p).inputs = s.inputs := rfl
@[simp] theorem State.pushLater_fresh (s : State) (cls : Nat) (p : Push) : (s.pushLater cls p).fresh = s.fresh := rfl
@[simp] theorem State.raiseLater_others (s : State) (t : Trap) : (s.raiseLater t).others = s.others := rfl
@[simp] theorem State.raiseLater_teams (s : State) (t : Trap) : (s.raiseLater t).teams = s.teams := rfl
@[simp] theorem State.raiseLater_dev (s : State) (t : Trap) : (s.raiseLater t).dev = s.dev := rfl
@[simp] theorem State.raiseLater_mem (s : State) (t : Trap) : (s.raiseLater t).mem = s.mem := rfl
@[simp] theorem State.raiseLater_cycle (s : State) (t : Trap) : (s.raiseLater t).cycle = s.cycle := rfl
@[simp] theorem State.raiseLater_turn (s : State) (t : Trap) : (s.raiseLater t).turn = s.turn := rfl
@[simp] theorem State.raiseLater_phase (s : State) (t : Trap) : (s.raiseLater t).phase = s.phase := rfl
@[simp] theorem State.raiseLater_trapped (s : State) (t : Trap) : (s.raiseLater t).trapped = s.trapped := rfl
@[simp] theorem State.raiseLater_inputs (s : State) (t : Trap) : (s.raiseLater t).inputs = s.inputs := rfl
@[simp] theorem State.raiseLater_fresh (s : State) (t : Trap) : (s.raiseLater t).fresh = s.fresh := rfl
@[simp] theorem State.raiseAfter_others (s : State) (t : Trap) : (s.raiseAfter t).others = s.others := rfl
@[simp] theorem State.raiseAfter_teams (s : State) (t : Trap) : (s.raiseAfter t).teams = s.teams := rfl
@[simp] theorem State.raiseAfter_dev (s : State) (t : Trap) : (s.raiseAfter t).dev = s.dev := rfl
@[simp] theorem State.raiseAfter_mem (s : State) (t : Trap) : (s.raiseAfter t).mem = s.mem := rfl
@[simp] theorem State.raiseAfter_cycle (s : State) (t : Trap) : (s.raiseAfter t).cycle = s.cycle := rfl
@[simp] theorem State.raiseAfter_turn (s : State) (t : Trap) : (s.raiseAfter t).turn = s.turn := rfl
@[simp] theorem State.raiseAfter_phase (s : State) (t : Trap) : (s.raiseAfter t).phase = s.phase := rfl
@[simp] theorem State.raiseAfter_trapped (s : State) (t : Trap) : (s.raiseAfter t).trapped = s.trapped := rfl
@[simp] theorem State.raiseAfter_inputs (s : State) (t : Trap) : (s.raiseAfter t).inputs = s.inputs := rfl
@[simp] theorem State.raiseAfter_fresh (s : State) (t : Trap) : (s.raiseAfter t).fresh = s.fresh := rfl
@[simp] theorem State.ring_others (s : State) (kind src data : Nat) : (s.ring kind src data).others = s.others := rfl
@[simp] theorem State.ring_teams (s : State) (kind src data : Nat) : (s.ring kind src data).teams = s.teams := rfl
@[simp] theorem State.ring_dev (s : State) (kind src data : Nat) : (s.ring kind src data).dev = s.dev := rfl
@[simp] theorem State.ring_mem (s : State) (kind src data : Nat) : (s.ring kind src data).mem = s.mem := rfl
@[simp] theorem State.ring_cycle (s : State) (kind src data : Nat) : (s.ring kind src data).cycle = s.cycle := rfl
@[simp] theorem State.ring_turn (s : State) (kind src data : Nat) : (s.ring kind src data).turn = s.turn := rfl
@[simp] theorem State.ring_phase (s : State) (kind src data : Nat) : (s.ring kind src data).phase = s.phase := rfl
@[simp] theorem State.ring_trapped (s : State) (kind src data : Nat) : (s.ring kind src data).trapped = s.trapped := rfl
@[simp] theorem State.ring_inputs (s : State) (kind src data : Nat) : (s.ring kind src data).inputs = s.inputs := rfl
@[simp] theorem State.ring_fresh (s : State) (kind src data : Nat) : (s.ring kind src data).fresh = s.fresh := rfl
@[simp] theorem State.writeLsAt_others (s : State) (due : Nat) (ws : List (Nat × Byte)) : (s.writeLsAt due ws).others = s.others := rfl
@[simp] theorem State.writeLsAt_teams (s : State) (due : Nat) (ws : List (Nat × Byte)) : (s.writeLsAt due ws).teams = s.teams := rfl
@[simp] theorem State.writeLsAt_dev (s : State) (due : Nat) (ws : List (Nat × Byte)) : (s.writeLsAt due ws).dev = s.dev := rfl
@[simp] theorem State.writeLsAt_mem (s : State) (due : Nat) (ws : List (Nat × Byte)) : (s.writeLsAt due ws).mem = s.mem := rfl
@[simp] theorem State.writeLsAt_cycle (s : State) (due : Nat) (ws : List (Nat × Byte)) : (s.writeLsAt due ws).cycle = s.cycle := rfl
@[simp] theorem State.writeLsAt_turn (s : State) (due : Nat) (ws : List (Nat × Byte)) : (s.writeLsAt due ws).turn = s.turn := rfl
@[simp] theorem State.writeLsAt_phase (s : State) (due : Nat) (ws : List (Nat × Byte)) : (s.writeLsAt due ws).phase = s.phase := rfl
@[simp] theorem State.writeLsAt_trapped (s : State) (due : Nat) (ws : List (Nat × Byte)) : (s.writeLsAt due ws).trapped = s.trapped := rfl
@[simp] theorem State.writeLsAt_inputs (s : State) (due : Nat) (ws : List (Nat × Byte)) : (s.writeLsAt due ws).inputs = s.inputs := rfl
@[simp] theorem State.writeLsAt_fresh (s : State) (due : Nat) (ws : List (Nat × Byte)) : (s.writeLsAt due ws).fresh = s.fresh := rfl
@[simp] theorem State.landAt_others (s : State) (d : Dest) (x due tag : Nat) : (s.landAt d x due tag).others = s.others := by
  unfold State.landAt; split <;> rfl
@[simp] theorem State.landAt_teams (s : State) (d : Dest) (x due tag : Nat) : (s.landAt d x due tag).teams = s.teams := by
  unfold State.landAt; split <;> rfl
@[simp] theorem State.landAt_dev (s : State) (d : Dest) (x due tag : Nat) : (s.landAt d x due tag).dev = s.dev := by
  unfold State.landAt; split <;> rfl
@[simp] theorem State.landAt_mem (s : State) (d : Dest) (x due tag : Nat) : (s.landAt d x due tag).mem = s.mem := by
  unfold State.landAt; split <;> rfl
@[simp] theorem State.landAt_cycle (s : State) (d : Dest) (x due tag : Nat) : (s.landAt d x due tag).cycle = s.cycle := by
  unfold State.landAt; split <;> rfl
@[simp] theorem State.landAt_turn (s : State) (d : Dest) (x due tag : Nat) : (s.landAt d x due tag).turn = s.turn := by
  unfold State.landAt; split <;> rfl
@[simp] theorem State.landAt_phase (s : State) (d : Dest) (x due tag : Nat) : (s.landAt d x due tag).phase = s.phase := by
  unfold State.landAt; split <;> rfl
@[simp] theorem State.landAt_trapped (s : State) (d : Dest) (x due tag : Nat) : (s.landAt d x due tag).trapped = s.trapped := by
  unfold State.landAt; split <;> rfl
@[simp] theorem State.landAt_inputs (s : State) (d : Dest) (x due tag : Nat) : (s.landAt d x due tag).inputs = s.inputs := by
  unfold State.landAt; split <;> rfl
@[simp] theorem State.landAt_fresh (s : State) (d : Dest) (x due tag : Nat) : (s.landAt d x due tag).fresh = s.fresh := by
  unfold State.landAt; split <;> rfl
@[simp] theorem State.countAt_others (s : State) (tid sat ftz nan due : Nat) : (s.countAt tid sat ftz nan due).others = s.others := by
  unfold State.countAt; split <;> rfl
@[simp] theorem State.countAt_teams (s : State) (tid sat ftz nan due : Nat) : (s.countAt tid sat ftz nan due).teams = s.teams := by
  unfold State.countAt; split <;> rfl
@[simp] theorem State.countAt_dev (s : State) (tid sat ftz nan due : Nat) : (s.countAt tid sat ftz nan due).dev = s.dev := by
  unfold State.countAt; split <;> rfl
@[simp] theorem State.countAt_mem (s : State) (tid sat ftz nan due : Nat) : (s.countAt tid sat ftz nan due).mem = s.mem := by
  unfold State.countAt; split <;> rfl
@[simp] theorem State.countAt_cycle (s : State) (tid sat ftz nan due : Nat) : (s.countAt tid sat ftz nan due).cycle = s.cycle := by
  unfold State.countAt; split <;> rfl
@[simp] theorem State.countAt_turn (s : State) (tid sat ftz nan due : Nat) : (s.countAt tid sat ftz nan due).turn = s.turn := by
  unfold State.countAt; split <;> rfl
@[simp] theorem State.countAt_phase (s : State) (tid sat ftz nan due : Nat) : (s.countAt tid sat ftz nan due).phase = s.phase := by
  unfold State.countAt; split <;> rfl
@[simp] theorem State.countAt_trapped (s : State) (tid sat ftz nan due : Nat) : (s.countAt tid sat ftz nan due).trapped = s.trapped := by
  unfold State.countAt; split <;> rfl
@[simp] theorem State.countAt_inputs (s : State) (tid sat ftz nan due : Nat) : (s.countAt tid sat ftz nan due).inputs = s.inputs := by
  unfold State.countAt; split <;> rfl
@[simp] theorem State.countAt_fresh (s : State) (tid sat ftz nan due : Nat) : (s.countAt tid sat ftz nan due).fresh = s.fresh := by
  unfold State.countAt; split <;> rfl
@[simp] theorem State.land_others (s : State) (cls : Nat) (d : Dest) (x tag : Nat) : (s.land cls d x tag).others = s.others := State.landAt_others ..
@[simp] theorem State.landVAt_others (s : State) (due phys x tag : Nat) : (s.landVAt due phys x tag).others = s.others := State.landAt_others ..
@[simp] theorem State.landV_others (s : State) (cls phys x : Nat) : (s.landV cls phys x).others = s.others := State.landVAt_others ..
@[simp] theorem State.land_teams (s : State) (cls : Nat) (d : Dest) (x tag : Nat) : (s.land cls d x tag).teams = s.teams := State.landAt_teams ..
@[simp] theorem State.landVAt_teams (s : State) (due phys x tag : Nat) : (s.landVAt due phys x tag).teams = s.teams := State.landAt_teams ..
@[simp] theorem State.landV_teams (s : State) (cls phys x : Nat) : (s.landV cls phys x).teams = s.teams := State.landVAt_teams ..
@[simp] theorem State.land_dev (s : State) (cls : Nat) (d : Dest) (x tag : Nat) : (s.land cls d x tag).dev = s.dev := State.landAt_dev ..
@[simp] theorem State.landVAt_dev (s : State) (due phys x tag : Nat) : (s.landVAt due phys x tag).dev = s.dev := State.landAt_dev ..
@[simp] theorem State.landV_dev (s : State) (cls phys x : Nat) : (s.landV cls phys x).dev = s.dev := State.landVAt_dev ..
@[simp] theorem State.land_mem (s : State) (cls : Nat) (d : Dest) (x tag : Nat) : (s.land cls d x tag).mem = s.mem := State.landAt_mem ..
@[simp] theorem State.landVAt_mem (s : State) (due phys x tag : Nat) : (s.landVAt due phys x tag).mem = s.mem := State.landAt_mem ..
@[simp] theorem State.landV_mem (s : State) (cls phys x : Nat) : (s.landV cls phys x).mem = s.mem := State.landVAt_mem ..
@[simp] theorem State.land_cycle (s : State) (cls : Nat) (d : Dest) (x tag : Nat) : (s.land cls d x tag).cycle = s.cycle := State.landAt_cycle ..
@[simp] theorem State.landVAt_cycle (s : State) (due phys x tag : Nat) : (s.landVAt due phys x tag).cycle = s.cycle := State.landAt_cycle ..
@[simp] theorem State.landV_cycle (s : State) (cls phys x : Nat) : (s.landV cls phys x).cycle = s.cycle := State.landVAt_cycle ..
@[simp] theorem State.land_turn (s : State) (cls : Nat) (d : Dest) (x tag : Nat) : (s.land cls d x tag).turn = s.turn := State.landAt_turn ..
@[simp] theorem State.landVAt_turn (s : State) (due phys x tag : Nat) : (s.landVAt due phys x tag).turn = s.turn := State.landAt_turn ..
@[simp] theorem State.landV_turn (s : State) (cls phys x : Nat) : (s.landV cls phys x).turn = s.turn := State.landVAt_turn ..
@[simp] theorem State.land_phase (s : State) (cls : Nat) (d : Dest) (x tag : Nat) : (s.land cls d x tag).phase = s.phase := State.landAt_phase ..
@[simp] theorem State.landVAt_phase (s : State) (due phys x tag : Nat) : (s.landVAt due phys x tag).phase = s.phase := State.landAt_phase ..
@[simp] theorem State.landV_phase (s : State) (cls phys x : Nat) : (s.landV cls phys x).phase = s.phase := State.landVAt_phase ..
@[simp] theorem State.land_trapped (s : State) (cls : Nat) (d : Dest) (x tag : Nat) : (s.land cls d x tag).trapped = s.trapped := State.landAt_trapped ..
@[simp] theorem State.landVAt_trapped (s : State) (due phys x tag : Nat) : (s.landVAt due phys x tag).trapped = s.trapped := State.landAt_trapped ..
@[simp] theorem State.landV_trapped (s : State) (cls phys x : Nat) : (s.landV cls phys x).trapped = s.trapped := State.landVAt_trapped ..
@[simp] theorem State.land_inputs (s : State) (cls : Nat) (d : Dest) (x tag : Nat) : (s.land cls d x tag).inputs = s.inputs := State.landAt_inputs ..
@[simp] theorem State.landVAt_inputs (s : State) (due phys x tag : Nat) : (s.landVAt due phys x tag).inputs = s.inputs := State.landAt_inputs ..
@[simp] theorem State.landV_inputs (s : State) (cls phys x : Nat) : (s.landV cls phys x).inputs = s.inputs := State.landVAt_inputs ..
@[simp] theorem State.land_fresh (s : State) (cls : Nat) (d : Dest) (x tag : Nat) : (s.land cls d x tag).fresh = s.fresh := State.landAt_fresh ..
@[simp] theorem State.landVAt_fresh (s : State) (due phys x tag : Nat) : (s.landVAt due phys x tag).fresh = s.fresh := State.landAt_fresh ..
@[simp] theorem State.landV_fresh (s : State) (cls phys x : Nat) : (s.landV cls phys x).fresh = s.fresh := State.landVAt_fresh ..

/-! ### Updates of a core -/

@[simp] theorem Core.setCsr_place (c : Core) (sel : Nat) (v : Word) : (c.setCsr sel v).place = c.place := rfl
@[simp] theorem Core.setCsr_team (c : Core) (sel : Nat) (v : Word) : (c.setCsr sel v).team = c.team := rfl
@[simp] theorem Core.setCsr_rank (c : Core) (sel : Nat) (v : Word) : (c.setCsr sel v).rank = c.rank := rfl
@[simp] theorem Core.setCsr_s (c : Core) (sel : Nat) (v : Word) : (c.setCsr sel v).s = c.s := rfl
@[simp] theorem Core.setCsr_p (c : Core) (sel : Nat) (v : Word) : (c.setCsr sel v).p = c.p := rfl
@[simp] theorem Core.setCsr_v (c : Core) (sel : Nat) (v : Word) : (c.setCsr sel v).v = c.v := rfl
@[simp] theorem Core.setCsr_ls (c : Core) (sel : Nat) (v : Word) : (c.setCsr sel v).ls = c.ls := rfl
@[simp] theorem Core.setCsr_code (c : Core) (sel : Nat) (v : Word) : (c.setCsr sel v).code = c.code := rfl
@[simp] theorem Core.setCsr_lens (c : Core) (sel : Nat) (v : Word) : (c.setCsr sel v).lens = c.lens := rfl
@[simp] theorem Core.setCsr_csr (c : Core) (sel : Nat) (v : Word) : (c.setCsr sel v).csr = put 0 c.csr sel v := rfl
@[simp] theorem Core.setCsr_dom (c : Core) (sel : Nat) (v : Word) : (c.setCsr sel v).dom = c.dom := rfl
@[simp] theorem Core.setCsr_lost (c : Core) (sel : Nat) (v : Word) : (c.setCsr sel v).lost = c.lost := rfl
@[simp] theorem Core.setCsr_bal (c : Core) (sel : Nat) (v : Word) : (c.setCsr sel v).bal = c.bal := rfl
@[simp] theorem Core.setCsr_refill (c : Core) (sel : Nat) (v : Word) : (c.setCsr sel v).refill = c.refill := rfl
@[simp] theorem Core.setCsr_chan (c : Core) (sel : Nat) (v : Word) : (c.setCsr sel v).chan = c.chan := rfl
@[simp] theorem Core.setCsr_arrivals (c : Core) (sel : Nat) (v : Word) : (c.setCsr sel v).arrivals = c.arrivals := rfl
@[simp] theorem Core.setCsr_gpush (c : Core) (sel : Nat) (v : Word) : (c.setCsr sel v).gpush = c.gpush := rfl
@[simp] theorem Core.setCsr_thr (c : Core) (sel : Nat) (v : Word) : (c.setCsr sel v).thr = c.thr := rfl
@[simp] theorem Core.setCsr_hold (c : Core) (sel : Nat) (v : Word) : (c.setCsr sel v).hold = c.hold := rfl
@[simp] theorem Core.setCsr_region (c : Core) (sel : Nat) (v : Word) : (c.setCsr sel v).region = c.region := rfl
@[simp] theorem Core.setCsr_handler (c : Core) (sel : Nat) (v : Word) : (c.setCsr sel v).handler = c.handler := rfl
@[simp] theorem Core.setCsr_restart (c : Core) (sel : Nat) (v : Word) : (c.setCsr sel v).restart = c.restart := rfl
@[simp] theorem Core.setCsr_isDone (c : Core) (sel : Nat) (v : Word) : (c.setCsr sel v).isDone = c.isDone := rfl
@[simp] theorem Core.setCsr_stopped (c : Core) (sel : Nat) (v : Word) : (c.setCsr sel v).stopped = c.stopped := rfl
@[simp] theorem Core.setCsr_pend (c : Core) (sel : Nat) (v : Word) : (c.setCsr sel v).pend = c.pend := rfl
@[simp] theorem Core.setCsr_lsPend (c : Core) (sel : Nat) (v : Word) : (c.setCsr sel v).lsPend = c.lsPend := rfl
@[simp] theorem Core.setCsr_counts (c : Core) (sel : Nat) (v : Word) : (c.setCsr sel v).counts = c.counts := rfl
@[simp] theorem Core.setCsr_ports (c : Core) (sel : Nat) (v : Word) : (c.setCsr sel v).ports = c.ports := rfl
@[simp] theorem Core.setCsr_opens (c : Core) (sel : Nat) (v : Word) : (c.setCsr sel v).opens = c.opens := rfl
@[simp] theorem Core.setCsr_ldq (c : Core) (sel : Nat) (v : Word) : (c.setCsr sel v).ldq = c.ldq := rfl
@[simp] theorem Core.setCsr_stq (c : Core) (sel : Nat) (v : Word) : (c.setCsr sel v).stq = c.stq := rfl
@[simp] theorem Core.setCsr_tfq (c : Core) (sel : Nat) (v : Word) : (c.setCsr sel v).tfq = c.tfq := rfl
@[simp] theorem Core.setCsr_mxq (c : Core) (sel : Nat) (v : Word) : (c.setCsr sel v).mxq = c.mxq := rfl
@[simp] theorem Core.setCsr_owq (c : Core) (sel : Nat) (v : Word) : (c.setCsr sel v).owq = c.owq := rfl
@[simp] theorem Core.setCsr_qmarks (c : Core) (sel : Nat) (v : Word) : (c.setCsr sel v).qmarks = c.qmarks := rfl
@[simp] theorem Core.setCsr_pmarks (c : Core) (sel : Nat) (v : Word) : (c.setCsr sel v).pmarks = c.pmarks := rfl
@[simp] theorem Core.setCsr_q (c : Core) (sel : Nat) (v : Word) : (c.setCsr sel v).q = c.q := rfl
@[simp] theorem Core.setCsr_nest (c : Core) (sel : Nat) (v : Word) : (c.setCsr sel v).nest = c.nest := rfl
@[simp] theorem Core.setCsr_gang (c : Core) (sel : Nat) (v : Word) : (c.setCsr sel v).gang = c.gang := rfl
@[simp] theorem Core.setCsr_gcfg (c : Core) (sel : Nat) (v : Word) : (c.setCsr sel v).gcfg = c.gcfg := rfl
@[simp] theorem Core.setCsr_gvalid (c : Core) (sel : Nat) (v : Word) : (c.setCsr sel v).gvalid = c.gvalid := rfl
@[simp] theorem Core.setCsr_rvf (c : Core) (sel : Nat) (v : Word) : (c.setCsr sel v).rvf = c.rvf := rfl
@[simp] theorem Core.setCsr_gstat (c : Core) (sel : Nat) (v : Word) : (c.setCsr sel v).gstat = c.gstat := rfl
@[simp] theorem Core.setCsr_gev (c : Core) (sel : Nat) (v : Word) : (c.setCsr sel v).gev = c.gev := rfl
@[simp] theorem Core.setCsr_gevEnds (c : Core) (sel : Nat) (v : Word) : (c.setCsr sel v).gevEnds = c.gevEnds := rfl
@[simp] theorem Core.setCsr_gevBusy (c : Core) (sel : Nat) (v : Word) : (c.setCsr sel v).gevBusy = c.gevBusy := rfl
@[simp] theorem Core.setCsr_rvfOpen (c : Core) (sel : Nat) (v : Word) : (c.setCsr sel v).rvfOpen = c.rvfOpen := rfl
@[simp] theorem Core.setCsr_rows (c : Core) (sel : Nat) (v : Word) : (c.setCsr sel v).rows = c.rows := rfl
@[simp] theorem Core.setCsr_landed (c : Core) (sel : Nat) (v : Word) : (c.setCsr sel v).landed = c.landed := rfl
@[simp] theorem Core.setCsr_barEp (c : Core) (sel : Nat) (v : Word) : (c.setCsr sel v).barEp = c.barEp := rfl
@[simp] theorem Core.setCsr_impr (c : Core) (sel : Nat) (v : Word) : (c.setCsr sel v).impr = c.impr := rfl
@[simp] theorem Core.setCsr_after (c : Core) (sel : Nat) (v : Word) : (c.setCsr sel v).after = c.after := rfl
@[simp] theorem Core.setCsr_tookAt (c : Core) (sel : Nat) (v : Word) : (c.setCsr sel v).tookAt = c.tookAt := rfl
@[simp] theorem Core.setCsr_acq (c : Core) (sel : Nat) (v : Word) : (c.setCsr sel v).acq = c.acq := rfl
@[simp] theorem Core.setCsr_seen (c : Core) (sel : Nat) (v : Word) : (c.setCsr sel v).seen = c.seen := rfl
@[simp] theorem Core.setCsr_govel (c : Core) (sel : Nat) (v : Word) : (c.setCsr sel v).govel = c.govel := rfl
@[simp] theorem Core.setCsr_ovlAt (c : Core) (sel : Nat) (v : Word) : (c.setCsr sel v).ovlAt = c.ovlAt := rfl
@[simp] theorem Core.setCsr_ghosts (c : Core) (sel : Nat) (v : Word) : (c.setCsr sel v).ghosts = c.ghosts := rfl
@[simp] theorem Core.setCsr_stopAt (c : Core) (sel : Nat) (v : Word) : (c.setCsr sel v).stopAt = c.stopAt := rfl
@[simp] theorem Core.setCsr_ring (c : Core) (sel : Nat) (v : Word) : (c.setCsr sel v).ring = c.ring := rfl
@[simp] theorem Core.setCsr_ringPos (c : Core) (sel : Nat) (v : Word) : (c.setCsr sel v).ringPos = c.ringPos := rfl
@[simp] theorem Core.setCsr_wp (c : Core) (sel : Nat) (v : Word) : (c.setCsr sel v).wp = c.wp := rfl
@[simp] theorem Core.setTokens_place (c : Core) (k n : Nat) : (c.setTokens k n).place = c.place := rfl
@[simp] theorem Core.setTokens_team (c : Core) (k n : Nat) : (c.setTokens k n).team = c.team := rfl
@[simp] theorem Core.setTokens_rank (c : Core) (k n : Nat) : (c.setTokens k n).rank = c.rank := rfl
@[simp] theorem Core.setTokens_s (c : Core) (k n : Nat) : (c.setTokens k n).s = c.s := rfl
@[simp] theorem Core.setTokens_p (c : Core) (k n : Nat) : (c.setTokens k n).p = c.p := rfl
@[simp] theorem Core.setTokens_v (c : Core) (k n : Nat) : (c.setTokens k n).v = c.v := rfl
@[simp] theorem Core.setTokens_ls (c : Core) (k n : Nat) : (c.setTokens k n).ls = c.ls := rfl
@[simp] theorem Core.setTokens_code (c : Core) (k n : Nat) : (c.setTokens k n).code = c.code := rfl
@[simp] theorem Core.setTokens_lens (c : Core) (k n : Nat) : (c.setTokens k n).lens = c.lens := rfl
@[simp] theorem Core.setTokens_csr (c : Core) (k n : Nat) : (c.setTokens k n).csr = c.csr := rfl
@[simp] theorem Core.setTokens_dom (c : Core) (k n : Nat) : (c.setTokens k n).dom = c.dom := rfl
@[simp] theorem Core.setTokens_lost (c : Core) (k n : Nat) : (c.setTokens k n).lost = c.lost := rfl
@[simp] theorem Core.setTokens_bal (c : Core) (k n : Nat) : (c.setTokens k n).bal = c.bal := rfl
@[simp] theorem Core.setTokens_refill (c : Core) (k n : Nat) : (c.setTokens k n).refill = c.refill := rfl
@[simp] theorem Core.setTokens_chan (c : Core) (k n : Nat) : (c.setTokens k n).chan = put 0 c.chan k n := rfl
@[simp] theorem Core.setTokens_arrivals (c : Core) (k n : Nat) : (c.setTokens k n).arrivals = c.arrivals := rfl
@[simp] theorem Core.setTokens_gpush (c : Core) (k n : Nat) : (c.setTokens k n).gpush = c.gpush := rfl
@[simp] theorem Core.setTokens_thr (c : Core) (k n : Nat) : (c.setTokens k n).thr = c.thr := rfl
@[simp] theorem Core.setTokens_hold (c : Core) (k n : Nat) : (c.setTokens k n).hold = c.hold := rfl
@[simp] theorem Core.setTokens_region (c : Core) (k n : Nat) : (c.setTokens k n).region = c.region := rfl
@[simp] theorem Core.setTokens_handler (c : Core) (k n : Nat) : (c.setTokens k n).handler = c.handler := rfl
@[simp] theorem Core.setTokens_restart (c : Core) (k n : Nat) : (c.setTokens k n).restart = c.restart := rfl
@[simp] theorem Core.setTokens_isDone (c : Core) (k n : Nat) : (c.setTokens k n).isDone = c.isDone := rfl
@[simp] theorem Core.setTokens_stopped (c : Core) (k n : Nat) : (c.setTokens k n).stopped = c.stopped := rfl
@[simp] theorem Core.setTokens_pend (c : Core) (k n : Nat) : (c.setTokens k n).pend = c.pend := rfl
@[simp] theorem Core.setTokens_lsPend (c : Core) (k n : Nat) : (c.setTokens k n).lsPend = c.lsPend := rfl
@[simp] theorem Core.setTokens_counts (c : Core) (k n : Nat) : (c.setTokens k n).counts = c.counts := rfl
@[simp] theorem Core.setTokens_ports (c : Core) (k n : Nat) : (c.setTokens k n).ports = c.ports := rfl
@[simp] theorem Core.setTokens_opens (c : Core) (k n : Nat) : (c.setTokens k n).opens = c.opens := rfl
@[simp] theorem Core.setTokens_ldq (c : Core) (k n : Nat) : (c.setTokens k n).ldq = c.ldq := rfl
@[simp] theorem Core.setTokens_stq (c : Core) (k n : Nat) : (c.setTokens k n).stq = c.stq := rfl
@[simp] theorem Core.setTokens_tfq (c : Core) (k n : Nat) : (c.setTokens k n).tfq = c.tfq := rfl
@[simp] theorem Core.setTokens_mxq (c : Core) (k n : Nat) : (c.setTokens k n).mxq = c.mxq := rfl
@[simp] theorem Core.setTokens_owq (c : Core) (k n : Nat) : (c.setTokens k n).owq = c.owq := rfl
@[simp] theorem Core.setTokens_qmarks (c : Core) (k n : Nat) : (c.setTokens k n).qmarks = c.qmarks := rfl
@[simp] theorem Core.setTokens_pmarks (c : Core) (k n : Nat) : (c.setTokens k n).pmarks = c.pmarks := rfl
@[simp] theorem Core.setTokens_q (c : Core) (k n : Nat) : (c.setTokens k n).q = c.q := rfl
@[simp] theorem Core.setTokens_nest (c : Core) (k n : Nat) : (c.setTokens k n).nest = c.nest := rfl
@[simp] theorem Core.setTokens_gang (c : Core) (k n : Nat) : (c.setTokens k n).gang = c.gang := rfl
@[simp] theorem Core.setTokens_gcfg (c : Core) (k n : Nat) : (c.setTokens k n).gcfg = c.gcfg := rfl
@[simp] theorem Core.setTokens_gvalid (c : Core) (k n : Nat) : (c.setTokens k n).gvalid = c.gvalid := rfl
@[simp] theorem Core.setTokens_rvf (c : Core) (k n : Nat) : (c.setTokens k n).rvf = c.rvf := rfl
@[simp] theorem Core.setTokens_gstat (c : Core) (k n : Nat) : (c.setTokens k n).gstat = c.gstat := rfl
@[simp] theorem Core.setTokens_gev (c : Core) (k n : Nat) : (c.setTokens k n).gev = c.gev := rfl
@[simp] theorem Core.setTokens_gevEnds (c : Core) (k n : Nat) : (c.setTokens k n).gevEnds = c.gevEnds := rfl
@[simp] theorem Core.setTokens_gevBusy (c : Core) (k n : Nat) : (c.setTokens k n).gevBusy = c.gevBusy := rfl
@[simp] theorem Core.setTokens_rvfOpen (c : Core) (k n : Nat) : (c.setTokens k n).rvfOpen = c.rvfOpen := rfl
@[simp] theorem Core.setTokens_rows (c : Core) (k n : Nat) : (c.setTokens k n).rows = c.rows := rfl
@[simp] theorem Core.setTokens_landed (c : Core) (k n : Nat) : (c.setTokens k n).landed = c.landed := rfl
@[simp] theorem Core.setTokens_barEp (c : Core) (k n : Nat) : (c.setTokens k n).barEp = c.barEp := rfl
@[simp] theorem Core.setTokens_impr (c : Core) (k n : Nat) : (c.setTokens k n).impr = c.impr := rfl
@[simp] theorem Core.setTokens_after (c : Core) (k n : Nat) : (c.setTokens k n).after = c.after := rfl
@[simp] theorem Core.setTokens_tookAt (c : Core) (k n : Nat) : (c.setTokens k n).tookAt = c.tookAt := rfl
@[simp] theorem Core.setTokens_acq (c : Core) (k n : Nat) : (c.setTokens k n).acq = c.acq := rfl
@[simp] theorem Core.setTokens_seen (c : Core) (k n : Nat) : (c.setTokens k n).seen = c.seen := rfl
@[simp] theorem Core.setTokens_govel (c : Core) (k n : Nat) : (c.setTokens k n).govel = c.govel := rfl
@[simp] theorem Core.setTokens_ovlAt (c : Core) (k n : Nat) : (c.setTokens k n).ovlAt = c.ovlAt := rfl
@[simp] theorem Core.setTokens_ghosts (c : Core) (k n : Nat) : (c.setTokens k n).ghosts = c.ghosts := rfl
@[simp] theorem Core.setTokens_stopAt (c : Core) (k n : Nat) : (c.setTokens k n).stopAt = c.stopAt := rfl
@[simp] theorem Core.setTokens_ring (c : Core) (k n : Nat) : (c.setTokens k n).ring = c.ring := rfl
@[simp] theorem Core.setTokens_ringPos (c : Core) (k n : Nat) : (c.setTokens k n).ringPos = c.ringPos := rfl
@[simp] theorem Core.setTokens_wp (c : Core) (k n : Nat) : (c.setTokens k n).wp = c.wp := rfl
@[simp] theorem Core.ringAdd_place (c : Core) (cycle kind src data : Nat) : (c.ringAdd cycle kind src data).place = c.place := rfl
@[simp] theorem Core.ringAdd_team (c : Core) (cycle kind src data : Nat) : (c.ringAdd cycle kind src data).team = c.team := rfl
@[simp] theorem Core.ringAdd_rank (c : Core) (cycle kind src data : Nat) : (c.ringAdd cycle kind src data).rank = c.rank := rfl
@[simp] theorem Core.ringAdd_s (c : Core) (cycle kind src data : Nat) : (c.ringAdd cycle kind src data).s = c.s := rfl
@[simp] theorem Core.ringAdd_p (c : Core) (cycle kind src data : Nat) : (c.ringAdd cycle kind src data).p = c.p := rfl
@[simp] theorem Core.ringAdd_v (c : Core) (cycle kind src data : Nat) : (c.ringAdd cycle kind src data).v = c.v := rfl
@[simp] theorem Core.ringAdd_ls (c : Core) (cycle kind src data : Nat) : (c.ringAdd cycle kind src data).ls = c.ls := rfl
@[simp] theorem Core.ringAdd_code (c : Core) (cycle kind src data : Nat) : (c.ringAdd cycle kind src data).code = c.code := rfl
@[simp] theorem Core.ringAdd_lens (c : Core) (cycle kind src data : Nat) : (c.ringAdd cycle kind src data).lens = c.lens := rfl
@[simp] theorem Core.ringAdd_csr (c : Core) (cycle kind src data : Nat) : (c.ringAdd cycle kind src data).csr = c.csr := rfl
@[simp] theorem Core.ringAdd_dom (c : Core) (cycle kind src data : Nat) : (c.ringAdd cycle kind src data).dom = c.dom := rfl
@[simp] theorem Core.ringAdd_lost (c : Core) (cycle kind src data : Nat) : (c.ringAdd cycle kind src data).lost = c.lost := rfl
@[simp] theorem Core.ringAdd_bal (c : Core) (cycle kind src data : Nat) : (c.ringAdd cycle kind src data).bal = c.bal := rfl
@[simp] theorem Core.ringAdd_refill (c : Core) (cycle kind src data : Nat) : (c.ringAdd cycle kind src data).refill = c.refill := rfl
@[simp] theorem Core.ringAdd_chan (c : Core) (cycle kind src data : Nat) : (c.ringAdd cycle kind src data).chan = c.chan := rfl
@[simp] theorem Core.ringAdd_arrivals (c : Core) (cycle kind src data : Nat) : (c.ringAdd cycle kind src data).arrivals = c.arrivals := rfl
@[simp] theorem Core.ringAdd_gpush (c : Core) (cycle kind src data : Nat) : (c.ringAdd cycle kind src data).gpush = c.gpush := rfl
@[simp] theorem Core.ringAdd_thr (c : Core) (cycle kind src data : Nat) : (c.ringAdd cycle kind src data).thr = c.thr := rfl
@[simp] theorem Core.ringAdd_hold (c : Core) (cycle kind src data : Nat) : (c.ringAdd cycle kind src data).hold = c.hold := rfl
@[simp] theorem Core.ringAdd_region (c : Core) (cycle kind src data : Nat) : (c.ringAdd cycle kind src data).region = c.region := rfl
@[simp] theorem Core.ringAdd_handler (c : Core) (cycle kind src data : Nat) : (c.ringAdd cycle kind src data).handler = c.handler := rfl
@[simp] theorem Core.ringAdd_restart (c : Core) (cycle kind src data : Nat) : (c.ringAdd cycle kind src data).restart = c.restart := rfl
@[simp] theorem Core.ringAdd_isDone (c : Core) (cycle kind src data : Nat) : (c.ringAdd cycle kind src data).isDone = c.isDone := rfl
@[simp] theorem Core.ringAdd_stopped (c : Core) (cycle kind src data : Nat) : (c.ringAdd cycle kind src data).stopped = c.stopped := rfl
@[simp] theorem Core.ringAdd_pend (c : Core) (cycle kind src data : Nat) : (c.ringAdd cycle kind src data).pend = c.pend := rfl
@[simp] theorem Core.ringAdd_lsPend (c : Core) (cycle kind src data : Nat) : (c.ringAdd cycle kind src data).lsPend = c.lsPend := rfl
@[simp] theorem Core.ringAdd_counts (c : Core) (cycle kind src data : Nat) : (c.ringAdd cycle kind src data).counts = c.counts := rfl
@[simp] theorem Core.ringAdd_ports (c : Core) (cycle kind src data : Nat) : (c.ringAdd cycle kind src data).ports = c.ports := rfl
@[simp] theorem Core.ringAdd_opens (c : Core) (cycle kind src data : Nat) : (c.ringAdd cycle kind src data).opens = c.opens := rfl
@[simp] theorem Core.ringAdd_ldq (c : Core) (cycle kind src data : Nat) : (c.ringAdd cycle kind src data).ldq = c.ldq := rfl
@[simp] theorem Core.ringAdd_stq (c : Core) (cycle kind src data : Nat) : (c.ringAdd cycle kind src data).stq = c.stq := rfl
@[simp] theorem Core.ringAdd_tfq (c : Core) (cycle kind src data : Nat) : (c.ringAdd cycle kind src data).tfq = c.tfq := rfl
@[simp] theorem Core.ringAdd_mxq (c : Core) (cycle kind src data : Nat) : (c.ringAdd cycle kind src data).mxq = c.mxq := rfl
@[simp] theorem Core.ringAdd_owq (c : Core) (cycle kind src data : Nat) : (c.ringAdd cycle kind src data).owq = c.owq := rfl
@[simp] theorem Core.ringAdd_qmarks (c : Core) (cycle kind src data : Nat) : (c.ringAdd cycle kind src data).qmarks = c.qmarks := rfl
@[simp] theorem Core.ringAdd_pmarks (c : Core) (cycle kind src data : Nat) : (c.ringAdd cycle kind src data).pmarks = c.pmarks := rfl
@[simp] theorem Core.ringAdd_q (c : Core) (cycle kind src data : Nat) : (c.ringAdd cycle kind src data).q = c.q := rfl
@[simp] theorem Core.ringAdd_nest (c : Core) (cycle kind src data : Nat) : (c.ringAdd cycle kind src data).nest = c.nest := rfl
@[simp] theorem Core.ringAdd_gang (c : Core) (cycle kind src data : Nat) : (c.ringAdd cycle kind src data).gang = c.gang := rfl
@[simp] theorem Core.ringAdd_gcfg (c : Core) (cycle kind src data : Nat) : (c.ringAdd cycle kind src data).gcfg = c.gcfg := rfl
@[simp] theorem Core.ringAdd_gvalid (c : Core) (cycle kind src data : Nat) : (c.ringAdd cycle kind src data).gvalid = c.gvalid := rfl
@[simp] theorem Core.ringAdd_rvf (c : Core) (cycle kind src data : Nat) : (c.ringAdd cycle kind src data).rvf = c.rvf := rfl
@[simp] theorem Core.ringAdd_gstat (c : Core) (cycle kind src data : Nat) : (c.ringAdd cycle kind src data).gstat = c.gstat := rfl
@[simp] theorem Core.ringAdd_gev (c : Core) (cycle kind src data : Nat) : (c.ringAdd cycle kind src data).gev = c.gev := rfl
@[simp] theorem Core.ringAdd_gevEnds (c : Core) (cycle kind src data : Nat) : (c.ringAdd cycle kind src data).gevEnds = c.gevEnds := rfl
@[simp] theorem Core.ringAdd_gevBusy (c : Core) (cycle kind src data : Nat) : (c.ringAdd cycle kind src data).gevBusy = c.gevBusy := rfl
@[simp] theorem Core.ringAdd_rvfOpen (c : Core) (cycle kind src data : Nat) : (c.ringAdd cycle kind src data).rvfOpen = c.rvfOpen := rfl
@[simp] theorem Core.ringAdd_rows (c : Core) (cycle kind src data : Nat) : (c.ringAdd cycle kind src data).rows = c.rows := rfl
@[simp] theorem Core.ringAdd_landed (c : Core) (cycle kind src data : Nat) : (c.ringAdd cycle kind src data).landed = c.landed := rfl
@[simp] theorem Core.ringAdd_barEp (c : Core) (cycle kind src data : Nat) : (c.ringAdd cycle kind src data).barEp = c.barEp := rfl
@[simp] theorem Core.ringAdd_impr (c : Core) (cycle kind src data : Nat) : (c.ringAdd cycle kind src data).impr = c.impr := rfl
@[simp] theorem Core.ringAdd_after (c : Core) (cycle kind src data : Nat) : (c.ringAdd cycle kind src data).after = c.after := rfl
@[simp] theorem Core.ringAdd_tookAt (c : Core) (cycle kind src data : Nat) : (c.ringAdd cycle kind src data).tookAt = c.tookAt := rfl
@[simp] theorem Core.ringAdd_acq (c : Core) (cycle kind src data : Nat) : (c.ringAdd cycle kind src data).acq = c.acq := rfl
@[simp] theorem Core.ringAdd_seen (c : Core) (cycle kind src data : Nat) : (c.ringAdd cycle kind src data).seen = c.seen := rfl
@[simp] theorem Core.ringAdd_govel (c : Core) (cycle kind src data : Nat) : (c.ringAdd cycle kind src data).govel = c.govel := rfl
@[simp] theorem Core.ringAdd_ovlAt (c : Core) (cycle kind src data : Nat) : (c.ringAdd cycle kind src data).ovlAt = c.ovlAt := rfl
@[simp] theorem Core.ringAdd_ghosts (c : Core) (cycle kind src data : Nat) : (c.ringAdd cycle kind src data).ghosts = c.ghosts := rfl
@[simp] theorem Core.ringAdd_stopAt (c : Core) (cycle kind src data : Nat) : (c.ringAdd cycle kind src data).stopAt = c.stopAt := rfl
@[simp] theorem Core.ringAdd_wp (c : Core) (cycle kind src data : Nat) : (c.ringAdd cycle kind src data).wp = c.wp := rfl

/-- A result in flight joins those in flight, and nothing else of the core changes. -/
theorem Core.addPend_pend_only (c : Core) (l : Landing) : c.addPend l = { c with pend := (c.addPend l).pend } := rfl

@[simp] theorem Core.addPend_place (c : Core) (l : Landing) : (c.addPend l).place = c.place := by
  rw [Core.addPend_pend_only]
@[simp] theorem Core.addPend_team (c : Core) (l : Landing) : (c.addPend l).team = c.team := by
  rw [Core.addPend_pend_only]
@[simp] theorem Core.addPend_rank (c : Core) (l : Landing) : (c.addPend l).rank = c.rank := by
  rw [Core.addPend_pend_only]
@[simp] theorem Core.addPend_s (c : Core) (l : Landing) : (c.addPend l).s = c.s := by
  rw [Core.addPend_pend_only]
@[simp] theorem Core.addPend_p (c : Core) (l : Landing) : (c.addPend l).p = c.p := by
  rw [Core.addPend_pend_only]
@[simp] theorem Core.addPend_v (c : Core) (l : Landing) : (c.addPend l).v = c.v := by
  rw [Core.addPend_pend_only]
@[simp] theorem Core.addPend_ls (c : Core) (l : Landing) : (c.addPend l).ls = c.ls := by
  rw [Core.addPend_pend_only]
@[simp] theorem Core.addPend_code (c : Core) (l : Landing) : (c.addPend l).code = c.code := by
  rw [Core.addPend_pend_only]
@[simp] theorem Core.addPend_lens (c : Core) (l : Landing) : (c.addPend l).lens = c.lens := by
  rw [Core.addPend_pend_only]
@[simp] theorem Core.addPend_csr (c : Core) (l : Landing) : (c.addPend l).csr = c.csr := by
  rw [Core.addPend_pend_only]
@[simp] theorem Core.addPend_dom (c : Core) (l : Landing) : (c.addPend l).dom = c.dom := by
  rw [Core.addPend_pend_only]
@[simp] theorem Core.addPend_lost (c : Core) (l : Landing) : (c.addPend l).lost = c.lost := by
  rw [Core.addPend_pend_only]
@[simp] theorem Core.addPend_bal (c : Core) (l : Landing) : (c.addPend l).bal = c.bal := by
  rw [Core.addPend_pend_only]
@[simp] theorem Core.addPend_refill (c : Core) (l : Landing) : (c.addPend l).refill = c.refill := by
  rw [Core.addPend_pend_only]
@[simp] theorem Core.addPend_chan (c : Core) (l : Landing) : (c.addPend l).chan = c.chan := by
  rw [Core.addPend_pend_only]
@[simp] theorem Core.addPend_arrivals (c : Core) (l : Landing) : (c.addPend l).arrivals = c.arrivals := by
  rw [Core.addPend_pend_only]
@[simp] theorem Core.addPend_gpush (c : Core) (l : Landing) : (c.addPend l).gpush = c.gpush := by
  rw [Core.addPend_pend_only]
@[simp] theorem Core.addPend_thr (c : Core) (l : Landing) : (c.addPend l).thr = c.thr := by
  rw [Core.addPend_pend_only]
@[simp] theorem Core.addPend_hold (c : Core) (l : Landing) : (c.addPend l).hold = c.hold := by
  rw [Core.addPend_pend_only]
@[simp] theorem Core.addPend_region (c : Core) (l : Landing) : (c.addPend l).region = c.region := by
  rw [Core.addPend_pend_only]
@[simp] theorem Core.addPend_handler (c : Core) (l : Landing) : (c.addPend l).handler = c.handler := by
  rw [Core.addPend_pend_only]
@[simp] theorem Core.addPend_restart (c : Core) (l : Landing) : (c.addPend l).restart = c.restart := by
  rw [Core.addPend_pend_only]
@[simp] theorem Core.addPend_isDone (c : Core) (l : Landing) : (c.addPend l).isDone = c.isDone := by
  rw [Core.addPend_pend_only]
@[simp] theorem Core.addPend_stopped (c : Core) (l : Landing) : (c.addPend l).stopped = c.stopped := by
  rw [Core.addPend_pend_only]
@[simp] theorem Core.addPend_lsPend (c : Core) (l : Landing) : (c.addPend l).lsPend = c.lsPend := by
  rw [Core.addPend_pend_only]
@[simp] theorem Core.addPend_counts (c : Core) (l : Landing) : (c.addPend l).counts = c.counts := by
  rw [Core.addPend_pend_only]
@[simp] theorem Core.addPend_ports (c : Core) (l : Landing) : (c.addPend l).ports = c.ports := by
  rw [Core.addPend_pend_only]
@[simp] theorem Core.addPend_opens (c : Core) (l : Landing) : (c.addPend l).opens = c.opens := by
  rw [Core.addPend_pend_only]
@[simp] theorem Core.addPend_ldq (c : Core) (l : Landing) : (c.addPend l).ldq = c.ldq := by
  rw [Core.addPend_pend_only]
@[simp] theorem Core.addPend_stq (c : Core) (l : Landing) : (c.addPend l).stq = c.stq := by
  rw [Core.addPend_pend_only]
@[simp] theorem Core.addPend_tfq (c : Core) (l : Landing) : (c.addPend l).tfq = c.tfq := by
  rw [Core.addPend_pend_only]
@[simp] theorem Core.addPend_mxq (c : Core) (l : Landing) : (c.addPend l).mxq = c.mxq := by
  rw [Core.addPend_pend_only]
@[simp] theorem Core.addPend_owq (c : Core) (l : Landing) : (c.addPend l).owq = c.owq := by
  rw [Core.addPend_pend_only]
@[simp] theorem Core.addPend_qmarks (c : Core) (l : Landing) : (c.addPend l).qmarks = c.qmarks := by
  rw [Core.addPend_pend_only]
@[simp] theorem Core.addPend_pmarks (c : Core) (l : Landing) : (c.addPend l).pmarks = c.pmarks := by
  rw [Core.addPend_pend_only]
@[simp] theorem Core.addPend_q (c : Core) (l : Landing) : (c.addPend l).q = c.q := by
  rw [Core.addPend_pend_only]
@[simp] theorem Core.addPend_nest (c : Core) (l : Landing) : (c.addPend l).nest = c.nest := by
  rw [Core.addPend_pend_only]
@[simp] theorem Core.addPend_gang (c : Core) (l : Landing) : (c.addPend l).gang = c.gang := by
  rw [Core.addPend_pend_only]
@[simp] theorem Core.addPend_gcfg (c : Core) (l : Landing) : (c.addPend l).gcfg = c.gcfg := by
  rw [Core.addPend_pend_only]
@[simp] theorem Core.addPend_gvalid (c : Core) (l : Landing) : (c.addPend l).gvalid = c.gvalid := by
  rw [Core.addPend_pend_only]
@[simp] theorem Core.addPend_rvf (c : Core) (l : Landing) : (c.addPend l).rvf = c.rvf := by
  rw [Core.addPend_pend_only]
@[simp] theorem Core.addPend_gstat (c : Core) (l : Landing) : (c.addPend l).gstat = c.gstat := by
  rw [Core.addPend_pend_only]
@[simp] theorem Core.addPend_gev (c : Core) (l : Landing) : (c.addPend l).gev = c.gev := by
  rw [Core.addPend_pend_only]
@[simp] theorem Core.addPend_gevEnds (c : Core) (l : Landing) : (c.addPend l).gevEnds = c.gevEnds := by
  rw [Core.addPend_pend_only]
@[simp] theorem Core.addPend_gevBusy (c : Core) (l : Landing) : (c.addPend l).gevBusy = c.gevBusy := by
  rw [Core.addPend_pend_only]
@[simp] theorem Core.addPend_rvfOpen (c : Core) (l : Landing) : (c.addPend l).rvfOpen = c.rvfOpen := by
  rw [Core.addPend_pend_only]
@[simp] theorem Core.addPend_rows (c : Core) (l : Landing) : (c.addPend l).rows = c.rows := by
  rw [Core.addPend_pend_only]
@[simp] theorem Core.addPend_landed (c : Core) (l : Landing) : (c.addPend l).landed = c.landed := by
  rw [Core.addPend_pend_only]
@[simp] theorem Core.addPend_barEp (c : Core) (l : Landing) : (c.addPend l).barEp = c.barEp := by
  rw [Core.addPend_pend_only]
@[simp] theorem Core.addPend_impr (c : Core) (l : Landing) : (c.addPend l).impr = c.impr := by
  rw [Core.addPend_pend_only]
@[simp] theorem Core.addPend_after (c : Core) (l : Landing) : (c.addPend l).after = c.after := by
  rw [Core.addPend_pend_only]
@[simp] theorem Core.addPend_tookAt (c : Core) (l : Landing) : (c.addPend l).tookAt = c.tookAt := by
  rw [Core.addPend_pend_only]
@[simp] theorem Core.addPend_acq (c : Core) (l : Landing) : (c.addPend l).acq = c.acq := by
  rw [Core.addPend_pend_only]
@[simp] theorem Core.addPend_seen (c : Core) (l : Landing) : (c.addPend l).seen = c.seen := by
  rw [Core.addPend_pend_only]
@[simp] theorem Core.addPend_govel (c : Core) (l : Landing) : (c.addPend l).govel = c.govel := by
  rw [Core.addPend_pend_only]
@[simp] theorem Core.addPend_ovlAt (c : Core) (l : Landing) : (c.addPend l).ovlAt = c.ovlAt := by
  rw [Core.addPend_pend_only]
@[simp] theorem Core.addPend_ghosts (c : Core) (l : Landing) : (c.addPend l).ghosts = c.ghosts := by
  rw [Core.addPend_pend_only]
@[simp] theorem Core.addPend_stopAt (c : Core) (l : Landing) : (c.addPend l).stopAt = c.stopAt := by
  rw [Core.addPend_pend_only]
@[simp] theorem Core.addPend_ring (c : Core) (l : Landing) : (c.addPend l).ring = c.ring := by
  rw [Core.addPend_pend_only]
@[simp] theorem Core.addPend_ringPos (c : Core) (l : Landing) : (c.addPend l).ringPos = c.ringPos := by
  rw [Core.addPend_pend_only]
@[simp] theorem Core.addPend_wp (c : Core) (l : Landing) : (c.addPend l).wp = c.wp := by
  rw [Core.addPend_pend_only]
@[simp] theorem State.advance_core_place (s : State) (i : Issue) (stay : Bool) : (s.advance i stay).core.place = s.core.place := rfl
@[simp] theorem State.advance_core_team (s : State) (i : Issue) (stay : Bool) : (s.advance i stay).core.team = s.core.team := rfl
@[simp] theorem State.advance_core_rank (s : State) (i : Issue) (stay : Bool) : (s.advance i stay).core.rank = s.core.rank := rfl
@[simp] theorem State.advance_core_s (s : State) (i : Issue) (stay : Bool) : (s.advance i stay).core.s = s.core.s := rfl
@[simp] theorem State.advance_core_p (s : State) (i : Issue) (stay : Bool) : (s.advance i stay).core.p = s.core.p := rfl
@[simp] theorem State.advance_core_v (s : State) (i : Issue) (stay : Bool) : (s.advance i stay).core.v = s.core.v := rfl
@[simp] theorem State.advance_core_ls (s : State) (i : Issue) (stay : Bool) : (s.advance i stay).core.ls = s.core.ls := rfl
@[simp] theorem State.advance_core_code (s : State) (i : Issue) (stay : Bool) : (s.advance i stay).core.code = s.core.code := rfl
@[simp] theorem State.advance_core_lens (s : State) (i : Issue) (stay : Bool) : (s.advance i stay).core.lens = s.core.lens := rfl
@[simp] theorem State.advance_core_csr (s : State) (i : Issue) (stay : Bool) : (s.advance i stay).core.csr = s.core.csr := rfl
@[simp] theorem State.advance_core_dom (s : State) (i : Issue) (stay : Bool) : (s.advance i stay).core.dom = s.core.dom := rfl
@[simp] theorem State.advance_core_lost (s : State) (i : Issue) (stay : Bool) : (s.advance i stay).core.lost = s.core.lost := rfl
@[simp] theorem State.advance_core_bal (s : State) (i : Issue) (stay : Bool) : (s.advance i stay).core.bal = s.core.bal := rfl
@[simp] theorem State.advance_core_refill (s : State) (i : Issue) (stay : Bool) : (s.advance i stay).core.refill = s.core.refill := rfl
@[simp] theorem State.advance_core_chan (s : State) (i : Issue) (stay : Bool) : (s.advance i stay).core.chan = s.core.chan := rfl
@[simp] theorem State.advance_core_arrivals (s : State) (i : Issue) (stay : Bool) : (s.advance i stay).core.arrivals = s.core.arrivals := rfl
@[simp] theorem State.advance_core_gpush (s : State) (i : Issue) (stay : Bool) : (s.advance i stay).core.gpush = s.core.gpush := rfl
@[simp] theorem State.advance_core_hold (s : State) (i : Issue) (stay : Bool) : (s.advance i stay).core.hold = s.core.hold := rfl
@[simp] theorem State.advance_core_region (s : State) (i : Issue) (stay : Bool) : (s.advance i stay).core.region = s.core.region := rfl
@[simp] theorem State.advance_core_handler (s : State) (i : Issue) (stay : Bool) : (s.advance i stay).core.handler = s.core.handler := rfl
@[simp] theorem State.advance_core_restart (s : State) (i : Issue) (stay : Bool) : (s.advance i stay).core.restart = s.core.restart := rfl
@[simp] theorem State.advance_core_isDone (s : State) (i : Issue) (stay : Bool) : (s.advance i stay).core.isDone = s.core.isDone := rfl
@[simp] theorem State.advance_core_stopped (s : State) (i : Issue) (stay : Bool) : (s.advance i stay).core.stopped = s.core.stopped := rfl
@[simp] theorem State.advance_core_pend (s : State) (i : Issue) (stay : Bool) : (s.advance i stay).core.pend = s.core.pend := rfl
@[simp] theorem State.advance_core_lsPend (s : State) (i : Issue) (stay : Bool) : (s.advance i stay).core.lsPend = s.core.lsPend := rfl
@[simp] theorem State.advance_core_counts (s : State) (i : Issue) (stay : Bool) : (s.advance i stay).core.counts = s.core.counts := rfl
@[simp] theorem State.advance_core_ports (s : State) (i : Issue) (stay : Bool) : (s.advance i stay).core.ports = s.core.ports := rfl
@[simp] theorem State.advance_core_opens (s : State) (i : Issue) (stay : Bool) : (s.advance i stay).core.opens = s.core.opens := rfl
@[simp] theorem State.advance_core_ldq (s : State) (i : Issue) (stay : Bool) : (s.advance i stay).core.ldq = s.core.ldq := rfl
@[simp] theorem State.advance_core_stq (s : State) (i : Issue) (stay : Bool) : (s.advance i stay).core.stq = s.core.stq := rfl
@[simp] theorem State.advance_core_tfq (s : State) (i : Issue) (stay : Bool) : (s.advance i stay).core.tfq = s.core.tfq := rfl
@[simp] theorem State.advance_core_mxq (s : State) (i : Issue) (stay : Bool) : (s.advance i stay).core.mxq = s.core.mxq := rfl
@[simp] theorem State.advance_core_owq (s : State) (i : Issue) (stay : Bool) : (s.advance i stay).core.owq = s.core.owq := rfl
@[simp] theorem State.advance_core_qmarks (s : State) (i : Issue) (stay : Bool) : (s.advance i stay).core.qmarks = s.core.qmarks := rfl
@[simp] theorem State.advance_core_pmarks (s : State) (i : Issue) (stay : Bool) : (s.advance i stay).core.pmarks = s.core.pmarks := rfl
@[simp] theorem State.advance_core_q (s : State) (i : Issue) (stay : Bool) : (s.advance i stay).core.q = s.core.q := rfl
@[simp] theorem State.advance_core_nest (s : State) (i : Issue) (stay : Bool) : (s.advance i stay).core.nest = s.core.nest := rfl
@[simp] theorem State.advance_core_gang (s : State) (i : Issue) (stay : Bool) : (s.advance i stay).core.gang = s.core.gang := rfl
@[simp] theorem State.advance_core_gcfg (s : State) (i : Issue) (stay : Bool) : (s.advance i stay).core.gcfg = s.core.gcfg := rfl
@[simp] theorem State.advance_core_gvalid (s : State) (i : Issue) (stay : Bool) : (s.advance i stay).core.gvalid = s.core.gvalid := rfl
@[simp] theorem State.advance_core_rvf (s : State) (i : Issue) (stay : Bool) : (s.advance i stay).core.rvf = s.core.rvf := rfl
@[simp] theorem State.advance_core_gstat (s : State) (i : Issue) (stay : Bool) : (s.advance i stay).core.gstat = s.core.gstat := rfl
@[simp] theorem State.advance_core_gev (s : State) (i : Issue) (stay : Bool) : (s.advance i stay).core.gev = s.core.gev := rfl
@[simp] theorem State.advance_core_gevEnds (s : State) (i : Issue) (stay : Bool) : (s.advance i stay).core.gevEnds = s.core.gevEnds := rfl
@[simp] theorem State.advance_core_gevBusy (s : State) (i : Issue) (stay : Bool) : (s.advance i stay).core.gevBusy = s.core.gevBusy := rfl
@[simp] theorem State.advance_core_rvfOpen (s : State) (i : Issue) (stay : Bool) : (s.advance i stay).core.rvfOpen = s.core.rvfOpen := rfl
@[simp] theorem State.advance_core_rows (s : State) (i : Issue) (stay : Bool) : (s.advance i stay).core.rows = s.core.rows := rfl
@[simp] theorem State.advance_core_landed (s : State) (i : Issue) (stay : Bool) : (s.advance i stay).core.landed = s.core.landed := rfl
@[simp] theorem State.advance_core_barEp (s : State) (i : Issue) (stay : Bool) : (s.advance i stay).core.barEp = s.core.barEp := rfl
@[simp] theorem State.advance_core_impr (s : State) (i : Issue) (stay : Bool) : (s.advance i stay).core.impr = s.core.impr := rfl
@[simp] theorem State.advance_core_after (s : State) (i : Issue) (stay : Bool) : (s.advance i stay).core.after = s.core.after := rfl
@[simp] theorem State.advance_core_tookAt (s : State) (i : Issue) (stay : Bool) : (s.advance i stay).core.tookAt = s.core.tookAt := rfl
@[simp] theorem State.advance_core_acq (s : State) (i : Issue) (stay : Bool) : (s.advance i stay).core.acq = s.core.acq := rfl
@[simp] theorem State.advance_core_seen (s : State) (i : Issue) (stay : Bool) : (s.advance i stay).core.seen = s.core.seen := rfl
@[simp] theorem State.advance_core_govel (s : State) (i : Issue) (stay : Bool) : (s.advance i stay).core.govel = s.core.govel := rfl
@[simp] theorem State.advance_core_ovlAt (s : State) (i : Issue) (stay : Bool) : (s.advance i stay).core.ovlAt = s.core.ovlAt := rfl
@[simp] theorem State.advance_core_ghosts (s : State) (i : Issue) (stay : Bool) : (s.advance i stay).core.ghosts = s.core.ghosts := rfl
@[simp] theorem State.advance_core_stopAt (s : State) (i : Issue) (stay : Bool) : (s.advance i stay).core.stopAt = s.core.stopAt := rfl
@[simp] theorem State.advance_core_ring (s : State) (i : Issue) (stay : Bool) : (s.advance i stay).core.ring = s.core.ring := rfl
@[simp] theorem State.advance_core_ringPos (s : State) (i : Issue) (stay : Bool) : (s.advance i stay).core.ringPos = s.core.ringPos := rfl
@[simp] theorem State.advance_core_wp (s : State) (i : Issue) (stay : Bool) : (s.advance i stay).core.wp = s.core.wp := rfl
@[simp] theorem State.landAt_core_place (s : State) (d : Dest) (x due tag : Nat) : (s.landAt d x due tag).core.place = s.core.place := by
  unfold State.landAt; split <;> simp
@[simp] theorem State.landAt_core_team (s : State) (d : Dest) (x due tag : Nat) : (s.landAt d x due tag).core.team = s.core.team := by
  unfold State.landAt; split <;> simp
@[simp] theorem State.landAt_core_rank (s : State) (d : Dest) (x due tag : Nat) : (s.landAt d x due tag).core.rank = s.core.rank := by
  unfold State.landAt; split <;> simp
@[simp] theorem State.landAt_core_s (s : State) (d : Dest) (x due tag : Nat) : (s.landAt d x due tag).core.s = s.core.s := by
  unfold State.landAt; split <;> simp
@[simp] theorem State.landAt_core_p (s : State) (d : Dest) (x due tag : Nat) : (s.landAt d x due tag).core.p = s.core.p := by
  unfold State.landAt; split <;> simp
@[simp] theorem State.landAt_core_v (s : State) (d : Dest) (x due tag : Nat) : (s.landAt d x due tag).core.v = s.core.v := by
  unfold State.landAt; split <;> simp
@[simp] theorem State.landAt_core_ls (s : State) (d : Dest) (x due tag : Nat) : (s.landAt d x due tag).core.ls = s.core.ls := by
  unfold State.landAt; split <;> simp
@[simp] theorem State.landAt_core_code (s : State) (d : Dest) (x due tag : Nat) : (s.landAt d x due tag).core.code = s.core.code := by
  unfold State.landAt; split <;> simp
@[simp] theorem State.landAt_core_lens (s : State) (d : Dest) (x due tag : Nat) : (s.landAt d x due tag).core.lens = s.core.lens := by
  unfold State.landAt; split <;> simp
@[simp] theorem State.landAt_core_csr (s : State) (d : Dest) (x due tag : Nat) : (s.landAt d x due tag).core.csr = s.core.csr := by
  unfold State.landAt; split <;> simp
@[simp] theorem State.landAt_core_dom (s : State) (d : Dest) (x due tag : Nat) : (s.landAt d x due tag).core.dom = s.core.dom := by
  unfold State.landAt; split <;> simp
@[simp] theorem State.landAt_core_lost (s : State) (d : Dest) (x due tag : Nat) : (s.landAt d x due tag).core.lost = s.core.lost := by
  unfold State.landAt; split <;> simp
@[simp] theorem State.landAt_core_bal (s : State) (d : Dest) (x due tag : Nat) : (s.landAt d x due tag).core.bal = s.core.bal := by
  unfold State.landAt; split <;> simp
@[simp] theorem State.landAt_core_refill (s : State) (d : Dest) (x due tag : Nat) : (s.landAt d x due tag).core.refill = s.core.refill := by
  unfold State.landAt; split <;> simp
@[simp] theorem State.landAt_core_chan (s : State) (d : Dest) (x due tag : Nat) : (s.landAt d x due tag).core.chan = s.core.chan := by
  unfold State.landAt; split <;> simp
@[simp] theorem State.landAt_core_arrivals (s : State) (d : Dest) (x due tag : Nat) : (s.landAt d x due tag).core.arrivals = s.core.arrivals := by
  unfold State.landAt; split <;> simp
@[simp] theorem State.landAt_core_gpush (s : State) (d : Dest) (x due tag : Nat) : (s.landAt d x due tag).core.gpush = s.core.gpush := by
  unfold State.landAt; split <;> simp
@[simp] theorem State.landAt_core_thr (s : State) (d : Dest) (x due tag : Nat) : (s.landAt d x due tag).core.thr = s.core.thr := by
  unfold State.landAt; split <;> simp
@[simp] theorem State.landAt_core_hold (s : State) (d : Dest) (x due tag : Nat) : (s.landAt d x due tag).core.hold = s.core.hold := by
  unfold State.landAt; split <;> simp
@[simp] theorem State.landAt_core_region (s : State) (d : Dest) (x due tag : Nat) : (s.landAt d x due tag).core.region = s.core.region := by
  unfold State.landAt; split <;> simp
@[simp] theorem State.landAt_core_handler (s : State) (d : Dest) (x due tag : Nat) : (s.landAt d x due tag).core.handler = s.core.handler := by
  unfold State.landAt; split <;> simp
@[simp] theorem State.landAt_core_restart (s : State) (d : Dest) (x due tag : Nat) : (s.landAt d x due tag).core.restart = s.core.restart := by
  unfold State.landAt; split <;> simp
@[simp] theorem State.landAt_core_isDone (s : State) (d : Dest) (x due tag : Nat) : (s.landAt d x due tag).core.isDone = s.core.isDone := by
  unfold State.landAt; split <;> simp
@[simp] theorem State.landAt_core_stopped (s : State) (d : Dest) (x due tag : Nat) : (s.landAt d x due tag).core.stopped = s.core.stopped := by
  unfold State.landAt; split <;> simp
@[simp] theorem State.landAt_core_lsPend (s : State) (d : Dest) (x due tag : Nat) : (s.landAt d x due tag).core.lsPend = s.core.lsPend := by
  unfold State.landAt; split <;> simp
@[simp] theorem State.landAt_core_counts (s : State) (d : Dest) (x due tag : Nat) : (s.landAt d x due tag).core.counts = s.core.counts := by
  unfold State.landAt; split <;> simp
@[simp] theorem State.landAt_core_ports (s : State) (d : Dest) (x due tag : Nat) : (s.landAt d x due tag).core.ports = s.core.ports := by
  unfold State.landAt; split <;> simp
@[simp] theorem State.landAt_core_opens (s : State) (d : Dest) (x due tag : Nat) : (s.landAt d x due tag).core.opens = s.core.opens := by
  unfold State.landAt; split <;> simp
@[simp] theorem State.landAt_core_ldq (s : State) (d : Dest) (x due tag : Nat) : (s.landAt d x due tag).core.ldq = s.core.ldq := by
  unfold State.landAt; split <;> simp
@[simp] theorem State.landAt_core_stq (s : State) (d : Dest) (x due tag : Nat) : (s.landAt d x due tag).core.stq = s.core.stq := by
  unfold State.landAt; split <;> simp
@[simp] theorem State.landAt_core_tfq (s : State) (d : Dest) (x due tag : Nat) : (s.landAt d x due tag).core.tfq = s.core.tfq := by
  unfold State.landAt; split <;> simp
@[simp] theorem State.landAt_core_mxq (s : State) (d : Dest) (x due tag : Nat) : (s.landAt d x due tag).core.mxq = s.core.mxq := by
  unfold State.landAt; split <;> simp
@[simp] theorem State.landAt_core_owq (s : State) (d : Dest) (x due tag : Nat) : (s.landAt d x due tag).core.owq = s.core.owq := by
  unfold State.landAt; split <;> simp
@[simp] theorem State.landAt_core_qmarks (s : State) (d : Dest) (x due tag : Nat) : (s.landAt d x due tag).core.qmarks = s.core.qmarks := by
  unfold State.landAt; split <;> simp
@[simp] theorem State.landAt_core_pmarks (s : State) (d : Dest) (x due tag : Nat) : (s.landAt d x due tag).core.pmarks = s.core.pmarks := by
  unfold State.landAt; split <;> simp
@[simp] theorem State.landAt_core_q (s : State) (d : Dest) (x due tag : Nat) : (s.landAt d x due tag).core.q = s.core.q := by
  unfold State.landAt; split <;> simp
@[simp] theorem State.landAt_core_nest (s : State) (d : Dest) (x due tag : Nat) : (s.landAt d x due tag).core.nest = s.core.nest := by
  unfold State.landAt; split <;> simp
@[simp] theorem State.landAt_core_gang (s : State) (d : Dest) (x due tag : Nat) : (s.landAt d x due tag).core.gang = s.core.gang := by
  unfold State.landAt; split <;> simp
@[simp] theorem State.landAt_core_gcfg (s : State) (d : Dest) (x due tag : Nat) : (s.landAt d x due tag).core.gcfg = s.core.gcfg := by
  unfold State.landAt; split <;> simp
@[simp] theorem State.landAt_core_gvalid (s : State) (d : Dest) (x due tag : Nat) : (s.landAt d x due tag).core.gvalid = s.core.gvalid := by
  unfold State.landAt; split <;> simp
@[simp] theorem State.landAt_core_rvf (s : State) (d : Dest) (x due tag : Nat) : (s.landAt d x due tag).core.rvf = s.core.rvf := by
  unfold State.landAt; split <;> simp
@[simp] theorem State.landAt_core_gstat (s : State) (d : Dest) (x due tag : Nat) : (s.landAt d x due tag).core.gstat = s.core.gstat := by
  unfold State.landAt; split <;> simp
@[simp] theorem State.landAt_core_gev (s : State) (d : Dest) (x due tag : Nat) : (s.landAt d x due tag).core.gev = s.core.gev := by
  unfold State.landAt; split <;> simp
@[simp] theorem State.landAt_core_gevEnds (s : State) (d : Dest) (x due tag : Nat) : (s.landAt d x due tag).core.gevEnds = s.core.gevEnds := by
  unfold State.landAt; split <;> simp
@[simp] theorem State.landAt_core_gevBusy (s : State) (d : Dest) (x due tag : Nat) : (s.landAt d x due tag).core.gevBusy = s.core.gevBusy := by
  unfold State.landAt; split <;> simp
@[simp] theorem State.landAt_core_rvfOpen (s : State) (d : Dest) (x due tag : Nat) : (s.landAt d x due tag).core.rvfOpen = s.core.rvfOpen := by
  unfold State.landAt; split <;> simp
@[simp] theorem State.landAt_core_rows (s : State) (d : Dest) (x due tag : Nat) : (s.landAt d x due tag).core.rows = s.core.rows := by
  unfold State.landAt; split <;> simp
@[simp] theorem State.landAt_core_landed (s : State) (d : Dest) (x due tag : Nat) : (s.landAt d x due tag).core.landed = s.core.landed := by
  unfold State.landAt; split <;> simp
@[simp] theorem State.landAt_core_barEp (s : State) (d : Dest) (x due tag : Nat) : (s.landAt d x due tag).core.barEp = s.core.barEp := by
  unfold State.landAt; split <;> simp
@[simp] theorem State.landAt_core_impr (s : State) (d : Dest) (x due tag : Nat) : (s.landAt d x due tag).core.impr = s.core.impr := by
  unfold State.landAt; split <;> simp
@[simp] theorem State.landAt_core_after (s : State) (d : Dest) (x due tag : Nat) : (s.landAt d x due tag).core.after = s.core.after := by
  unfold State.landAt; split <;> simp
@[simp] theorem State.landAt_core_tookAt (s : State) (d : Dest) (x due tag : Nat) : (s.landAt d x due tag).core.tookAt = s.core.tookAt := by
  unfold State.landAt; split <;> simp
@[simp] theorem State.landAt_core_acq (s : State) (d : Dest) (x due tag : Nat) : (s.landAt d x due tag).core.acq = s.core.acq := by
  unfold State.landAt; split <;> simp
@[simp] theorem State.landAt_core_seen (s : State) (d : Dest) (x due tag : Nat) : (s.landAt d x due tag).core.seen = s.core.seen := by
  unfold State.landAt; split <;> simp
@[simp] theorem State.landAt_core_govel (s : State) (d : Dest) (x due tag : Nat) : (s.landAt d x due tag).core.govel = s.core.govel := by
  unfold State.landAt; split <;> simp
@[simp] theorem State.landAt_core_ovlAt (s : State) (d : Dest) (x due tag : Nat) : (s.landAt d x due tag).core.ovlAt = s.core.ovlAt := by
  unfold State.landAt; split <;> simp
@[simp] theorem State.landAt_core_ghosts (s : State) (d : Dest) (x due tag : Nat) : (s.landAt d x due tag).core.ghosts = s.core.ghosts := by
  unfold State.landAt; split <;> simp
@[simp] theorem State.landAt_core_stopAt (s : State) (d : Dest) (x due tag : Nat) : (s.landAt d x due tag).core.stopAt = s.core.stopAt := by
  unfold State.landAt; split <;> simp
@[simp] theorem State.landAt_core_ring (s : State) (d : Dest) (x due tag : Nat) : (s.landAt d x due tag).core.ring = s.core.ring := by
  unfold State.landAt; split <;> simp
@[simp] theorem State.landAt_core_ringPos (s : State) (d : Dest) (x due tag : Nat) : (s.landAt d x due tag).core.ringPos = s.core.ringPos := by
  unfold State.landAt; split <;> simp
@[simp] theorem State.landAt_core_wp (s : State) (d : Dest) (x due tag : Nat) : (s.landAt d x due tag).core.wp = s.core.wp := by
  unfold State.landAt; split <;> simp
@[simp] theorem State.land_core_place (s : State) (cls : Nat) (d : Dest) (x tag : Nat) : (s.land cls d x tag).core.place = s.core.place := State.landAt_core_place ..
@[simp] theorem State.land_core_team (s : State) (cls : Nat) (d : Dest) (x tag : Nat) : (s.land cls d x tag).core.team = s.core.team := State.landAt_core_team ..
@[simp] theorem State.land_core_rank (s : State) (cls : Nat) (d : Dest) (x tag : Nat) : (s.land cls d x tag).core.rank = s.core.rank := State.landAt_core_rank ..
@[simp] theorem State.land_core_s (s : State) (cls : Nat) (d : Dest) (x tag : Nat) : (s.land cls d x tag).core.s = s.core.s := State.landAt_core_s ..
@[simp] theorem State.land_core_p (s : State) (cls : Nat) (d : Dest) (x tag : Nat) : (s.land cls d x tag).core.p = s.core.p := State.landAt_core_p ..
@[simp] theorem State.land_core_v (s : State) (cls : Nat) (d : Dest) (x tag : Nat) : (s.land cls d x tag).core.v = s.core.v := State.landAt_core_v ..
@[simp] theorem State.land_core_ls (s : State) (cls : Nat) (d : Dest) (x tag : Nat) : (s.land cls d x tag).core.ls = s.core.ls := State.landAt_core_ls ..
@[simp] theorem State.land_core_code (s : State) (cls : Nat) (d : Dest) (x tag : Nat) : (s.land cls d x tag).core.code = s.core.code := State.landAt_core_code ..
@[simp] theorem State.land_core_lens (s : State) (cls : Nat) (d : Dest) (x tag : Nat) : (s.land cls d x tag).core.lens = s.core.lens := State.landAt_core_lens ..
@[simp] theorem State.land_core_csr (s : State) (cls : Nat) (d : Dest) (x tag : Nat) : (s.land cls d x tag).core.csr = s.core.csr := State.landAt_core_csr ..
@[simp] theorem State.land_core_dom (s : State) (cls : Nat) (d : Dest) (x tag : Nat) : (s.land cls d x tag).core.dom = s.core.dom := State.landAt_core_dom ..
@[simp] theorem State.land_core_lost (s : State) (cls : Nat) (d : Dest) (x tag : Nat) : (s.land cls d x tag).core.lost = s.core.lost := State.landAt_core_lost ..
@[simp] theorem State.land_core_bal (s : State) (cls : Nat) (d : Dest) (x tag : Nat) : (s.land cls d x tag).core.bal = s.core.bal := State.landAt_core_bal ..
@[simp] theorem State.land_core_refill (s : State) (cls : Nat) (d : Dest) (x tag : Nat) : (s.land cls d x tag).core.refill = s.core.refill := State.landAt_core_refill ..
@[simp] theorem State.land_core_chan (s : State) (cls : Nat) (d : Dest) (x tag : Nat) : (s.land cls d x tag).core.chan = s.core.chan := State.landAt_core_chan ..
@[simp] theorem State.land_core_arrivals (s : State) (cls : Nat) (d : Dest) (x tag : Nat) : (s.land cls d x tag).core.arrivals = s.core.arrivals := State.landAt_core_arrivals ..
@[simp] theorem State.land_core_gpush (s : State) (cls : Nat) (d : Dest) (x tag : Nat) : (s.land cls d x tag).core.gpush = s.core.gpush := State.landAt_core_gpush ..
@[simp] theorem State.land_core_thr (s : State) (cls : Nat) (d : Dest) (x tag : Nat) : (s.land cls d x tag).core.thr = s.core.thr := State.landAt_core_thr ..
@[simp] theorem State.land_core_hold (s : State) (cls : Nat) (d : Dest) (x tag : Nat) : (s.land cls d x tag).core.hold = s.core.hold := State.landAt_core_hold ..
@[simp] theorem State.land_core_region (s : State) (cls : Nat) (d : Dest) (x tag : Nat) : (s.land cls d x tag).core.region = s.core.region := State.landAt_core_region ..
@[simp] theorem State.land_core_handler (s : State) (cls : Nat) (d : Dest) (x tag : Nat) : (s.land cls d x tag).core.handler = s.core.handler := State.landAt_core_handler ..
@[simp] theorem State.land_core_restart (s : State) (cls : Nat) (d : Dest) (x tag : Nat) : (s.land cls d x tag).core.restart = s.core.restart := State.landAt_core_restart ..
@[simp] theorem State.land_core_isDone (s : State) (cls : Nat) (d : Dest) (x tag : Nat) : (s.land cls d x tag).core.isDone = s.core.isDone := State.landAt_core_isDone ..
@[simp] theorem State.land_core_stopped (s : State) (cls : Nat) (d : Dest) (x tag : Nat) : (s.land cls d x tag).core.stopped = s.core.stopped := State.landAt_core_stopped ..
@[simp] theorem State.land_core_lsPend (s : State) (cls : Nat) (d : Dest) (x tag : Nat) : (s.land cls d x tag).core.lsPend = s.core.lsPend := State.landAt_core_lsPend ..
@[simp] theorem State.land_core_counts (s : State) (cls : Nat) (d : Dest) (x tag : Nat) : (s.land cls d x tag).core.counts = s.core.counts := State.landAt_core_counts ..
@[simp] theorem State.land_core_ports (s : State) (cls : Nat) (d : Dest) (x tag : Nat) : (s.land cls d x tag).core.ports = s.core.ports := State.landAt_core_ports ..
@[simp] theorem State.land_core_opens (s : State) (cls : Nat) (d : Dest) (x tag : Nat) : (s.land cls d x tag).core.opens = s.core.opens := State.landAt_core_opens ..
@[simp] theorem State.land_core_ldq (s : State) (cls : Nat) (d : Dest) (x tag : Nat) : (s.land cls d x tag).core.ldq = s.core.ldq := State.landAt_core_ldq ..
@[simp] theorem State.land_core_stq (s : State) (cls : Nat) (d : Dest) (x tag : Nat) : (s.land cls d x tag).core.stq = s.core.stq := State.landAt_core_stq ..
@[simp] theorem State.land_core_tfq (s : State) (cls : Nat) (d : Dest) (x tag : Nat) : (s.land cls d x tag).core.tfq = s.core.tfq := State.landAt_core_tfq ..
@[simp] theorem State.land_core_mxq (s : State) (cls : Nat) (d : Dest) (x tag : Nat) : (s.land cls d x tag).core.mxq = s.core.mxq := State.landAt_core_mxq ..
@[simp] theorem State.land_core_owq (s : State) (cls : Nat) (d : Dest) (x tag : Nat) : (s.land cls d x tag).core.owq = s.core.owq := State.landAt_core_owq ..
@[simp] theorem State.land_core_qmarks (s : State) (cls : Nat) (d : Dest) (x tag : Nat) : (s.land cls d x tag).core.qmarks = s.core.qmarks := State.landAt_core_qmarks ..
@[simp] theorem State.land_core_pmarks (s : State) (cls : Nat) (d : Dest) (x tag : Nat) : (s.land cls d x tag).core.pmarks = s.core.pmarks := State.landAt_core_pmarks ..
@[simp] theorem State.land_core_q (s : State) (cls : Nat) (d : Dest) (x tag : Nat) : (s.land cls d x tag).core.q = s.core.q := State.landAt_core_q ..
@[simp] theorem State.land_core_nest (s : State) (cls : Nat) (d : Dest) (x tag : Nat) : (s.land cls d x tag).core.nest = s.core.nest := State.landAt_core_nest ..
@[simp] theorem State.land_core_gang (s : State) (cls : Nat) (d : Dest) (x tag : Nat) : (s.land cls d x tag).core.gang = s.core.gang := State.landAt_core_gang ..
@[simp] theorem State.land_core_gcfg (s : State) (cls : Nat) (d : Dest) (x tag : Nat) : (s.land cls d x tag).core.gcfg = s.core.gcfg := State.landAt_core_gcfg ..
@[simp] theorem State.land_core_gvalid (s : State) (cls : Nat) (d : Dest) (x tag : Nat) : (s.land cls d x tag).core.gvalid = s.core.gvalid := State.landAt_core_gvalid ..
@[simp] theorem State.land_core_rvf (s : State) (cls : Nat) (d : Dest) (x tag : Nat) : (s.land cls d x tag).core.rvf = s.core.rvf := State.landAt_core_rvf ..
@[simp] theorem State.land_core_gstat (s : State) (cls : Nat) (d : Dest) (x tag : Nat) : (s.land cls d x tag).core.gstat = s.core.gstat := State.landAt_core_gstat ..
@[simp] theorem State.land_core_gev (s : State) (cls : Nat) (d : Dest) (x tag : Nat) : (s.land cls d x tag).core.gev = s.core.gev := State.landAt_core_gev ..
@[simp] theorem State.land_core_gevEnds (s : State) (cls : Nat) (d : Dest) (x tag : Nat) : (s.land cls d x tag).core.gevEnds = s.core.gevEnds := State.landAt_core_gevEnds ..
@[simp] theorem State.land_core_gevBusy (s : State) (cls : Nat) (d : Dest) (x tag : Nat) : (s.land cls d x tag).core.gevBusy = s.core.gevBusy := State.landAt_core_gevBusy ..
@[simp] theorem State.land_core_rvfOpen (s : State) (cls : Nat) (d : Dest) (x tag : Nat) : (s.land cls d x tag).core.rvfOpen = s.core.rvfOpen := State.landAt_core_rvfOpen ..
@[simp] theorem State.land_core_rows (s : State) (cls : Nat) (d : Dest) (x tag : Nat) : (s.land cls d x tag).core.rows = s.core.rows := State.landAt_core_rows ..
@[simp] theorem State.land_core_landed (s : State) (cls : Nat) (d : Dest) (x tag : Nat) : (s.land cls d x tag).core.landed = s.core.landed := State.landAt_core_landed ..
@[simp] theorem State.land_core_barEp (s : State) (cls : Nat) (d : Dest) (x tag : Nat) : (s.land cls d x tag).core.barEp = s.core.barEp := State.landAt_core_barEp ..
@[simp] theorem State.land_core_impr (s : State) (cls : Nat) (d : Dest) (x tag : Nat) : (s.land cls d x tag).core.impr = s.core.impr := State.landAt_core_impr ..
@[simp] theorem State.land_core_after (s : State) (cls : Nat) (d : Dest) (x tag : Nat) : (s.land cls d x tag).core.after = s.core.after := State.landAt_core_after ..
@[simp] theorem State.land_core_tookAt (s : State) (cls : Nat) (d : Dest) (x tag : Nat) : (s.land cls d x tag).core.tookAt = s.core.tookAt := State.landAt_core_tookAt ..
@[simp] theorem State.land_core_acq (s : State) (cls : Nat) (d : Dest) (x tag : Nat) : (s.land cls d x tag).core.acq = s.core.acq := State.landAt_core_acq ..
@[simp] theorem State.land_core_seen (s : State) (cls : Nat) (d : Dest) (x tag : Nat) : (s.land cls d x tag).core.seen = s.core.seen := State.landAt_core_seen ..
@[simp] theorem State.land_core_govel (s : State) (cls : Nat) (d : Dest) (x tag : Nat) : (s.land cls d x tag).core.govel = s.core.govel := State.landAt_core_govel ..
@[simp] theorem State.land_core_ovlAt (s : State) (cls : Nat) (d : Dest) (x tag : Nat) : (s.land cls d x tag).core.ovlAt = s.core.ovlAt := State.landAt_core_ovlAt ..
@[simp] theorem State.land_core_ghosts (s : State) (cls : Nat) (d : Dest) (x tag : Nat) : (s.land cls d x tag).core.ghosts = s.core.ghosts := State.landAt_core_ghosts ..
@[simp] theorem State.land_core_stopAt (s : State) (cls : Nat) (d : Dest) (x tag : Nat) : (s.land cls d x tag).core.stopAt = s.core.stopAt := State.landAt_core_stopAt ..
@[simp] theorem State.land_core_ring (s : State) (cls : Nat) (d : Dest) (x tag : Nat) : (s.land cls d x tag).core.ring = s.core.ring := State.landAt_core_ring ..
@[simp] theorem State.land_core_ringPos (s : State) (cls : Nat) (d : Dest) (x tag : Nat) : (s.land cls d x tag).core.ringPos = s.core.ringPos := State.landAt_core_ringPos ..
@[simp] theorem State.land_core_wp (s : State) (cls : Nat) (d : Dest) (x tag : Nat) : (s.land cls d x tag).core.wp = s.core.wp := State.landAt_core_wp ..
@[simp] theorem State.landVAt_core_place (s : State) (due phys x tag : Nat) : (s.landVAt due phys x tag).core.place = s.core.place := State.landAt_core_place ..
@[simp] theorem State.landVAt_core_team (s : State) (due phys x tag : Nat) : (s.landVAt due phys x tag).core.team = s.core.team := State.landAt_core_team ..
@[simp] theorem State.landVAt_core_rank (s : State) (due phys x tag : Nat) : (s.landVAt due phys x tag).core.rank = s.core.rank := State.landAt_core_rank ..
@[simp] theorem State.landVAt_core_s (s : State) (due phys x tag : Nat) : (s.landVAt due phys x tag).core.s = s.core.s := State.landAt_core_s ..
@[simp] theorem State.landVAt_core_p (s : State) (due phys x tag : Nat) : (s.landVAt due phys x tag).core.p = s.core.p := State.landAt_core_p ..
@[simp] theorem State.landVAt_core_v (s : State) (due phys x tag : Nat) : (s.landVAt due phys x tag).core.v = s.core.v := State.landAt_core_v ..
@[simp] theorem State.landVAt_core_ls (s : State) (due phys x tag : Nat) : (s.landVAt due phys x tag).core.ls = s.core.ls := State.landAt_core_ls ..
@[simp] theorem State.landVAt_core_code (s : State) (due phys x tag : Nat) : (s.landVAt due phys x tag).core.code = s.core.code := State.landAt_core_code ..
@[simp] theorem State.landVAt_core_lens (s : State) (due phys x tag : Nat) : (s.landVAt due phys x tag).core.lens = s.core.lens := State.landAt_core_lens ..
@[simp] theorem State.landVAt_core_csr (s : State) (due phys x tag : Nat) : (s.landVAt due phys x tag).core.csr = s.core.csr := State.landAt_core_csr ..
@[simp] theorem State.landVAt_core_dom (s : State) (due phys x tag : Nat) : (s.landVAt due phys x tag).core.dom = s.core.dom := State.landAt_core_dom ..
@[simp] theorem State.landVAt_core_lost (s : State) (due phys x tag : Nat) : (s.landVAt due phys x tag).core.lost = s.core.lost := State.landAt_core_lost ..
@[simp] theorem State.landVAt_core_bal (s : State) (due phys x tag : Nat) : (s.landVAt due phys x tag).core.bal = s.core.bal := State.landAt_core_bal ..
@[simp] theorem State.landVAt_core_refill (s : State) (due phys x tag : Nat) : (s.landVAt due phys x tag).core.refill = s.core.refill := State.landAt_core_refill ..
@[simp] theorem State.landVAt_core_chan (s : State) (due phys x tag : Nat) : (s.landVAt due phys x tag).core.chan = s.core.chan := State.landAt_core_chan ..
@[simp] theorem State.landVAt_core_arrivals (s : State) (due phys x tag : Nat) : (s.landVAt due phys x tag).core.arrivals = s.core.arrivals := State.landAt_core_arrivals ..
@[simp] theorem State.landVAt_core_gpush (s : State) (due phys x tag : Nat) : (s.landVAt due phys x tag).core.gpush = s.core.gpush := State.landAt_core_gpush ..
@[simp] theorem State.landVAt_core_thr (s : State) (due phys x tag : Nat) : (s.landVAt due phys x tag).core.thr = s.core.thr := State.landAt_core_thr ..
@[simp] theorem State.landVAt_core_hold (s : State) (due phys x tag : Nat) : (s.landVAt due phys x tag).core.hold = s.core.hold := State.landAt_core_hold ..
@[simp] theorem State.landVAt_core_region (s : State) (due phys x tag : Nat) : (s.landVAt due phys x tag).core.region = s.core.region := State.landAt_core_region ..
@[simp] theorem State.landVAt_core_handler (s : State) (due phys x tag : Nat) : (s.landVAt due phys x tag).core.handler = s.core.handler := State.landAt_core_handler ..
@[simp] theorem State.landVAt_core_restart (s : State) (due phys x tag : Nat) : (s.landVAt due phys x tag).core.restart = s.core.restart := State.landAt_core_restart ..
@[simp] theorem State.landVAt_core_isDone (s : State) (due phys x tag : Nat) : (s.landVAt due phys x tag).core.isDone = s.core.isDone := State.landAt_core_isDone ..
@[simp] theorem State.landVAt_core_stopped (s : State) (due phys x tag : Nat) : (s.landVAt due phys x tag).core.stopped = s.core.stopped := State.landAt_core_stopped ..
@[simp] theorem State.landVAt_core_lsPend (s : State) (due phys x tag : Nat) : (s.landVAt due phys x tag).core.lsPend = s.core.lsPend := State.landAt_core_lsPend ..
@[simp] theorem State.landVAt_core_counts (s : State) (due phys x tag : Nat) : (s.landVAt due phys x tag).core.counts = s.core.counts := State.landAt_core_counts ..
@[simp] theorem State.landVAt_core_ports (s : State) (due phys x tag : Nat) : (s.landVAt due phys x tag).core.ports = s.core.ports := State.landAt_core_ports ..
@[simp] theorem State.landVAt_core_ldq (s : State) (due phys x tag : Nat) : (s.landVAt due phys x tag).core.ldq = s.core.ldq := State.landAt_core_ldq ..
@[simp] theorem State.landVAt_core_stq (s : State) (due phys x tag : Nat) : (s.landVAt due phys x tag).core.stq = s.core.stq := State.landAt_core_stq ..
@[simp] theorem State.landVAt_core_tfq (s : State) (due phys x tag : Nat) : (s.landVAt due phys x tag).core.tfq = s.core.tfq := State.landAt_core_tfq ..
@[simp] theorem State.landVAt_core_mxq (s : State) (due phys x tag : Nat) : (s.landVAt due phys x tag).core.mxq = s.core.mxq := State.landAt_core_mxq ..
@[simp] theorem State.landVAt_core_owq (s : State) (due phys x tag : Nat) : (s.landVAt due phys x tag).core.owq = s.core.owq := State.landAt_core_owq ..
@[simp] theorem State.landVAt_core_qmarks (s : State) (due phys x tag : Nat) : (s.landVAt due phys x tag).core.qmarks = s.core.qmarks := State.landAt_core_qmarks ..
@[simp] theorem State.landVAt_core_pmarks (s : State) (due phys x tag : Nat) : (s.landVAt due phys x tag).core.pmarks = s.core.pmarks := State.landAt_core_pmarks ..
@[simp] theorem State.landVAt_core_q (s : State) (due phys x tag : Nat) : (s.landVAt due phys x tag).core.q = s.core.q := State.landAt_core_q ..
@[simp] theorem State.landVAt_core_nest (s : State) (due phys x tag : Nat) : (s.landVAt due phys x tag).core.nest = s.core.nest := State.landAt_core_nest ..
@[simp] theorem State.landVAt_core_gang (s : State) (due phys x tag : Nat) : (s.landVAt due phys x tag).core.gang = s.core.gang := State.landAt_core_gang ..
@[simp] theorem State.landVAt_core_gcfg (s : State) (due phys x tag : Nat) : (s.landVAt due phys x tag).core.gcfg = s.core.gcfg := State.landAt_core_gcfg ..
@[simp] theorem State.landVAt_core_gvalid (s : State) (due phys x tag : Nat) : (s.landVAt due phys x tag).core.gvalid = s.core.gvalid := State.landAt_core_gvalid ..
@[simp] theorem State.landVAt_core_rvf (s : State) (due phys x tag : Nat) : (s.landVAt due phys x tag).core.rvf = s.core.rvf := State.landAt_core_rvf ..
@[simp] theorem State.landVAt_core_gstat (s : State) (due phys x tag : Nat) : (s.landVAt due phys x tag).core.gstat = s.core.gstat := State.landAt_core_gstat ..
@[simp] theorem State.landVAt_core_gevEnds (s : State) (due phys x tag : Nat) : (s.landVAt due phys x tag).core.gevEnds = s.core.gevEnds := State.landAt_core_gevEnds ..
@[simp] theorem State.landVAt_core_gevBusy (s : State) (due phys x tag : Nat) : (s.landVAt due phys x tag).core.gevBusy = s.core.gevBusy := State.landAt_core_gevBusy ..
@[simp] theorem State.landVAt_core_rvfOpen (s : State) (due phys x tag : Nat) : (s.landVAt due phys x tag).core.rvfOpen = s.core.rvfOpen := State.landAt_core_rvfOpen ..
@[simp] theorem State.landVAt_core_rows (s : State) (due phys x tag : Nat) : (s.landVAt due phys x tag).core.rows = s.core.rows := State.landAt_core_rows ..
@[simp] theorem State.landVAt_core_landed (s : State) (due phys x tag : Nat) : (s.landVAt due phys x tag).core.landed = s.core.landed := State.landAt_core_landed ..
@[simp] theorem State.landVAt_core_barEp (s : State) (due phys x tag : Nat) : (s.landVAt due phys x tag).core.barEp = s.core.barEp := State.landAt_core_barEp ..
@[simp] theorem State.landVAt_core_impr (s : State) (due phys x tag : Nat) : (s.landVAt due phys x tag).core.impr = s.core.impr := State.landAt_core_impr ..
@[simp] theorem State.landVAt_core_after (s : State) (due phys x tag : Nat) : (s.landVAt due phys x tag).core.after = s.core.after := State.landAt_core_after ..
@[simp] theorem State.landVAt_core_tookAt (s : State) (due phys x tag : Nat) : (s.landVAt due phys x tag).core.tookAt = s.core.tookAt := State.landAt_core_tookAt ..
@[simp] theorem State.landVAt_core_acq (s : State) (due phys x tag : Nat) : (s.landVAt due phys x tag).core.acq = s.core.acq := State.landAt_core_acq ..
@[simp] theorem State.landVAt_core_seen (s : State) (due phys x tag : Nat) : (s.landVAt due phys x tag).core.seen = s.core.seen := State.landAt_core_seen ..
@[simp] theorem State.landVAt_core_govel (s : State) (due phys x tag : Nat) : (s.landVAt due phys x tag).core.govel = s.core.govel := State.landAt_core_govel ..
@[simp] theorem State.landVAt_core_ovlAt (s : State) (due phys x tag : Nat) : (s.landVAt due phys x tag).core.ovlAt = s.core.ovlAt := State.landAt_core_ovlAt ..
@[simp] theorem State.landVAt_core_ghosts (s : State) (due phys x tag : Nat) : (s.landVAt due phys x tag).core.ghosts = s.core.ghosts := State.landAt_core_ghosts ..
@[simp] theorem State.landVAt_core_stopAt (s : State) (due phys x tag : Nat) : (s.landVAt due phys x tag).core.stopAt = s.core.stopAt := State.landAt_core_stopAt ..
@[simp] theorem State.landVAt_core_ring (s : State) (due phys x tag : Nat) : (s.landVAt due phys x tag).core.ring = s.core.ring := State.landAt_core_ring ..
@[simp] theorem State.landVAt_core_ringPos (s : State) (due phys x tag : Nat) : (s.landVAt due phys x tag).core.ringPos = s.core.ringPos := State.landAt_core_ringPos ..
@[simp] theorem State.landVAt_core_wp (s : State) (due phys x tag : Nat) : (s.landVAt due phys x tag).core.wp = s.core.wp := State.landAt_core_wp ..
@[simp] theorem State.usePorts_core_place (s : State) (us : List PortUse) : (s.usePorts us).core.place = s.core.place := rfl
@[simp] theorem State.usePorts_core_team (s : State) (us : List PortUse) : (s.usePorts us).core.team = s.core.team := rfl
@[simp] theorem State.usePorts_core_rank (s : State) (us : List PortUse) : (s.usePorts us).core.rank = s.core.rank := rfl
@[simp] theorem State.usePorts_core_s (s : State) (us : List PortUse) : (s.usePorts us).core.s = s.core.s := rfl
@[simp] theorem State.usePorts_core_p (s : State) (us : List PortUse) : (s.usePorts us).core.p = s.core.p := rfl
@[simp] theorem State.usePorts_core_v (s : State) (us : List PortUse) : (s.usePorts us).core.v = s.core.v := rfl
@[simp] theorem State.usePorts_core_ls (s : State) (us : List PortUse) : (s.usePorts us).core.ls = s.core.ls := rfl
@[simp] theorem State.usePorts_core_code (s : State) (us : List PortUse) : (s.usePorts us).core.code = s.core.code := rfl
@[simp] theorem State.usePorts_core_lens (s : State) (us : List PortUse) : (s.usePorts us).core.lens = s.core.lens := rfl
@[simp] theorem State.usePorts_core_csr (s : State) (us : List PortUse) : (s.usePorts us).core.csr = s.core.csr := rfl
@[simp] theorem State.usePorts_core_dom (s : State) (us : List PortUse) : (s.usePorts us).core.dom = s.core.dom := rfl
@[simp] theorem State.usePorts_core_lost (s : State) (us : List PortUse) : (s.usePorts us).core.lost = s.core.lost := rfl
@[simp] theorem State.usePorts_core_bal (s : State) (us : List PortUse) : (s.usePorts us).core.bal = s.core.bal := rfl
@[simp] theorem State.usePorts_core_refill (s : State) (us : List PortUse) : (s.usePorts us).core.refill = s.core.refill := rfl
@[simp] theorem State.usePorts_core_chan (s : State) (us : List PortUse) : (s.usePorts us).core.chan = s.core.chan := rfl
@[simp] theorem State.usePorts_core_arrivals (s : State) (us : List PortUse) : (s.usePorts us).core.arrivals = s.core.arrivals := rfl
@[simp] theorem State.usePorts_core_gpush (s : State) (us : List PortUse) : (s.usePorts us).core.gpush = s.core.gpush := rfl
@[simp] theorem State.usePorts_core_thr (s : State) (us : List PortUse) : (s.usePorts us).core.thr = s.core.thr := rfl
@[simp] theorem State.usePorts_core_hold (s : State) (us : List PortUse) : (s.usePorts us).core.hold = s.core.hold := rfl
@[simp] theorem State.usePorts_core_region (s : State) (us : List PortUse) : (s.usePorts us).core.region = s.core.region := rfl
@[simp] theorem State.usePorts_core_handler (s : State) (us : List PortUse) : (s.usePorts us).core.handler = s.core.handler := rfl
@[simp] theorem State.usePorts_core_restart (s : State) (us : List PortUse) : (s.usePorts us).core.restart = s.core.restart := rfl
@[simp] theorem State.usePorts_core_isDone (s : State) (us : List PortUse) : (s.usePorts us).core.isDone = s.core.isDone := rfl
@[simp] theorem State.usePorts_core_stopped (s : State) (us : List PortUse) : (s.usePorts us).core.stopped = s.core.stopped := rfl
@[simp] theorem State.usePorts_core_pend (s : State) (us : List PortUse) : (s.usePorts us).core.pend = s.core.pend := rfl
@[simp] theorem State.usePorts_core_lsPend (s : State) (us : List PortUse) : (s.usePorts us).core.lsPend = s.core.lsPend := rfl
@[simp] theorem State.usePorts_core_counts (s : State) (us : List PortUse) : (s.usePorts us).core.counts = s.core.counts := rfl
@[simp] theorem State.usePorts_core_opens (s : State) (us : List PortUse) : (s.usePorts us).core.opens = s.core.opens := rfl
@[simp] theorem State.usePorts_core_ldq (s : State) (us : List PortUse) : (s.usePorts us).core.ldq = s.core.ldq := rfl
@[simp] theorem State.usePorts_core_stq (s : State) (us : List PortUse) : (s.usePorts us).core.stq = s.core.stq := rfl
@[simp] theorem State.usePorts_core_tfq (s : State) (us : List PortUse) : (s.usePorts us).core.tfq = s.core.tfq := rfl
@[simp] theorem State.usePorts_core_mxq (s : State) (us : List PortUse) : (s.usePorts us).core.mxq = s.core.mxq := rfl
@[simp] theorem State.usePorts_core_owq (s : State) (us : List PortUse) : (s.usePorts us).core.owq = s.core.owq := rfl
@[simp] theorem State.usePorts_core_qmarks (s : State) (us : List PortUse) : (s.usePorts us).core.qmarks = s.core.qmarks := rfl
@[simp] theorem State.usePorts_core_pmarks (s : State) (us : List PortUse) : (s.usePorts us).core.pmarks = s.core.pmarks := rfl
@[simp] theorem State.usePorts_core_q (s : State) (us : List PortUse) : (s.usePorts us).core.q = s.core.q := rfl
@[simp] theorem State.usePorts_core_nest (s : State) (us : List PortUse) : (s.usePorts us).core.nest = s.core.nest := rfl
@[simp] theorem State.usePorts_core_gang (s : State) (us : List PortUse) : (s.usePorts us).core.gang = s.core.gang := rfl
@[simp] theorem State.usePorts_core_gcfg (s : State) (us : List PortUse) : (s.usePorts us).core.gcfg = s.core.gcfg := rfl
@[simp] theorem State.usePorts_core_gvalid (s : State) (us : List PortUse) : (s.usePorts us).core.gvalid = s.core.gvalid := rfl
@[simp] theorem State.usePorts_core_rvf (s : State) (us : List PortUse) : (s.usePorts us).core.rvf = s.core.rvf := rfl
@[simp] theorem State.usePorts_core_gstat (s : State) (us : List PortUse) : (s.usePorts us).core.gstat = s.core.gstat := rfl
@[simp] theorem State.usePorts_core_gev (s : State) (us : List PortUse) : (s.usePorts us).core.gev = s.core.gev := rfl
@[simp] theorem State.usePorts_core_gevEnds (s : State) (us : List PortUse) : (s.usePorts us).core.gevEnds = s.core.gevEnds := rfl
@[simp] theorem State.usePorts_core_gevBusy (s : State) (us : List PortUse) : (s.usePorts us).core.gevBusy = s.core.gevBusy := rfl
@[simp] theorem State.usePorts_core_rvfOpen (s : State) (us : List PortUse) : (s.usePorts us).core.rvfOpen = s.core.rvfOpen := rfl
@[simp] theorem State.usePorts_core_rows (s : State) (us : List PortUse) : (s.usePorts us).core.rows = s.core.rows := rfl
@[simp] theorem State.usePorts_core_landed (s : State) (us : List PortUse) : (s.usePorts us).core.landed = s.core.landed := rfl
@[simp] theorem State.usePorts_core_barEp (s : State) (us : List PortUse) : (s.usePorts us).core.barEp = s.core.barEp := rfl
@[simp] theorem State.usePorts_core_impr (s : State) (us : List PortUse) : (s.usePorts us).core.impr = s.core.impr := rfl
@[simp] theorem State.usePorts_core_after (s : State) (us : List PortUse) : (s.usePorts us).core.after = s.core.after := rfl
@[simp] theorem State.usePorts_core_tookAt (s : State) (us : List PortUse) : (s.usePorts us).core.tookAt = s.core.tookAt := rfl
@[simp] theorem State.usePorts_core_acq (s : State) (us : List PortUse) : (s.usePorts us).core.acq = s.core.acq := rfl
@[simp] theorem State.usePorts_core_seen (s : State) (us : List PortUse) : (s.usePorts us).core.seen = s.core.seen := rfl
@[simp] theorem State.usePorts_core_govel (s : State) (us : List PortUse) : (s.usePorts us).core.govel = s.core.govel := rfl
@[simp] theorem State.usePorts_core_ovlAt (s : State) (us : List PortUse) : (s.usePorts us).core.ovlAt = s.core.ovlAt := rfl
@[simp] theorem State.usePorts_core_ghosts (s : State) (us : List PortUse) : (s.usePorts us).core.ghosts = s.core.ghosts := rfl
@[simp] theorem State.usePorts_core_stopAt (s : State) (us : List PortUse) : (s.usePorts us).core.stopAt = s.core.stopAt := rfl
@[simp] theorem State.usePorts_core_ring (s : State) (us : List PortUse) : (s.usePorts us).core.ring = s.core.ring := rfl
@[simp] theorem State.usePorts_core_ringPos (s : State) (us : List PortUse) : (s.usePorts us).core.ringPos = s.core.ringPos := rfl
@[simp] theorem State.usePorts_core_wp (s : State) (us : List PortUse) : (s.usePorts us).core.wp = s.core.wp := rfl
@[simp] theorem State.countAt_core_place (s : State) (tid sat ftz nan due : Nat) : (s.countAt tid sat ftz nan due).core.place = s.core.place := by
  unfold State.countAt; split <;> rfl
@[simp] theorem State.countAt_core_team (s : State) (tid sat ftz nan due : Nat) : (s.countAt tid sat ftz nan due).core.team = s.core.team := by
  unfold State.countAt; split <;> rfl
@[simp] theorem State.countAt_core_rank (s : State) (tid sat ftz nan due : Nat) : (s.countAt tid sat ftz nan due).core.rank = s.core.rank := by
  unfold State.countAt; split <;> rfl
@[simp] theorem State.countAt_core_s (s : State) (tid sat ftz nan due : Nat) : (s.countAt tid sat ftz nan due).core.s = s.core.s := by
  unfold State.countAt; split <;> rfl
@[simp] theorem State.countAt_core_p (s : State) (tid sat ftz nan due : Nat) : (s.countAt tid sat ftz nan due).core.p = s.core.p := by
  unfold State.countAt; split <;> rfl
@[simp] theorem State.countAt_core_v (s : State) (tid sat ftz nan due : Nat) : (s.countAt tid sat ftz nan due).core.v = s.core.v := by
  unfold State.countAt; split <;> rfl
@[simp] theorem State.countAt_core_ls (s : State) (tid sat ftz nan due : Nat) : (s.countAt tid sat ftz nan due).core.ls = s.core.ls := by
  unfold State.countAt; split <;> rfl
@[simp] theorem State.countAt_core_code (s : State) (tid sat ftz nan due : Nat) : (s.countAt tid sat ftz nan due).core.code = s.core.code := by
  unfold State.countAt; split <;> rfl
@[simp] theorem State.countAt_core_lens (s : State) (tid sat ftz nan due : Nat) : (s.countAt tid sat ftz nan due).core.lens = s.core.lens := by
  unfold State.countAt; split <;> rfl
@[simp] theorem State.countAt_core_csr (s : State) (tid sat ftz nan due : Nat) : (s.countAt tid sat ftz nan due).core.csr = s.core.csr := by
  unfold State.countAt; split <;> rfl
@[simp] theorem State.countAt_core_dom (s : State) (tid sat ftz nan due : Nat) : (s.countAt tid sat ftz nan due).core.dom = s.core.dom := by
  unfold State.countAt; split <;> rfl
@[simp] theorem State.countAt_core_lost (s : State) (tid sat ftz nan due : Nat) : (s.countAt tid sat ftz nan due).core.lost = s.core.lost := by
  unfold State.countAt; split <;> rfl
@[simp] theorem State.countAt_core_bal (s : State) (tid sat ftz nan due : Nat) : (s.countAt tid sat ftz nan due).core.bal = s.core.bal := by
  unfold State.countAt; split <;> rfl
@[simp] theorem State.countAt_core_refill (s : State) (tid sat ftz nan due : Nat) : (s.countAt tid sat ftz nan due).core.refill = s.core.refill := by
  unfold State.countAt; split <;> rfl
@[simp] theorem State.countAt_core_chan (s : State) (tid sat ftz nan due : Nat) : (s.countAt tid sat ftz nan due).core.chan = s.core.chan := by
  unfold State.countAt; split <;> rfl
@[simp] theorem State.countAt_core_arrivals (s : State) (tid sat ftz nan due : Nat) : (s.countAt tid sat ftz nan due).core.arrivals = s.core.arrivals := by
  unfold State.countAt; split <;> rfl
@[simp] theorem State.countAt_core_gpush (s : State) (tid sat ftz nan due : Nat) : (s.countAt tid sat ftz nan due).core.gpush = s.core.gpush := by
  unfold State.countAt; split <;> rfl
@[simp] theorem State.countAt_core_thr (s : State) (tid sat ftz nan due : Nat) : (s.countAt tid sat ftz nan due).core.thr = s.core.thr := by
  unfold State.countAt; split <;> rfl
@[simp] theorem State.countAt_core_hold (s : State) (tid sat ftz nan due : Nat) : (s.countAt tid sat ftz nan due).core.hold = s.core.hold := by
  unfold State.countAt; split <;> rfl
@[simp] theorem State.countAt_core_region (s : State) (tid sat ftz nan due : Nat) : (s.countAt tid sat ftz nan due).core.region = s.core.region := by
  unfold State.countAt; split <;> rfl
@[simp] theorem State.countAt_core_handler (s : State) (tid sat ftz nan due : Nat) : (s.countAt tid sat ftz nan due).core.handler = s.core.handler := by
  unfold State.countAt; split <;> rfl
@[simp] theorem State.countAt_core_restart (s : State) (tid sat ftz nan due : Nat) : (s.countAt tid sat ftz nan due).core.restart = s.core.restart := by
  unfold State.countAt; split <;> rfl
@[simp] theorem State.countAt_core_isDone (s : State) (tid sat ftz nan due : Nat) : (s.countAt tid sat ftz nan due).core.isDone = s.core.isDone := by
  unfold State.countAt; split <;> rfl
@[simp] theorem State.countAt_core_stopped (s : State) (tid sat ftz nan due : Nat) : (s.countAt tid sat ftz nan due).core.stopped = s.core.stopped := by
  unfold State.countAt; split <;> rfl
@[simp] theorem State.countAt_core_pend (s : State) (tid sat ftz nan due : Nat) : (s.countAt tid sat ftz nan due).core.pend = s.core.pend := by
  unfold State.countAt; split <;> rfl
@[simp] theorem State.countAt_core_lsPend (s : State) (tid sat ftz nan due : Nat) : (s.countAt tid sat ftz nan due).core.lsPend = s.core.lsPend := by
  unfold State.countAt; split <;> rfl
@[simp] theorem State.countAt_core_ports (s : State) (tid sat ftz nan due : Nat) : (s.countAt tid sat ftz nan due).core.ports = s.core.ports := by
  unfold State.countAt; split <;> rfl
@[simp] theorem State.countAt_core_opens (s : State) (tid sat ftz nan due : Nat) : (s.countAt tid sat ftz nan due).core.opens = s.core.opens := by
  unfold State.countAt; split <;> rfl
@[simp] theorem State.countAt_core_ldq (s : State) (tid sat ftz nan due : Nat) : (s.countAt tid sat ftz nan due).core.ldq = s.core.ldq := by
  unfold State.countAt; split <;> rfl
@[simp] theorem State.countAt_core_stq (s : State) (tid sat ftz nan due : Nat) : (s.countAt tid sat ftz nan due).core.stq = s.core.stq := by
  unfold State.countAt; split <;> rfl
@[simp] theorem State.countAt_core_tfq (s : State) (tid sat ftz nan due : Nat) : (s.countAt tid sat ftz nan due).core.tfq = s.core.tfq := by
  unfold State.countAt; split <;> rfl
@[simp] theorem State.countAt_core_mxq (s : State) (tid sat ftz nan due : Nat) : (s.countAt tid sat ftz nan due).core.mxq = s.core.mxq := by
  unfold State.countAt; split <;> rfl
@[simp] theorem State.countAt_core_owq (s : State) (tid sat ftz nan due : Nat) : (s.countAt tid sat ftz nan due).core.owq = s.core.owq := by
  unfold State.countAt; split <;> rfl
@[simp] theorem State.countAt_core_qmarks (s : State) (tid sat ftz nan due : Nat) : (s.countAt tid sat ftz nan due).core.qmarks = s.core.qmarks := by
  unfold State.countAt; split <;> rfl
@[simp] theorem State.countAt_core_pmarks (s : State) (tid sat ftz nan due : Nat) : (s.countAt tid sat ftz nan due).core.pmarks = s.core.pmarks := by
  unfold State.countAt; split <;> rfl
@[simp] theorem State.countAt_core_q (s : State) (tid sat ftz nan due : Nat) : (s.countAt tid sat ftz nan due).core.q = s.core.q := by
  unfold State.countAt; split <;> rfl
@[simp] theorem State.countAt_core_nest (s : State) (tid sat ftz nan due : Nat) : (s.countAt tid sat ftz nan due).core.nest = s.core.nest := by
  unfold State.countAt; split <;> rfl
@[simp] theorem State.countAt_core_gang (s : State) (tid sat ftz nan due : Nat) : (s.countAt tid sat ftz nan due).core.gang = s.core.gang := by
  unfold State.countAt; split <;> rfl
@[simp] theorem State.countAt_core_gcfg (s : State) (tid sat ftz nan due : Nat) : (s.countAt tid sat ftz nan due).core.gcfg = s.core.gcfg := by
  unfold State.countAt; split <;> rfl
@[simp] theorem State.countAt_core_gvalid (s : State) (tid sat ftz nan due : Nat) : (s.countAt tid sat ftz nan due).core.gvalid = s.core.gvalid := by
  unfold State.countAt; split <;> rfl
@[simp] theorem State.countAt_core_rvf (s : State) (tid sat ftz nan due : Nat) : (s.countAt tid sat ftz nan due).core.rvf = s.core.rvf := by
  unfold State.countAt; split <;> rfl
@[simp] theorem State.countAt_core_gstat (s : State) (tid sat ftz nan due : Nat) : (s.countAt tid sat ftz nan due).core.gstat = s.core.gstat := by
  unfold State.countAt; split <;> rfl
@[simp] theorem State.countAt_core_gev (s : State) (tid sat ftz nan due : Nat) : (s.countAt tid sat ftz nan due).core.gev = s.core.gev := by
  unfold State.countAt; split <;> rfl
@[simp] theorem State.countAt_core_gevEnds (s : State) (tid sat ftz nan due : Nat) : (s.countAt tid sat ftz nan due).core.gevEnds = s.core.gevEnds := by
  unfold State.countAt; split <;> rfl
@[simp] theorem State.countAt_core_gevBusy (s : State) (tid sat ftz nan due : Nat) : (s.countAt tid sat ftz nan due).core.gevBusy = s.core.gevBusy := by
  unfold State.countAt; split <;> rfl
@[simp] theorem State.countAt_core_rvfOpen (s : State) (tid sat ftz nan due : Nat) : (s.countAt tid sat ftz nan due).core.rvfOpen = s.core.rvfOpen := by
  unfold State.countAt; split <;> rfl
@[simp] theorem State.countAt_core_rows (s : State) (tid sat ftz nan due : Nat) : (s.countAt tid sat ftz nan due).core.rows = s.core.rows := by
  unfold State.countAt; split <;> rfl
@[simp] theorem State.countAt_core_landed (s : State) (tid sat ftz nan due : Nat) : (s.countAt tid sat ftz nan due).core.landed = s.core.landed := by
  unfold State.countAt; split <;> rfl
@[simp] theorem State.countAt_core_barEp (s : State) (tid sat ftz nan due : Nat) : (s.countAt tid sat ftz nan due).core.barEp = s.core.barEp := by
  unfold State.countAt; split <;> rfl
@[simp] theorem State.countAt_core_impr (s : State) (tid sat ftz nan due : Nat) : (s.countAt tid sat ftz nan due).core.impr = s.core.impr := by
  unfold State.countAt; split <;> rfl
@[simp] theorem State.countAt_core_after (s : State) (tid sat ftz nan due : Nat) : (s.countAt tid sat ftz nan due).core.after = s.core.after := by
  unfold State.countAt; split <;> rfl
@[simp] theorem State.countAt_core_tookAt (s : State) (tid sat ftz nan due : Nat) : (s.countAt tid sat ftz nan due).core.tookAt = s.core.tookAt := by
  unfold State.countAt; split <;> rfl
@[simp] theorem State.countAt_core_acq (s : State) (tid sat ftz nan due : Nat) : (s.countAt tid sat ftz nan due).core.acq = s.core.acq := by
  unfold State.countAt; split <;> rfl
@[simp] theorem State.countAt_core_seen (s : State) (tid sat ftz nan due : Nat) : (s.countAt tid sat ftz nan due).core.seen = s.core.seen := by
  unfold State.countAt; split <;> rfl
@[simp] theorem State.countAt_core_govel (s : State) (tid sat ftz nan due : Nat) : (s.countAt tid sat ftz nan due).core.govel = s.core.govel := by
  unfold State.countAt; split <;> rfl
@[simp] theorem State.countAt_core_ovlAt (s : State) (tid sat ftz nan due : Nat) : (s.countAt tid sat ftz nan due).core.ovlAt = s.core.ovlAt := by
  unfold State.countAt; split <;> rfl
@[simp] theorem State.countAt_core_ghosts (s : State) (tid sat ftz nan due : Nat) : (s.countAt tid sat ftz nan due).core.ghosts = s.core.ghosts := by
  unfold State.countAt; split <;> rfl
@[simp] theorem State.countAt_core_stopAt (s : State) (tid sat ftz nan due : Nat) : (s.countAt tid sat ftz nan due).core.stopAt = s.core.stopAt := by
  unfold State.countAt; split <;> rfl
@[simp] theorem State.countAt_core_ring (s : State) (tid sat ftz nan due : Nat) : (s.countAt tid sat ftz nan due).core.ring = s.core.ring := by
  unfold State.countAt; split <;> rfl
@[simp] theorem State.countAt_core_ringPos (s : State) (tid sat ftz nan due : Nat) : (s.countAt tid sat ftz nan due).core.ringPos = s.core.ringPos := by
  unfold State.countAt; split <;> rfl
@[simp] theorem State.countAt_core_wp (s : State) (tid sat ftz nan due : Nat) : (s.countAt tid sat ftz nan due).core.wp = s.core.wp := by
  unfold State.countAt; split <;> rfl

end Sys2Proof.Machine
end

