-- ==== Sys2Proof/Laws/Far.lean ====
section
/-! SUPPORT. Every operation that writes far memory keeps its canonical form, and what each of them reads back. -/

namespace Sys2Proof.Machine

/-- Dropping entries keeps the canonical form. -/
theorem wfFrom_filter {α : Type} [DecidableEq α] {d : α} (p : Nat × α → Bool) {lo : Nat} {m : SMap α} (w : wfFrom d lo m = true) :
    wfFrom d lo (m.filter p) = true := by
  induction m generalizing lo with
  | nil => rfl
  | cons e m ih =>
    obtain ⟨k, v⟩ := e
    simp only [wfFrom, Bool.and_eq_true, decide_eq_true_eq] at w
    by_cases h : p (k, v) = true
    · rw [List.filter_cons_of_pos h]
      simp only [wfFrom, Bool.and_eq_true, decide_eq_true_eq]
      exact ⟨w.1, ih w.2⟩
    · rw [List.filter_cons_of_neg h]
      exact wfFrom_mono (by omega) (ih w.2)

/-- A run of steps that each keep the canonical form keeps it. -/
theorem foldl_wf {α : Type} (f : Memory → α → Memory) (h : ∀ m e, m.wf = true → (f m e).wf = true) (es : List α) {m : Memory}
    (w : m.wf = true) : (es.foldl f m).wf = true := by
  induction es generalizing m with
  | nil => exact w
  | cons e es ih => exact ih (h m e w)

/-- A run of single writes keeps the canonical form. -/
theorem writes_wf (cells : List (Nat × Byte)) {m : Memory} (w : m.wf = true) :
    (cells.foldl (fun m e => Memory.write m e.1 e.2) m).wf = true := by
  exact foldl_wf _ (fun _ _ h => Memory.write_wf h _ _) cells w

theorem fillGranule_wf {s : State} (w : s.mem.wf = true) (dpa : Nat) : (s.fillGranule dpa).mem.wf = true := by
  simp only [State.fillGranule]
  generalize List.replicate 32 (0#8 : Byte) = bs
  exact Memory.writeAll_wf w _ bs

/-- A machine check writes no far memory. -/
theorem machineCheck_mem (s : State) (ctx va finder : Nat) : (s.machineCheck ctx va finder).mem = s.mem := by
  have raise (ts : List Team) (t : Trap) (s : State) : (ts.foldl (fun s tm => s.raiseTeam tm.id t) s).mem = s.mem := by
    induction ts generalizing s with
    | nil => rfl
    | cons u us ih => rw [List.foldl_cons, ih]; rfl
  unfold State.machineCheck
  split
  · rfl
  · dsimp only
    split
    · exact raise _ _ s
    · split <;> rfl

theorem homeRead_wf {s : State} (w : s.mem.wf = true) (ctx va dpa n : Nat) (ecc : Bool) : (s.homeRead ctx va dpa n ecc).1.mem.wf = true := by
  unfold State.homeRead
  split
  · simpa [machineCheck_mem] using fillGranule_wf w dpa
  · exact w

theorem homeWrite_wf {s : State} (w : s.mem.wf = true) (ctx va : Nat) (cells : List (Nat × Byte)) (ecc : Bool) :
    (s.homeWrite ctx va cells ecc).mem.wf = true := by
  unfold State.homeWrite
  split
  · exact w
  · rename_i d b es
    have h : (if decide (((d, b) :: es).length < 32) then
        (if ecc then (s.fillGranule d).machineCheck ctx va 1 else s.eccCount d) else s).mem.wf = true := by
      split
      · split
        · simpa [machineCheck_mem] using fillGranule_wf w _
        · exact w
      · exact w
    exact writes_wf _ h

theorem poke_wf {s : State} (w : s.mem.wf = true) (pasid va : Nat) (bs : List Byte) : (s.poke pasid va bs).mem.wf = true := by
  unfold State.poke
  refine foldl_wf _ (fun m e h => ?_) _ w
  split
  · exact h
  · split
    · exact h
    · exact Memory.write_wf h _ _

/-- Keeping a granule's earlier contents changes nothing but that list and its count. -/
@[simp] theorem State.keepPast_mem (s : State) (dpa : Nat) : (s.keepPast dpa).mem = s.mem := rfl
@[simp] theorem State.keepPast_core (s : State) (dpa : Nat) : (s.keepPast dpa).core = s.core := rfl

/-- A core that has seen every action on a granule reads what the granule holds (R263). -/
theorem State.asSeen_of_none {s : State} {dpa : Nat} (h : s.earlier dpa = []) (n : Nat) (now : List Byte) : s.asSeen dpa n now = now := by
  unfold State.asSeen
  rw [h]
  rfl

theorem copyRun_wf {m : Memory} (w : m.wf = true) (src dst n : Nat) : (m.copyRun src dst n).wf = true :=
  foldl_wf _ (fun _ _ h => Memory.write_wf h _ _) _ (wfFrom_filter _ w)

theorem writeLeaves_mem (s : State) : s.writeLeaves.mem = s.mem := by
  unfold State.writeLeaves
  dsimp only
  split <;> rfl

/-- Moving a region's storage keeps the canonical form (R85). -/
theorem rehome_wf {s : State} (w : s.mem.wf = true) (old new : Homed) : (s.rehome old new).mem.wf = true := by
  unfold State.rehome
  rw [writeLeaves_mem]
  exact foldl_wf _ (fun _ _ h => copyRun_wf h _ _ _) _ w

/-- A partition switch keeps the canonical form (R70). -/
theorem leavePartition_wf {s : State} (w : s.mem.wf = true) (dies : Nat) : (s.leavePartition dies).mem.wf = true := by
  unfold State.leavePartition
  generalize (List.range 24).filter _ = ds
  induction ds generalizing s with
  | nil => exact w
  | cons d ds ih => exact ih (s := s.islandThroughOff d) (wfFrom_filter _ w)

theorem zeroSubbank_wf {s : State} (w : s.mem.wf = true) (die pan bank : Nat) : (s.zeroSubbank die pan bank).mem.wf = true :=
  wfFrom_filter _ w

end Sys2Proof.Machine
end

