-- ==== Sys2Proof/Laws/Issue.lean ====
section
/-! SUPPORT. What the issue of a word answers, said once: it runs, is guarded off, or traps. -/

namespace Sys2Proof.Machine

theorem firstCause_nil : firstCause [] = none := rfl

/-- A list of causes has a first cause unless it is empty. -/
theorem firstCause_eq_none {ts : List Trap} : firstCause ts = none ↔ ts = [] := by
  cases ts with
  | nil => simp [firstCause]
  | cons t ts =>
    simp only [firstCause, reduceCtorEq, iff_false]
    cases firstCause ts with
    | none => simp
    | some u => by_cases h : u.code < t.code <;> simp [h]

/-- The first cause is one of them. -/
theorem firstCause_mem {ts : List Trap} {t : Trap} (h : firstCause ts = some t) : t ∈ ts := by
  induction ts generalizing t with
  | nil => simp [firstCause] at h
  | cons u us ih =>
    simp only [firstCause] at h
    cases hu : firstCause us with
    | none => rw [hu] at h; simp at h; simp [h]
    | some v =>
      rw [hu] at h
      by_cases c : v.code < u.code
      · simp [c] at h; subst h; exact List.mem_cons_of_mem _ (ih hu)
      · simp [c] at h; simp [h]

/-- Where every cause is the same trap, that is the first cause. -/
theorem firstCause_single (t : Trap) : firstCause [t] = some t := rfl

/-- A placed word without causes leaves its slot and has its effect. -/
theorem issue_runs {s : State} {i : Issue} {causes : State → List Trap} {effect : State → State} {stay : Bool}
    (h : Runs s i) (hc : causes s = []) : s.issue i causes effect stay = .next (effect (s.advance i stay)) := by
  obtain ⟨⟨h1, h0, h2⟩, h3⟩ := h
  unfold State.issue
  cases hg : i.g with
  | none => simp [h1, h0, h2, hc, firstCause]
  | some g => simp [h1, h0, h2, hc, firstCause, h3 g hg]

/-- A word without a guard runs where it is placed. -/
theorem runs_of_stands {s : State} {i : Issue} (h : Stands s i) (hg : i.g = none) : Runs s i :=
  ⟨h, by simp [hg]⟩

/-- A placed word that runs into causes takes the first of them. -/
theorem issue_traps {s : State} {i : Issue} {causes : State → List Trap} {effect : State → State} {stay : Bool} {t : Trap}
    (h : Runs s i) (hc : firstCause (causes s) = some t) : s.issue i causes effect stay = .next (s.takeTrap t) := by
  obtain ⟨⟨h1, h0, h2⟩, h3⟩ := h
  unfold State.issue
  cases hg : i.g with
  | none => simp [h1, h0, h2, hc]
  | some g => simp [h1, h0, h2, hc, h3 g hg]

/-- A guarded-off synchronous word leaves its slot and does nothing else (R45). -/
theorem issue_off {s : State} {i : Issue} {causes : State → List Trap} {effect : State → State} {stay : Bool}
    (h : GuardedOff s i) (ha : i.async = none) : s.issue i causes effect stay = .next (s.advance i) := by
  obtain ⟨⟨h1, h0, h2⟩, g, hg, hoff⟩ := h
  unfold State.issue
  simp [h1, h0, h2, hg, hoff, ha, firstCause]

/-- A guarded-off command leaves its slot and pushes later (R45). -/
theorem issue_off_async {s : State} {i : Issue} {causes : State → List Trap} {effect : State → State} {stay : Bool}
    {k : Nat} (h : GuardedOff s i) (ha : i.async = some k) :
    s.issue i causes effect stay
      = .next ((s.advance i).pushLater 15 ⟨pushRank (if i.st = .m then 0 else 1) 0, k, i.st.num, 0xFFFF⟩) := by
  obtain ⟨⟨h1, h0, h2⟩, g, hg, hoff⟩ := h
  unfold State.issue
  simp [h1, h0, h2, hg, hoff, ha, firstCause]

/-- Everything an issue can answer: a trap, the slot alone, the slot and a push to come, or the slot and the effect. -/
theorem issue_cases {s : State} {i : Issue} {causes : State → List Trap} {effect : State → State} {stay : Bool}
    {t : State} (h : s.issue i causes effect stay = .next t) :
    Trapped s t
    ∨ (GuardedOff s i ∧ i.async = none ∧ t = s.advance i)
    ∨ (GuardedOff s i ∧ ∃ k, i.async = some k
        ∧ t = (s.advance i).pushLater 15 ⟨pushRank (if i.st = .m then 0 else 1) 0, k, i.st.num, 0xFFFF⟩)
    ∨ (Runs s i ∧ causes s = [] ∧ t = effect (s.advance i stay)) := by
  unfold State.issue at h
  have early {l : List Trap} (hl : firstCause l = none) (hsub : s.placeTraps i ++ i.enc ++ s.contractTraps i <+: l) :
      Stands s i := by
    have : l = [] := firstCause_eq_none.1 hl
    simpa [this, List.prefix_nil, List.append_eq_nil_iff, Stands] using hsub
  cases hg : i.g with
  | none =>
    simp only [hg, Option.map_none] at h
    cases hf : firstCause (s.placeTraps i ++ i.enc ++ s.contractTraps i ++ causes s) with
    | some tr => rw [hf] at h; exact .inl ⟨tr, (Host.Outcome.next.inj h).symm⟩
    | none =>
      rw [hf] at h
      have h := Host.Outcome.next.inj h
      refine .inr (.inr (.inr ⟨⟨early hf (List.prefix_append _ _), by simp [hg]⟩, ?_, h.symm⟩))
      exact (List.append_eq_nil_iff.1 (firstCause_eq_none.1 hf)).2
  | some g =>
    simp only [hg, Option.map_some] at h
    cases hoff : s.guardedOff g with
    | true =>
      simp only [hoff] at h
      cases hf : firstCause (s.placeTraps i ++ i.enc ++ s.contractTraps i) with
      | some tr => rw [hf] at h; exact .inl ⟨tr, (Host.Outcome.next.inj h).symm⟩
      | none =>
        have off : GuardedOff s i := ⟨early hf (List.prefix_rfl), g, hg, hoff⟩
        simp only [hf] at h
        cases ha : i.async with
        | none => simp [ha] at h; exact .inr (.inl ⟨off, rfl, h.symm⟩)
        | some k => simp [ha] at h; exact .inr (.inr (.inl ⟨off, k, rfl, h.symm⟩))
    | false =>
      simp only [hoff] at h
      cases hf : firstCause (s.placeTraps i ++ i.enc ++ s.contractTraps i ++ causes s) with
      | some tr => rw [hf] at h; exact .inl ⟨tr, (Host.Outcome.next.inj h).symm⟩
      | none =>
        rw [hf] at h
        have h := Host.Outcome.next.inj h
        refine .inr (.inr (.inr ⟨⟨early hf (List.prefix_append _ _), ?_⟩, ?_, h.symm⟩))
        · intro g' hg'
          rw [hg] at hg'
          obtain rfl := Option.some.inj hg'
          exact hoff
        · exact (List.append_eq_nil_iff.1 (firstCause_eq_none.1 hf)).2

end Sys2Proof.Machine
end

