-- ==== Sys2Proof/Laws/Ops.lean ====
section
/-! SUPPORT. What the shared operations can do, said once each: writes to the local store, results of the V strand,
taking a trap, returning from one. -/

namespace Sys2Proof.Machine

/-- A write by the core port puts bytes in flight and marks windows; nothing else changes. -/
theorem writeLsAt_only (s : State) (due : Nat) (ws : List (Nat × Byte)) :
    s.writeLsAt due ws = { s with core := { s.core with
      lsPend := (s.writeLsAt due ws).core.lsPend, opens := (s.writeLsAt due ws).core.opens } } := by
  rfl

/-- A V-strand result joins those in flight, and may mark a nest's tile or a running segment; nothing else changes. -/
theorem landVAt_only (s : State) (due phys x tag : Nat) :
    s.landVAt due phys x tag = { s with core := { s.core with
      pend := (s.landVAt due phys x tag).core.pend
      opens := (s.landVAt due phys x tag).core.opens
      gev := (s.landVAt due phys x tag).core.gev } } := by
  unfold State.landVAt State.landAt State.onCore
  dsimp only
  split <;> rfl

/-- A scalar or predicate result that is not discarded joins those in flight, at the class's bound. -/
theorem land_pend {s : State} {cls x tag : Nat} {d : Dest} (h : d ≠ .s 0 ∧ d ≠ .p 0) :
    s.land cls d x tag = s.onCore fun c => c.addPend ⟨d, x, tag, s.cycle, s.cycle + s.core.bound cls⟩ := by
  simp [State.land, State.landAt, h.1, h.2]

/-- A register that discards writes takes no result. -/
theorem land_discarded {s : State} {cls x tag : Nat} {d : Dest} (h : d = .s 0 ∨ d = .p 0) : s.land cls d x tag = s := by
  simp [State.land, State.landAt, h]

/-! ### Taking a trap -/

@[simp] theorem trapRegs_others (s : State) (t : Trap) : (s.trapRegs t).others = s.others := by
  simp [State.trapRegs]
@[simp] theorem trapRegs_dev (s : State) (t : Trap) : (s.trapRegs t).dev = s.dev := by
  simp [State.trapRegs]
@[simp] theorem trapRegs_mem (s : State) (t : Trap) : (s.trapRegs t).mem = s.mem := by
  simp [State.trapRegs]
@[simp] theorem trapRegs_cycle (s : State) (t : Trap) : (s.trapRegs t).cycle = s.cycle := by
  simp [State.trapRegs]
@[simp] theorem trapRegs_turn (s : State) (t : Trap) : (s.trapRegs t).turn = s.turn := by
  simp [State.trapRegs]
@[simp] theorem trapRegs_phase (s : State) (t : Trap) : (s.trapRegs t).phase = s.phase := by
  simp [State.trapRegs]
@[simp] theorem trapRegs_inputs (s : State) (t : Trap) : (s.trapRegs t).inputs = s.inputs := by
  simp [State.trapRegs]
@[simp] theorem trapRegs_fresh (s : State) (t : Trap) : (s.trapRegs t).fresh = s.fresh := by
  simp [State.trapRegs]
@[simp] theorem trapRegs_teams (s : State) (t : Trap) : (s.trapRegs t).teams = s.teams := by
  simp [State.trapRegs]
@[simp] theorem fatal_others (s : State) (code : Nat) (t : Trap) (c : Nat) : (s.fatal code t c).others = s.others := by
  simp [State.fatal]
@[simp] theorem fatal_dev (s : State) (code : Nat) (t : Trap) (c : Nat) : (s.fatal code t c).dev = s.dev := by
  simp [State.fatal]
@[simp] theorem fatal_mem (s : State) (code : Nat) (t : Trap) (c : Nat) : (s.fatal code t c).mem = s.mem := by
  simp [State.fatal]
@[simp] theorem fatal_cycle (s : State) (code : Nat) (t : Trap) (c : Nat) : (s.fatal code t c).cycle = s.cycle := by
  simp [State.fatal]
@[simp] theorem fatal_turn (s : State) (code : Nat) (t : Trap) (c : Nat) : (s.fatal code t c).turn = s.turn := by
  simp [State.fatal]
@[simp] theorem fatal_phase (s : State) (code : Nat) (t : Trap) (c : Nat) : (s.fatal code t c).phase = s.phase := by
  simp [State.fatal]
@[simp] theorem fatal_inputs (s : State) (code : Nat) (t : Trap) (c : Nat) : (s.fatal code t c).inputs = s.inputs := by
  simp [State.fatal]
@[simp] theorem fatal_fresh (s : State) (code : Nat) (t : Trap) (c : Nat) : (s.fatal code t c).fresh = s.fresh := by
  simp [State.fatal]

/-- Everything that taking a trap does: the trap registers are written; then the handler is entered, or the team has a
fatal trap, by this cause or, in handler mode, by a double trap (R345, R346, R348). -/
theorem takeTrap_cases (s : State) (t : Trap) :
    (∃ h, s.core.handler = some h ∧ s.takeTrap t = ({ s.trapRegs t with trapped := some t } : State).fatal 25 t h.cause)
    ∨ (s.core.handler = none ∧ handlerCode t.code = true ∧ (s.core.csrAt 0xA).toNat % 2 ^ 18 ≠ 0
      ∧ s.takeTrap t = ({ s.trapRegs t with trapped := some t } : State).onCore fun c => { c with
          handler := some ⟨c.thr.mapAll Thread.dropCaptured, t.code⟩
          thr := { c.thr with s := .entry ((s.core.csrAt 0xA).toNat % 2 ^ 18) } })
    ∨ (s.core.handler = none ∧ (handlerCode t.code = false ∨ (s.core.csrAt 0xA).toNat % 2 ^ 18 = 0)
      ∧ s.takeTrap t = ({ s.trapRegs t with trapped := some t } : State).fatal t.code t 0) := by
  unfold State.takeTrap
  cases h : s.core.handler with
  | some x => exact .inl ⟨x, rfl, by simp only [h]⟩
  | none =>
    by_cases c : handlerCode t.code = true ∧ (s.core.csrAt 0xA).toNat % 2 ^ 18 ≠ 0
    · exact .inr (.inl ⟨rfl, c.1, c.2, by simp only [h]; rw [if_pos c]⟩)
    · refine .inr (.inr ⟨rfl, ?_, by simp only [h]; rw [if_neg c]⟩)
      by_cases d : handlerCode t.code = true
      · exact .inr (by simpa [d] using c)
      · exact .inl (by simpa using d)

@[simp] theorem takeTrap_others (s : State) (t : Trap) : (s.takeTrap t).others = s.others := by
  rcases takeTrap_cases s t with ⟨h, -, e⟩ | ⟨-, -, -, e⟩ | ⟨-, -, e⟩ <;> rw [e] <;> simp
@[simp] theorem takeTrap_dev (s : State) (t : Trap) : (s.takeTrap t).dev = s.dev := by
  rcases takeTrap_cases s t with ⟨h, -, e⟩ | ⟨-, -, -, e⟩ | ⟨-, -, e⟩ <;> rw [e] <;> simp
@[simp] theorem takeTrap_mem (s : State) (t : Trap) : (s.takeTrap t).mem = s.mem := by
  rcases takeTrap_cases s t with ⟨h, -, e⟩ | ⟨-, -, -, e⟩ | ⟨-, -, e⟩ <;> rw [e] <;> simp
@[simp] theorem takeTrap_cycle (s : State) (t : Trap) : (s.takeTrap t).cycle = s.cycle := by
  rcases takeTrap_cases s t with ⟨h, -, e⟩ | ⟨-, -, -, e⟩ | ⟨-, -, e⟩ <;> rw [e] <;> simp
@[simp] theorem takeTrap_turn (s : State) (t : Trap) : (s.takeTrap t).turn = s.turn := by
  rcases takeTrap_cases s t with ⟨h, -, e⟩ | ⟨-, -, -, e⟩ | ⟨-, -, e⟩ <;> rw [e] <;> simp
@[simp] theorem takeTrap_phase (s : State) (t : Trap) : (s.takeTrap t).phase = s.phase := by
  rcases takeTrap_cases s t with ⟨h, -, e⟩ | ⟨-, -, -, e⟩ | ⟨-, -, e⟩ <;> rw [e] <;> simp
@[simp] theorem takeTrap_inputs (s : State) (t : Trap) : (s.takeTrap t).inputs = s.inputs := by
  rcases takeTrap_cases s t with ⟨h, -, e⟩ | ⟨-, -, -, e⟩ | ⟨-, -, e⟩ <;> rw [e] <;> simp
@[simp] theorem takeTrap_fresh (s : State) (t : Trap) : (s.takeTrap t).fresh = s.fresh := by
  rcases takeTrap_cases s t with ⟨h, -, e⟩ | ⟨-, -, -, e⟩ | ⟨-, -, e⟩ <;> rw [e] <;> simp

/-- A trap that was taken leaves far memory, the device, the other cores and the time as they were. -/
theorem Trapped.frame {s t : State} (h : Trapped s t) :
    t.mem = s.mem ∧ t.dev = s.dev ∧ t.others = s.others ∧ t.cycle = s.cycle ∧ t.phase = s.phase := by
  obtain ⟨tr, rfl⟩ := h
  simp

/-! ### Returning from a trap -/

/-- A return outside handler mode does nothing. -/
theorem returnTrap_outside {s : State} (h : s.core.handler = none) : s.returnTrap = s := by
  simp [State.returnTrap, h]

@[simp] theorem unhalt_others (s : State) : s.unhalt.others = s.others := by
  unfold State.unhalt; split
  · rfl
  · dsimp only; split <;> rfl
@[simp] theorem unhalt_dev (s : State) : s.unhalt.dev = s.dev := by
  unfold State.unhalt; split
  · rfl
  · dsimp only; split <;> rfl
@[simp] theorem unhalt_mem (s : State) : s.unhalt.mem = s.mem := by
  unfold State.unhalt; split
  · rfl
  · dsimp only; split <;> rfl
@[simp] theorem unhalt_cycle (s : State) : s.unhalt.cycle = s.cycle := by
  unfold State.unhalt; split
  · rfl
  · dsimp only; split <;> rfl
@[simp] theorem unhalt_turn (s : State) : s.unhalt.turn = s.turn := by
  unfold State.unhalt; split
  · rfl
  · dsimp only; split <;> rfl
@[simp] theorem unhalt_phase (s : State) : s.unhalt.phase = s.phase := by
  unfold State.unhalt; split
  · rfl
  · dsimp only; split <;> rfl
@[simp] theorem unhalt_inputs (s : State) : s.unhalt.inputs = s.inputs := by
  unfold State.unhalt; split
  · rfl
  · dsimp only; split <;> rfl
@[simp] theorem unhalt_fresh (s : State) : s.unhalt.fresh = s.fresh := by
  unfold State.unhalt; split
  · rfl
  · dsimp only; split <;> rfl
@[simp] theorem unhalt_teams (s : State) : s.unhalt.teams = s.teams := by
  unfold State.unhalt; split
  · rfl
  · dsimp only; split <;> rfl
@[simp] theorem unhalt_trapped (s : State) : s.unhalt.trapped = s.trapped := by
  unfold State.unhalt; split
  · rfl
  · dsimp only; split <;> rfl
@[simp] theorem returnTrap_others (s : State) : s.returnTrap.others = s.others := by
  unfold State.returnTrap; split
  · rfl
  · simp
@[simp] theorem returnTrap_dev (s : State) : s.returnTrap.dev = s.dev := by
  unfold State.returnTrap; split
  · rfl
  · simp
@[simp] theorem returnTrap_mem (s : State) : s.returnTrap.mem = s.mem := by
  unfold State.returnTrap; split
  · rfl
  · simp
@[simp] theorem returnTrap_cycle (s : State) : s.returnTrap.cycle = s.cycle := by
  unfold State.returnTrap; split
  · rfl
  · simp
@[simp] theorem returnTrap_turn (s : State) : s.returnTrap.turn = s.turn := by
  unfold State.returnTrap; split
  · rfl
  · simp
@[simp] theorem returnTrap_phase (s : State) : s.returnTrap.phase = s.phase := by
  unfold State.returnTrap; split
  · rfl
  · simp
@[simp] theorem returnTrap_inputs (s : State) : s.returnTrap.inputs = s.inputs := by
  unfold State.returnTrap; split
  · rfl
  · simp
@[simp] theorem returnTrap_fresh (s : State) : s.returnTrap.fresh = s.fresh := by
  unfold State.returnTrap; split
  · rfl
  · simp
@[simp] theorem returnTrap_teams (s : State) : s.returnTrap.teams = s.teams := by
  unfold State.returnTrap; split
  · rfl
  · simp
@[simp] theorem returnTrap_trapped (s : State) : s.returnTrap.trapped = s.trapped := by
  unfold State.returnTrap; split
  · rfl
  · simp
@[simp] theorem restart_others (s : State) : s.restart.others = s.others := by
  simp [State.restart]
@[simp] theorem restart_dev (s : State) : s.restart.dev = s.dev := by
  simp [State.restart]
@[simp] theorem restart_mem (s : State) : s.restart.mem = s.mem := by
  simp [State.restart]
@[simp] theorem restart_cycle (s : State) : s.restart.cycle = s.cycle := by
  simp [State.restart]
@[simp] theorem restart_turn (s : State) : s.restart.turn = s.turn := by
  simp [State.restart]
@[simp] theorem restart_phase (s : State) : s.restart.phase = s.phase := by
  simp [State.restart]
@[simp] theorem restart_inputs (s : State) : s.restart.inputs = s.inputs := by
  simp [State.restart]
@[simp] theorem restart_fresh (s : State) : s.restart.fresh = s.fresh := by
  simp [State.restart]

end Sys2Proof.Machine
end

