-- ==== Sys2Proof/Laws/PerInstr.lean ====
section
/-! SUPPORT. For each instruction: the words of its encoding are words of 32 bits, and it has words exactly where it has
a strand. -/

set_option Elab.async false
set_option linter.unusedSimpArgs false
set_option linter.unusedVariables false

namespace Sys2Proof.Laws.Words

/-- The encoding of a well-formed instruction is one or two 32-bit words where it has a strand, and nothing where it has
none. -/
def Statement (i : Instr) : Prop :=
  i.wf = true → (∀ w ∈ encode i, w < 2 ^ 32) ∧ (i.strand.isSome = true ↔ encode i ≠ [])

theorem bool_le (b : Bool) : b.toNat ≤ 1 := by cases b <;> decide

theorem encSR_lt (l : Bool) (op sd sa sb : Nat) (g : Guard) (fn : Nat) (h1 : op < 64) (h2 : sd < 64) (h3 : sa < 64)
    (h4 : sb < 64) (h5 : g.wf = true) (h6 : fn < 8) : encSR l op sd sa sb g fn < 2 ^ 32 := by
  have := bool_le l; have := bool_le g.neg
  simp only [Guard.wf, decide_eq_true_eq] at h5
  unfold encSR; omega

theorem encSI_lt (l : Bool) (op sd sa imm : Nat) (h1 : op < 64) (h2 : sd < 64) (h3 : sa < 64) (h4 : imm < 8192) :
    encSI l op sd sa imm < 2 ^ 32 := by
  have := bool_le l
  unfold encSI; omega

theorem encSB_lt (l : Bool) (op p : Nat) (neg : Bool) (off : Nat) (h1 : op < 64) (h2 : p < 16) (h3 : off < 1048576) :
    encSB l op p neg off < 2 ^ 32 := by
  have := bool_le l; have := bool_le neg
  unfold encSB; omega

theorem encSL_lt (l : Bool) (sd sa : Nat) (g : Guard) (fn : Nat) (h2 : sd < 64) (h3 : sa < 64) (h5 : g.wf = true)
    (h6 : fn < 512) : encSL l sd sa g fn < 2 ^ 32 := by
  have := bool_le l; have := bool_le g.neg
  simp only [Guard.wf, decide_eq_true_eq] at h5
  unfold encSL; omega

theorem encSN_lt (l : Bool) (op countM1 n : Nat) (h1 : op < 64) (h2 : countM1 < 4096) (h3 : n < 256) :
    encSN l op countM1 n < 2 ^ 32 := by
  have := bool_le l
  unfold encSN; omega

theorem encVR_lt (l : Bool) (op d a b : Nat) (h1 : op < 128) (h2 : d < 256) (h3 : a < 256) (h4 : b < 256) :
    encVR l op d a b < 2 ^ 32 := by
  have := bool_le l
  unfold encVR; omega

theorem encVM_lt (l : Bool) (op v sa imm : Nat) (h1 : op < 128) (h2 : v < 256) (h3 : sa < 64) (h4 : imm < 1024) :
    encVM l op v sa imm < 2 ^ 32 := by
  have := bool_le l
  unfold encVM; omega

theorem encMR_lt (l : Bool) (op a sa sb : Nat) (g : Guard) (h1 : op < 32) (h2 : a < 16) (h3 : sa < 64) (h4 : sb < 64)
    (h5 : g.wf = true) : encMR l op a sa sb g < 2 ^ 32 := by
  have := bool_le l; have := bool_le g.neg
  simp only [Guard.wf, decide_eq_true_eq] at h5
  unfold encMR; omega

theorem encXV_lt (l : Bool) (op v xa xb : Nat) (g : Guard) (h1 : op < 64) (h2 : v < 256) (h3 : xa < 64) (h4 : xb < 64)
    (h5 : g.wf = true) : encXV l op v xa xb g < 2 ^ 32 := by
  have := bool_le l; have := bool_le g.neg
  simp only [Guard.wf, decide_eq_true_eq] at h5
  unfold encXV; omega

theorem encTok_lt (t : Tok) (h : t.wf = true) : encTok t < 2 ^ 32 := by
  simp only [Tok.wf, Bool.and_eq_true, decide_eq_true_eq] at h
  unfold encTok; omega

theorem encTok_lt_replay (t : Tok) (h : t.wfReplay = true) : encTok t < 2 ^ 32 := by
  simp only [Tok.wfReplay, Bool.and_eq_true, decide_eq_true_eq] at h
  unfold encTok; omega

/-- The words' bounds, for the proofs below. -/
theorem two {P : Prop} {x : Nat} (a : x < 2 ^ 32) (p : P) : (∀ w ∈ [x], w < 2 ^ 32) ∧ (P ↔ [x] ≠ []) :=
  ⟨by simpa using a, by simp [p]⟩

theorem twoWords {P : Prop} {x y : Nat} (a : x < 2 ^ 32) (b : y < 2 ^ 32) (p : P) :
    (∀ w ∈ [x, y], w < 2 ^ 32) ∧ (P ↔ [x, y] ≠ []) := ⟨by simpa using ⟨a, b⟩, by simp [p]⟩

theorem none_ {P : Prop} (p : ¬P) : (∀ w ∈ ([] : List Nat), w < 2 ^ 32) ∧ (P ↔ ([] : List Nat) ≠ []) :=
  ⟨by simp, by simp [p]⟩


theorem add (l : Bool) (sd sa sb : Nat) (g : Guard) : Statement (.add l sd sa sb g) := by
  intro hw
  replace hw : (decide (sd < 64) && decide (sa < 64) && decide (sb < 64) && g.wf) = true := hw
  simp only [Bool.and_eq_true, decide_eq_true_eq] at hw
  obtain ⟨⟨⟨h1, h2⟩, h3⟩, h4⟩ := hw
  exact two (by apply encSR_lt <;> first | assumption | decide | omega) rfl

theorem sub (l : Bool) (sd sa sb : Nat) (g : Guard) : Statement (.sub l sd sa sb g) := by
  intro hw
  replace hw : (decide (sd < 64) && decide (sa < 64) && decide (sb < 64) && g.wf) = true := hw
  simp only [Bool.and_eq_true, decide_eq_true_eq] at hw
  obtain ⟨⟨⟨h1, h2⟩, h3⟩, h4⟩ := hw
  exact two (by apply encSR_lt <;> first | assumption | decide | omega) rfl

theorem and (l : Bool) (sd sa sb : Nat) (g : Guard) : Statement (.and l sd sa sb g) := by
  intro hw
  replace hw : (decide (sd < 64) && decide (sa < 64) && decide (sb < 64) && g.wf) = true := hw
  simp only [Bool.and_eq_true, decide_eq_true_eq] at hw
  obtain ⟨⟨⟨h1, h2⟩, h3⟩, h4⟩ := hw
  exact two (by apply encSR_lt <;> first | assumption | decide | omega) rfl

theorem or (l : Bool) (sd sa sb : Nat) (g : Guard) : Statement (.or l sd sa sb g) := by
  intro hw
  replace hw : (decide (sd < 64) && decide (sa < 64) && decide (sb < 64) && g.wf) = true := hw
  simp only [Bool.and_eq_true, decide_eq_true_eq] at hw
  obtain ⟨⟨⟨h1, h2⟩, h3⟩, h4⟩ := hw
  exact two (by apply encSR_lt <;> first | assumption | decide | omega) rfl

theorem xor (l : Bool) (sd sa sb : Nat) (g : Guard) : Statement (.xor l sd sa sb g) := by
  intro hw
  replace hw : (decide (sd < 64) && decide (sa < 64) && decide (sb < 64) && g.wf) = true := hw
  simp only [Bool.and_eq_true, decide_eq_true_eq] at hw
  obtain ⟨⟨⟨h1, h2⟩, h3⟩, h4⟩ := hw
  exact two (by apply encSR_lt <;> first | assumption | decide | omega) rfl

theorem andn (l : Bool) (sd sa sb : Nat) (g : Guard) : Statement (.andn l sd sa sb g) := by
  intro hw
  replace hw : (decide (sd < 64) && decide (sa < 64) && decide (sb < 64) && g.wf) = true := hw
  simp only [Bool.and_eq_true, decide_eq_true_eq] at hw
  obtain ⟨⟨⟨h1, h2⟩, h3⟩, h4⟩ := hw
  exact two (by apply encSR_lt <;> first | assumption | decide | omega) rfl

theorem shl (l : Bool) (sd sa sb : Nat) (g : Guard) : Statement (.shl l sd sa sb g) := by
  intro hw
  replace hw : (decide (sd < 64) && decide (sa < 64) && decide (sb < 64) && g.wf) = true := hw
  simp only [Bool.and_eq_true, decide_eq_true_eq] at hw
  obtain ⟨⟨⟨h1, h2⟩, h3⟩, h4⟩ := hw
  exact two (by apply encSR_lt <;> first | assumption | decide | omega) rfl

theorem shr (l : Bool) (sd sa sb : Nat) (g : Guard) : Statement (.shr l sd sa sb g) := by
  intro hw
  replace hw : (decide (sd < 64) && decide (sa < 64) && decide (sb < 64) && g.wf) = true := hw
  simp only [Bool.and_eq_true, decide_eq_true_eq] at hw
  obtain ⟨⟨⟨h1, h2⟩, h3⟩, h4⟩ := hw
  exact two (by apply encSR_lt <;> first | assumption | decide | omega) rfl

theorem sar (l : Bool) (sd sa sb : Nat) (g : Guard) : Statement (.sar l sd sa sb g) := by
  intro hw
  replace hw : (decide (sd < 64) && decide (sa < 64) && decide (sb < 64) && g.wf) = true := hw
  simp only [Bool.and_eq_true, decide_eq_true_eq] at hw
  obtain ⟨⟨⟨h1, h2⟩, h3⟩, h4⟩ := hw
  exact two (by apply encSR_lt <;> first | assumption | decide | omega) rfl

theorem min (l : Bool) (sd sa sb : Nat) (g : Guard) : Statement (.min l sd sa sb g) := by
  intro hw
  replace hw : (decide (sd < 64) && decide (sa < 64) && decide (sb < 64) && g.wf) = true := hw
  simp only [Bool.and_eq_true, decide_eq_true_eq] at hw
  obtain ⟨⟨⟨h1, h2⟩, h3⟩, h4⟩ := hw
  exact two (by apply encSR_lt <;> first | assumption | decide | omega) rfl

theorem max (l : Bool) (sd sa sb : Nat) (g : Guard) : Statement (.max l sd sa sb g) := by
  intro hw
  replace hw : (decide (sd < 64) && decide (sa < 64) && decide (sb < 64) && g.wf) = true := hw
  simp only [Bool.and_eq_true, decide_eq_true_eq] at hw
  obtain ⟨⟨⟨h1, h2⟩, h3⟩, h4⟩ := hw
  exact two (by apply encSR_lt <;> first | assumption | decide | omega) rfl

theorem minu (l : Bool) (sd sa sb : Nat) (g : Guard) : Statement (.minu l sd sa sb g) := by
  intro hw
  replace hw : (decide (sd < 64) && decide (sa < 64) && decide (sb < 64) && g.wf) = true := hw
  simp only [Bool.and_eq_true, decide_eq_true_eq] at hw
  obtain ⟨⟨⟨h1, h2⟩, h3⟩, h4⟩ := hw
  exact two (by apply encSR_lt <;> first | assumption | decide | omega) rfl

theorem maxu (l : Bool) (sd sa sb : Nat) (g : Guard) : Statement (.maxu l sd sa sb g) := by
  intro hw
  replace hw : (decide (sd < 64) && decide (sa < 64) && decide (sb < 64) && g.wf) = true := hw
  simp only [Bool.and_eq_true, decide_eq_true_eq] at hw
  obtain ⟨⟨⟨h1, h2⟩, h3⟩, h4⟩ := hw
  exact two (by apply encSR_lt <;> first | assumption | decide | omega) rfl

theorem clz (l : Bool) (sd sa : Nat) (g : Guard) : Statement (.clz l sd sa g) := by
  intro hw
  replace hw : (decide (sd < 64) && decide (sa < 64) && g.wf) = true := hw
  simp only [Bool.and_eq_true, decide_eq_true_eq] at hw
  obtain ⟨⟨h1, h2⟩, h3⟩ := hw
  exact two (by apply encSR_lt <;> first | assumption | decide | omega) rfl

theorem ctz (l : Bool) (sd sa : Nat) (g : Guard) : Statement (.ctz l sd sa g) := by
  intro hw
  replace hw : (decide (sd < 64) && decide (sa < 64) && g.wf) = true := hw
  simp only [Bool.and_eq_true, decide_eq_true_eq] at hw
  obtain ⟨⟨h1, h2⟩, h3⟩ := hw
  exact two (by apply encSR_lt <;> first | assumption | decide | omega) rfl

theorem popc (l : Bool) (sd sa : Nat) (g : Guard) : Statement (.popc l sd sa g) := by
  intro hw
  replace hw : (decide (sd < 64) && decide (sa < 64) && g.wf) = true := hw
  simp only [Bool.and_eq_true, decide_eq_true_eq] at hw
  obtain ⟨⟨h1, h2⟩, h3⟩ := hw
  exact two (by apply encSR_lt <;> first | assumption | decide | omega) rfl

theorem mul (l : Bool) (sd sa sb : Nat) (g : Guard) : Statement (.mul l sd sa sb g) := by
  intro hw
  replace hw : (decide (sd < 64) && decide (sa < 64) && decide (sb < 64) && g.wf) = true := hw
  simp only [Bool.and_eq_true, decide_eq_true_eq] at hw
  obtain ⟨⟨⟨h1, h2⟩, h3⟩, h4⟩ := hw
  exact two (by apply encSR_lt <;> first | assumption | decide | omega) rfl

theorem mulh (l : Bool) (sd sa sb : Nat) (g : Guard) : Statement (.mulh l sd sa sb g) := by
  intro hw
  replace hw : (decide (sd < 64) && decide (sa < 64) && decide (sb < 64) && g.wf) = true := hw
  simp only [Bool.and_eq_true, decide_eq_true_eq] at hw
  obtain ⟨⟨⟨h1, h2⟩, h3⟩, h4⟩ := hw
  exact two (by apply encSR_lt <;> first | assumption | decide | omega) rfl

theorem mulhu (l : Bool) (sd sa sb : Nat) (g : Guard) : Statement (.mulhu l sd sa sb g) := by
  intro hw
  replace hw : (decide (sd < 64) && decide (sa < 64) && decide (sb < 64) && g.wf) = true := hw
  simp only [Bool.and_eq_true, decide_eq_true_eq] at hw
  obtain ⟨⟨⟨h1, h2⟩, h3⟩, h4⟩ := hw
  exact two (by apply encSR_lt <;> first | assumption | decide | omega) rfl

theorem div (l : Bool) (sd sa sb : Nat) (g : Guard) : Statement (.div l sd sa sb g) := by
  intro hw
  replace hw : (decide (sd < 64) && decide (sa < 64) && decide (sb < 64) && g.wf) = true := hw
  simp only [Bool.and_eq_true, decide_eq_true_eq] at hw
  obtain ⟨⟨⟨h1, h2⟩, h3⟩, h4⟩ := hw
  exact two (by apply encSR_lt <;> first | assumption | decide | omega) rfl

theorem divu (l : Bool) (sd sa sb : Nat) (g : Guard) : Statement (.divu l sd sa sb g) := by
  intro hw
  replace hw : (decide (sd < 64) && decide (sa < 64) && decide (sb < 64) && g.wf) = true := hw
  simp only [Bool.and_eq_true, decide_eq_true_eq] at hw
  obtain ⟨⟨⟨h1, h2⟩, h3⟩, h4⟩ := hw
  exact two (by apply encSR_lt <;> first | assumption | decide | omega) rfl

theorem rem (l : Bool) (sd sa sb : Nat) (g : Guard) : Statement (.rem l sd sa sb g) := by
  intro hw
  replace hw : (decide (sd < 64) && decide (sa < 64) && decide (sb < 64) && g.wf) = true := hw
  simp only [Bool.and_eq_true, decide_eq_true_eq] at hw
  obtain ⟨⟨⟨h1, h2⟩, h3⟩, h4⟩ := hw
  exact two (by apply encSR_lt <;> first | assumption | decide | omega) rfl

theorem remu (l : Bool) (sd sa sb : Nat) (g : Guard) : Statement (.remu l sd sa sb g) := by
  intro hw
  replace hw : (decide (sd < 64) && decide (sa < 64) && decide (sb < 64) && g.wf) = true := hw
  simp only [Bool.and_eq_true, decide_eq_true_eq] at hw
  obtain ⟨⟨⟨h1, h2⟩, h3⟩, h4⟩ := hw
  exact two (by apply encSR_lt <;> first | assumption | decide | omega) rfl

theorem cmpEq (l : Bool) (pd sa sb : Nat) (g : Guard) : Statement (.cmpEq l pd sa sb g) := by
  intro hw
  replace hw : (decide (pd < 16) && decide (sa < 64) && decide (sb < 64) && g.wf) = true := hw
  simp only [Bool.and_eq_true, decide_eq_true_eq] at hw
  obtain ⟨⟨⟨h1, h2⟩, h3⟩, h4⟩ := hw
  exact two (by apply encSR_lt <;> first | assumption | decide | omega) rfl

theorem cmpNe (l : Bool) (pd sa sb : Nat) (g : Guard) : Statement (.cmpNe l pd sa sb g) := by
  intro hw
  replace hw : (decide (pd < 16) && decide (sa < 64) && decide (sb < 64) && g.wf) = true := hw
  simp only [Bool.and_eq_true, decide_eq_true_eq] at hw
  obtain ⟨⟨⟨h1, h2⟩, h3⟩, h4⟩ := hw
  exact two (by apply encSR_lt <;> first | assumption | decide | omega) rfl

theorem cmpLt (l : Bool) (pd sa sb : Nat) (g : Guard) : Statement (.cmpLt l pd sa sb g) := by
  intro hw
  replace hw : (decide (pd < 16) && decide (sa < 64) && decide (sb < 64) && g.wf) = true := hw
  simp only [Bool.and_eq_true, decide_eq_true_eq] at hw
  obtain ⟨⟨⟨h1, h2⟩, h3⟩, h4⟩ := hw
  exact two (by apply encSR_lt <;> first | assumption | decide | omega) rfl

theorem cmpLtu (l : Bool) (pd sa sb : Nat) (g : Guard) : Statement (.cmpLtu l pd sa sb g) := by
  intro hw
  replace hw : (decide (pd < 16) && decide (sa < 64) && decide (sb < 64) && g.wf) = true := hw
  simp only [Bool.and_eq_true, decide_eq_true_eq] at hw
  obtain ⟨⟨⟨h1, h2⟩, h3⟩, h4⟩ := hw
  exact two (by apply encSR_lt <;> first | assumption | decide | omega) rfl

theorem cmpLe (l : Bool) (pd sa sb : Nat) (g : Guard) : Statement (.cmpLe l pd sa sb g) := by
  intro hw
  replace hw : (decide (pd < 16) && decide (sa < 64) && decide (sb < 64) && g.wf) = true := hw
  simp only [Bool.and_eq_true, decide_eq_true_eq] at hw
  obtain ⟨⟨⟨h1, h2⟩, h3⟩, h4⟩ := hw
  exact two (by apply encSR_lt <;> first | assumption | decide | omega) rfl

theorem cmpLeu (l : Bool) (pd sa sb : Nat) (g : Guard) : Statement (.cmpLeu l pd sa sb g) := by
  intro hw
  replace hw : (decide (pd < 16) && decide (sa < 64) && decide (sb < 64) && g.wf) = true := hw
  simp only [Bool.and_eq_true, decide_eq_true_eq] at hw
  obtain ⟨⟨⟨h1, h2⟩, h3⟩, h4⟩ := hw
  exact two (by apply encSR_lt <;> first | assumption | decide | omega) rfl

theorem pand (l : Bool) (pd pa pb : Nat) (g : Guard) : Statement (.pand l pd pa pb g) := by
  intro hw
  replace hw : (decide (pd < 16) && decide (pa < 16) && decide (pb < 16) && g.wf) = true := hw
  simp only [Bool.and_eq_true, decide_eq_true_eq] at hw
  obtain ⟨⟨⟨h1, h2⟩, h3⟩, h4⟩ := hw
  exact two (by apply encSR_lt <;> first | assumption | decide | omega) rfl

theorem por (l : Bool) (pd pa pb : Nat) (g : Guard) : Statement (.por l pd pa pb g) := by
  intro hw
  replace hw : (decide (pd < 16) && decide (pa < 16) && decide (pb < 16) && g.wf) = true := hw
  simp only [Bool.and_eq_true, decide_eq_true_eq] at hw
  obtain ⟨⟨⟨h1, h2⟩, h3⟩, h4⟩ := hw
  exact two (by apply encSR_lt <;> first | assumption | decide | omega) rfl

theorem pxor (l : Bool) (pd pa pb : Nat) (g : Guard) : Statement (.pxor l pd pa pb g) := by
  intro hw
  replace hw : (decide (pd < 16) && decide (pa < 16) && decide (pb < 16) && g.wf) = true := hw
  simp only [Bool.and_eq_true, decide_eq_true_eq] at hw
  obtain ⟨⟨⟨h1, h2⟩, h3⟩, h4⟩ := hw
  exact two (by apply encSR_lt <;> first | assumption | decide | omega) rfl

theorem pnot (l : Bool) (pd pa : Nat) (g : Guard) : Statement (.pnot l pd pa g) := by
  intro hw
  replace hw : (decide (pd < 16) && decide (pa < 16) && g.wf) = true := hw
  simp only [Bool.and_eq_true, decide_eq_true_eq] at hw
  obtain ⟨⟨h1, h2⟩, h3⟩ := hw
  exact two (by apply encSR_lt <;> first | assumption | decide | omega) rfl

theorem sel (l : Bool) (sd sa sb : Nat) (g : Guard) : Statement (.sel l sd sa sb g) := by
  intro hw
  replace hw : (decide (sd < 64) && decide (sa < 64) && decide (sb < 64) && g.wf) = true := hw
  simp only [Bool.and_eq_true, decide_eq_true_eq] at hw
  obtain ⟨⟨⟨h1, h2⟩, h3⟩, h4⟩ := hw
  exact two (by apply encSR_lt <;> first | assumption | decide | omega) rfl

theorem wake (l : Bool) (sa : Nat) (g : Guard) : Statement (.wake l sa g) := by
  intro hw
  replace hw : (decide (sa < 64) && g.wf) = true := hw
  simp only [Bool.and_eq_true, decide_eq_true_eq] at hw
  obtain ⟨h1, h2⟩ := hw
  exact two (by apply encSR_lt <;> first | assumption | decide | omega) rfl

theorem sleep (l : Bool) (sa : Nat) (g : Guard) : Statement (.sleep l sa g) := by
  intro hw
  replace hw : (decide (sa < 64) && g.wf) = true := hw
  simp only [Bool.and_eq_true, decide_eq_true_eq] at hw
  obtain ⟨h1, h2⟩ := hw
  exact two (by apply encSR_lt <;> first | assumption | decide | omega) rfl

theorem retain (l : Bool) (sa : Nat) (g : Guard) : Statement (.retain l sa g) := by
  intro hw
  replace hw : (decide (sa < 64) && g.wf) = true := hw
  simp only [Bool.and_eq_true, decide_eq_true_eq] at hw
  obtain ⟨h1, h2⟩ := hw
  exact two (by apply encSR_lt <;> first | assumption | decide | omega) rfl

theorem pwait (l : Bool) (sa : Nat) (g : Guard) : Statement (.pwait l sa g) := by
  intro hw
  replace hw : (decide (sa < 64) && g.wf) = true := hw
  simp only [Bool.and_eq_true, decide_eq_true_eq] at hw
  obtain ⟨h1, h2⟩ := hw
  exact two (by apply encSR_lt <;> first | assumption | decide | omega) rfl

theorem addi (l : Bool) (sd sa imm : Nat) : Statement (.addi l sd sa imm) := by
  intro hw
  replace hw : (decide (sd < 64) && decide (sa < 64) && decide (imm < 8192)) = true := hw
  simp only [Bool.and_eq_true, decide_eq_true_eq] at hw
  obtain ⟨⟨h1, h2⟩, h3⟩ := hw
  exact two (by apply encSI_lt <;> first | assumption | decide | omega) rfl

theorem andi (l : Bool) (sd sa imm : Nat) : Statement (.andi l sd sa imm) := by
  intro hw
  replace hw : (decide (sd < 64) && decide (sa < 64) && decide (imm < 8192)) = true := hw
  simp only [Bool.and_eq_true, decide_eq_true_eq] at hw
  obtain ⟨⟨h1, h2⟩, h3⟩ := hw
  exact two (by apply encSI_lt <;> first | assumption | decide | omega) rfl

theorem ori (l : Bool) (sd sa imm : Nat) : Statement (.ori l sd sa imm) := by
  intro hw
  replace hw : (decide (sd < 64) && decide (sa < 64) && decide (imm < 8192)) = true := hw
  simp only [Bool.and_eq_true, decide_eq_true_eq] at hw
  obtain ⟨⟨h1, h2⟩, h3⟩ := hw
  exact two (by apply encSI_lt <;> first | assumption | decide | omega) rfl

theorem xori (l : Bool) (sd sa imm : Nat) : Statement (.xori l sd sa imm) := by
  intro hw
  replace hw : (decide (sd < 64) && decide (sa < 64) && decide (imm < 8192)) = true := hw
  simp only [Bool.and_eq_true, decide_eq_true_eq] at hw
  obtain ⟨⟨h1, h2⟩, h3⟩ := hw
  exact two (by apply encSI_lt <;> first | assumption | decide | omega) rfl

theorem shli (l : Bool) (sd sa k : Nat) : Statement (.shli l sd sa k) := by
  intro hw
  replace hw : (decide (sd < 64) && decide (sa < 64) && decide (k < 64)) = true := hw
  simp only [Bool.and_eq_true, decide_eq_true_eq] at hw
  obtain ⟨⟨h1, h2⟩, h3⟩ := hw
  exact two (by apply encSI_lt <;> first | assumption | decide | omega) rfl

theorem shri (l : Bool) (sd sa k : Nat) : Statement (.shri l sd sa k) := by
  intro hw
  replace hw : (decide (sd < 64) && decide (sa < 64) && decide (k < 64)) = true := hw
  simp only [Bool.and_eq_true, decide_eq_true_eq] at hw
  obtain ⟨⟨h1, h2⟩, h3⟩ := hw
  exact two (by apply encSI_lt <;> first | assumption | decide | omega) rfl

theorem sari (l : Bool) (sd sa k : Nat) : Statement (.sari l sd sa k) := by
  intro hw
  replace hw : (decide (sd < 64) && decide (sa < 64) && decide (k < 64)) = true := hw
  simp only [Bool.and_eq_true, decide_eq_true_eq] at hw
  obtain ⟨⟨h1, h2⟩, h3⟩ := hw
  exact two (by apply encSI_lt <;> first | assumption | decide | omega) rfl

theorem lea (l : Bool) (sd sa imm : Nat) : Statement (.lea l sd sa imm) := by
  intro hw
  replace hw : (decide (sd < 64) && decide (sa < 64) && decide (imm < 8192)) = true := hw
  simp only [Bool.and_eq_true, decide_eq_true_eq] at hw
  obtain ⟨⟨h1, h2⟩, h3⟩ := hw
  exact two (by apply encSI_lt <;> first | assumption | decide | omega) rfl

theorem ldB (l : Bool) (sd sa imm : Nat) : Statement (.ldB l sd sa imm) := by
  intro hw
  replace hw : (decide (sd < 64) && decide (sa < 64) && decide (imm < 8192)) = true := hw
  simp only [Bool.and_eq_true, decide_eq_true_eq] at hw
  obtain ⟨⟨h1, h2⟩, h3⟩ := hw
  exact two (by apply encSI_lt <;> first | assumption | decide | omega) rfl

theorem ldH (l : Bool) (sd sa imm : Nat) : Statement (.ldH l sd sa imm) := by
  intro hw
  replace hw : (decide (sd < 64) && decide (sa < 64) && decide (imm < 8192)) = true := hw
  simp only [Bool.and_eq_true, decide_eq_true_eq] at hw
  obtain ⟨⟨h1, h2⟩, h3⟩ := hw
  exact two (by apply encSI_lt <;> first | assumption | decide | omega) rfl

theorem ldW (l : Bool) (sd sa imm : Nat) : Statement (.ldW l sd sa imm) := by
  intro hw
  replace hw : (decide (sd < 64) && decide (sa < 64) && decide (imm < 8192)) = true := hw
  simp only [Bool.and_eq_true, decide_eq_true_eq] at hw
  obtain ⟨⟨h1, h2⟩, h3⟩ := hw
  exact two (by apply encSI_lt <;> first | assumption | decide | omega) rfl

theorem ldD (l : Bool) (sd sa imm : Nat) : Statement (.ldD l sd sa imm) := by
  intro hw
  replace hw : (decide (sd < 64) && decide (sa < 64) && decide (imm < 8192)) = true := hw
  simp only [Bool.and_eq_true, decide_eq_true_eq] at hw
  obtain ⟨⟨h1, h2⟩, h3⟩ := hw
  exact two (by apply encSI_lt <;> first | assumption | decide | omega) rfl

theorem stB (l : Bool) (sd sa imm : Nat) : Statement (.stB l sd sa imm) := by
  intro hw
  replace hw : (decide (sd < 64) && decide (sa < 64) && decide (imm < 8192)) = true := hw
  simp only [Bool.and_eq_true, decide_eq_true_eq] at hw
  obtain ⟨⟨h1, h2⟩, h3⟩ := hw
  exact two (by apply encSI_lt <;> first | assumption | decide | omega) rfl

theorem stH (l : Bool) (sd sa imm : Nat) : Statement (.stH l sd sa imm) := by
  intro hw
  replace hw : (decide (sd < 64) && decide (sa < 64) && decide (imm < 8192)) = true := hw
  simp only [Bool.and_eq_true, decide_eq_true_eq] at hw
  obtain ⟨⟨h1, h2⟩, h3⟩ := hw
  exact two (by apply encSI_lt <;> first | assumption | decide | omega) rfl

theorem stW (l : Bool) (sd sa imm : Nat) : Statement (.stW l sd sa imm) := by
  intro hw
  replace hw : (decide (sd < 64) && decide (sa < 64) && decide (imm < 8192)) = true := hw
  simp only [Bool.and_eq_true, decide_eq_true_eq] at hw
  obtain ⟨⟨h1, h2⟩, h3⟩ := hw
  exact two (by apply encSI_lt <;> first | assumption | decide | omega) rfl

theorem stD (l : Bool) (sd sa imm : Nat) : Statement (.stD l sd sa imm) := by
  intro hw
  replace hw : (decide (sd < 64) && decide (sa < 64) && decide (imm < 8192)) = true := hw
  simp only [Bool.and_eq_true, decide_eq_true_eq] at hw
  obtain ⟨⟨h1, h2⟩, h3⟩ := hw
  exact two (by apply encSI_lt <;> first | assumption | decide | omega) rfl

theorem lit (l : Bool) (sd : Nat) (g : Guard) (v32 : Nat) : Statement (.lit l sd g v32) := by
  intro hw
  replace hw : (decide (sd < 64) && g.wf && decide (v32 < 4294967296)) = true := hw
  simp only [Bool.and_eq_true, decide_eq_true_eq] at hw
  obtain ⟨⟨h1, h2⟩, h3⟩ := hw
  exact twoWords (by apply encSL_lt <;> first | assumption | decide | omega) (by assumption) rfl

theorem litHi (l : Bool) (sd sa : Nat) (g : Guard) (v32 : Nat) : Statement (.litHi l sd sa g v32) := by
  intro hw
  replace hw : (decide (sd < 64) && decide (sa < 64) && g.wf && decide (v32 < 4294967296)) = true := hw
  simp only [Bool.and_eq_true, decide_eq_true_eq] at hw
  obtain ⟨⟨⟨h1, h2⟩, h3⟩, h4⟩ := hw
  exact twoWords (by apply encSL_lt <;> first | assumption | decide | omega) (by assumption) rfl

theorem br (l : Bool) (p : Nat) (neg : Bool) (off : Nat) : Statement (.br l p neg off) := by
  intro hw
  replace hw : (decide (p < 16) && decide (off < 1048576)) = true := hw
  simp only [Bool.and_eq_true, decide_eq_true_eq] at hw
  obtain ⟨h1, h2⟩ := hw
  exact two (by apply encSB_lt <;> first | assumption | decide | omega) rfl

theorem jmp (l : Bool) (off : Nat) : Statement (.jmp l off) := by
  intro hw
  replace hw : (decide (off < 1048576)) = true := hw
  simp only [Bool.and_eq_true, decide_eq_true_eq] at hw
  obtain h1 := hw
  exact two (by apply encSB_lt <;> first | assumption | decide | omega) rfl

theorem call (l : Bool) (off : Nat) : Statement (.call l off) := by
  intro hw
  replace hw : (decide (off < 1048576)) = true := hw
  simp only [Bool.and_eq_true, decide_eq_true_eq] at hw
  obtain h1 := hw
  exact two (by apply encSB_lt <;> first | assumption | decide | omega) rfl

theorem loop (l : Bool) (countM1 nM1 : Nat) : Statement (.loop l countM1 nM1) := by
  intro hw
  replace hw : (decide (countM1 < 4096) && decide (nM1 < 256)) = true := hw
  simp only [Bool.and_eq_true, decide_eq_true_eq] at hw
  obtain ⟨h1, h2⟩ := hw
  exact two (by apply encSN_lt <;> first | assumption | decide | omega) rfl

theorem rpt (l : Bool) (countM1 : Nat) : Statement (.rpt l countM1) := by
  intro hw
  replace hw : (decide (countM1 < 4096)) = true := hw
  simp only [Bool.and_eq_true, decide_eq_true_eq] at hw
  obtain h1 := hw
  exact two (by apply encSN_lt <;> first | assumption | decide | omega) rfl

theorem gap (l : Bool) (countM1 : Nat) : Statement (.gap l countM1) := by
  intro hw
  replace hw : (decide (countM1 < 4096)) = true := hw
  simp only [Bool.and_eq_true, decide_eq_true_eq] at hw
  obtain h1 := hw
  exact two (by apply encSN_lt <;> first | assumption | decide | omega) rfl

theorem trap (l : Bool) (code : Nat) : Statement (.trap l code) := by
  intro hw
  replace hw : (decide (code < 8192)) = true := hw
  simp only [Bool.and_eq_true, decide_eq_true_eq] at hw
  obtain h1 := hw
  exact two (by apply encSI_lt <;> first | assumption | decide | omega) rfl

theorem csrr (l : Bool) (sd csr : Nat) : Statement (.csrr l sd csr) := by
  intro hw
  replace hw : (decide (sd < 64) && csrKnown csr) = true := hw
  simp only [Bool.and_eq_true, decide_eq_true_eq, csrKnown, csrPlain, Bool.or_eq_true] at hw
  obtain ⟨h1, h2⟩ := hw
  exact two (by apply encSI_lt <;> first | assumption | decide | omega) rfl

theorem csrw (l : Bool) (sa csr : Nat) : Statement (.csrw l sa csr) := by
  intro hw
  replace hw : (decide (sa < 64) && csrPlain csr) = true := hw
  simp only [Bool.and_eq_true, decide_eq_true_eq, csrKnown, csrPlain, Bool.or_eq_true] at hw
  obtain ⟨h1, h2, _⟩ := hw
  exact two (by apply encSI_lt <;> first | assumption | decide | omega) rfl

theorem csrwLockmask (l : Bool) (sa : Nat) : Statement (.csrwLockmask l sa) := by
  intro hw
  replace hw : (decide (sa < 64)) = true := hw
  simp only [Bool.and_eq_true, decide_eq_true_eq] at hw
  obtain h1 := hw
  exact two (by apply encSI_lt <;> first | assumption | decide | omega) rfl

theorem csrwTrapvec (l : Bool) (sa : Nat) : Statement (.csrwTrapvec l sa) := by
  intro hw
  replace hw : (decide (sa < 64)) = true := hw
  simp only [Bool.and_eq_true, decide_eq_true_eq] at hw
  obtain h1 := hw
  exact two (by apply encSI_lt <;> first | assumption | decide | omega) rfl

theorem csrwVwb (l : Bool) (sa : Nat) : Statement (.csrwVwb l sa) := by
  intro hw
  replace hw : (decide (sa < 64)) = true := hw
  simp only [Bool.and_eq_true, decide_eq_true_eq] at hw
  obtain h1 := hw
  exact two (by apply encSI_lt <;> first | assumption | decide | omega) rfl

theorem csrwTwist (l : Bool) (sa : Nat) : Statement (.csrwTwist l sa) := by
  intro hw
  replace hw : (decide (sa < 64)) = true := hw
  simp only [Bool.and_eq_true, decide_eq_true_eq] at hw
  obtain h1 := hw
  exact two (by apply encSI_lt <;> first | assumption | decide | omega) rfl

theorem csrwVshape (l : Bool) (sa : Nat) : Statement (.csrwVshape l sa) := by
  intro hw
  replace hw : (decide (sa < 64)) = true := hw
  simp only [Bool.and_eq_true, decide_eq_true_eq] at hw
  obtain h1 := hw
  exact two (by apply encSI_lt <;> first | assumption | decide | omega) rfl

theorem csrwCzlist (l : Bool) (sa : Nat) : Statement (.csrwCzlist l sa) := by
  intro hw
  replace hw : (decide (sa < 64)) = true := hw
  simp only [Bool.and_eq_true, decide_eq_true_eq] at hw
  obtain h1 := hw
  exact two (by apply encSI_lt <;> first | assumption | decide | omega) rfl

theorem csrwAmax (l : Bool) (sa m : Nat) : Statement (.csrwAmax l sa m) := by
  intro hw
  replace hw : (decide (sa < 64) && decide (m < 16)) = true := hw
  simp only [Bool.and_eq_true, decide_eq_true_eq] at hw
  obtain ⟨h1, h2⟩ := hw
  exact two (by apply encSI_lt <;> first | assumption | decide | omega) rfl

theorem ret (l : Bool) : Statement (.ret l) := by
  intro _
  exact two (by apply encSI_lt <;> first | assumption | decide | omega) rfl

theorem markR (l : Bool) : Statement (.markR l) := by
  intro _
  exact two (by apply encSI_lt <;> first | assumption | decide | omega) rfl

theorem eret (l : Bool) : Statement (.eret l) := by
  intro _
  exact two (by apply encSI_lt <;> first | assumption | decide | omega) rfl

theorem eretR (l : Bool) : Statement (.eretR l) := by
  intro _
  exact two (by apply encSI_lt <;> first | assumption | decide | omega) rfl

theorem done (l : Bool) : Statement (.done l) := by
  intro _
  exact two (by apply encSI_lt <;> first | assumption | decide | omega) rfl

theorem waitK (l : Bool) (k : Nat) : Statement (.waitK l k) := by
  intro hw
  replace hw : (decide (k < 16)) = true := hw
  simp only [Bool.and_eq_true, decide_eq_true_eq] at hw
  obtain h1 := hw
  exact two (by apply encSI_lt <;> first | assumption | decide | omega) rfl

theorem qmark (l : Bool) : Statement (.qmark l) := by
  intro _
  exact two (by apply encSI_lt <;> first | assumption | decide | omega) rfl

theorem pmark (l : Bool) (sa : Nat) : Statement (.pmark l sa) := by
  intro hw
  replace hw : (decide (sa < 64)) = true := hw
  simp only [Bool.and_eq_true, decide_eq_true_eq] at hw
  obtain h1 := hw
  exact two (by apply encSI_lt <;> first | assumption | decide | omega) rfl

theorem realign (l : Bool) (n : Nat) : Statement (.realign l n) := by
  intro hw
  replace hw : (decide (n < 17)) = true := hw
  simp only [Bool.and_eq_true, decide_eq_true_eq] at hw
  obtain h1 := hw
  exact two (by apply encSI_lt <;> first | assumption | decide | omega) rfl

theorem unalign (l : Bool) : Statement (.unalign l) := by
  intro _
  exact two (by apply encSI_lt <;> first | assumption | decide | omega) rfl

theorem barArr (l : Bool) (sa : Nat) : Statement (.barArr l sa) := by
  intro hw
  replace hw : (decide (sa < 64)) = true := hw
  simp only [Bool.and_eq_true, decide_eq_true_eq] at hw
  obtain h1 := hw
  exact two (by apply encSI_lt <;> first | assumption | decide | omega) rfl

theorem barWait (l : Bool) (sa : Nat) : Statement (.barWait l sa) := by
  intro hw
  replace hw : (decide (sa < 64)) = true := hw
  simp only [Bool.and_eq_true, decide_eq_true_eq] at hw
  obtain h1 := hw
  exact two (by apply encSI_lt <;> first | assumption | decide | omega) rfl

theorem vadd (l : Bool) (vd va vb : Nat) : Statement (.vadd l vd va vb) := by
  intro hw
  replace hw : (decide (vd < 256) && decide (va < 256) && decide (vb < 256)) = true := hw
  simp only [Bool.and_eq_true, decide_eq_true_eq] at hw
  obtain ⟨⟨h1, h2⟩, h3⟩ := hw
  exact two (by apply encVR_lt <;> first | assumption | decide | omega) rfl

theorem vsub (l : Bool) (vd va vb : Nat) : Statement (.vsub l vd va vb) := by
  intro hw
  replace hw : (decide (vd < 256) && decide (va < 256) && decide (vb < 256)) = true := hw
  simp only [Bool.and_eq_true, decide_eq_true_eq] at hw
  obtain ⟨⟨h1, h2⟩, h3⟩ := hw
  exact two (by apply encVR_lt <;> first | assumption | decide | omega) rfl

theorem vmul (l : Bool) (vd va vb : Nat) : Statement (.vmul l vd va vb) := by
  intro hw
  replace hw : (decide (vd < 256) && decide (va < 256) && decide (vb < 256)) = true := hw
  simp only [Bool.and_eq_true, decide_eq_true_eq] at hw
  obtain ⟨⟨h1, h2⟩, h3⟩ := hw
  exact two (by apply encVR_lt <;> first | assumption | decide | omega) rfl

theorem vmulh (l : Bool) (vd va vb : Nat) : Statement (.vmulh l vd va vb) := by
  intro hw
  replace hw : (decide (vd < 256) && decide (va < 256) && decide (vb < 256)) = true := hw
  simp only [Bool.and_eq_true, decide_eq_true_eq] at hw
  obtain ⟨⟨h1, h2⟩, h3⟩ := hw
  exact two (by apply encVR_lt <;> first | assumption | decide | omega) rfl

theorem vmulhu (l : Bool) (vd va vb : Nat) : Statement (.vmulhu l vd va vb) := by
  intro hw
  replace hw : (decide (vd < 256) && decide (va < 256) && decide (vb < 256)) = true := hw
  simp only [Bool.and_eq_true, decide_eq_true_eq] at hw
  obtain ⟨⟨h1, h2⟩, h3⟩ := hw
  exact two (by apply encVR_lt <;> first | assumption | decide | omega) rfl

theorem vmla (l : Bool) (vd va vb : Nat) : Statement (.vmla l vd va vb) := by
  intro hw
  replace hw : (decide (vd < 256) && decide (va < 256) && decide (vb < 256)) = true := hw
  simp only [Bool.and_eq_true, decide_eq_true_eq] at hw
  obtain ⟨⟨h1, h2⟩, h3⟩ := hw
  exact two (by apply encVR_lt <;> first | assumption | decide | omega) rfl

theorem vmin (l : Bool) (vd va vb : Nat) : Statement (.vmin l vd va vb) := by
  intro hw
  replace hw : (decide (vd < 256) && decide (va < 256) && decide (vb < 256)) = true := hw
  simp only [Bool.and_eq_true, decide_eq_true_eq] at hw
  obtain ⟨⟨h1, h2⟩, h3⟩ := hw
  exact two (by apply encVR_lt <;> first | assumption | decide | omega) rfl

theorem vmax (l : Bool) (vd va vb : Nat) : Statement (.vmax l vd va vb) := by
  intro hw
  replace hw : (decide (vd < 256) && decide (va < 256) && decide (vb < 256)) = true := hw
  simp only [Bool.and_eq_true, decide_eq_true_eq] at hw
  obtain ⟨⟨h1, h2⟩, h3⟩ := hw
  exact two (by apply encVR_lt <;> first | assumption | decide | omega) rfl

theorem vabs (l : Bool) (vd va : Nat) : Statement (.vabs l vd va) := by
  intro hw
  replace hw : (decide (vd < 256) && decide (va < 256)) = true := hw
  simp only [Bool.and_eq_true, decide_eq_true_eq] at hw
  obtain ⟨h1, h2⟩ := hw
  exact two (by apply encVR_lt <;> first | assumption | decide | omega) rfl

theorem vneg (l : Bool) (vd va : Nat) : Statement (.vneg l vd va) := by
  intro hw
  replace hw : (decide (vd < 256) && decide (va < 256)) = true := hw
  simp only [Bool.and_eq_true, decide_eq_true_eq] at hw
  obtain ⟨h1, h2⟩ := hw
  exact two (by apply encVR_lt <;> first | assumption | decide | omega) rfl

theorem vand (l : Bool) (vd va vb : Nat) : Statement (.vand l vd va vb) := by
  intro hw
  replace hw : (decide (vd < 256) && decide (va < 256) && decide (vb < 256)) = true := hw
  simp only [Bool.and_eq_true, decide_eq_true_eq] at hw
  obtain ⟨⟨h1, h2⟩, h3⟩ := hw
  exact two (by apply encVR_lt <;> first | assumption | decide | omega) rfl

theorem vor (l : Bool) (vd va vb : Nat) : Statement (.vor l vd va vb) := by
  intro hw
  replace hw : (decide (vd < 256) && decide (va < 256) && decide (vb < 256)) = true := hw
  simp only [Bool.and_eq_true, decide_eq_true_eq] at hw
  obtain ⟨⟨h1, h2⟩, h3⟩ := hw
  exact two (by apply encVR_lt <;> first | assumption | decide | omega) rfl

theorem vxor (l : Bool) (vd va vb : Nat) : Statement (.vxor l vd va vb) := by
  intro hw
  replace hw : (decide (vd < 256) && decide (va < 256) && decide (vb < 256)) = true := hw
  simp only [Bool.and_eq_true, decide_eq_true_eq] at hw
  obtain ⟨⟨h1, h2⟩, h3⟩ := hw
  exact two (by apply encVR_lt <;> first | assumption | decide | omega) rfl

theorem vandn (l : Bool) (vd va vb : Nat) : Statement (.vandn l vd va vb) := by
  intro hw
  replace hw : (decide (vd < 256) && decide (va < 256) && decide (vb < 256)) = true := hw
  simp only [Bool.and_eq_true, decide_eq_true_eq] at hw
  obtain ⟨⟨h1, h2⟩, h3⟩ := hw
  exact two (by apply encVR_lt <;> first | assumption | decide | omega) rfl

theorem vpopc (l : Bool) (vd va : Nat) : Statement (.vpopc l vd va) := by
  intro hw
  replace hw : (decide (vd < 256) && decide (va < 256)) = true := hw
  simp only [Bool.and_eq_true, decide_eq_true_eq] at hw
  obtain ⟨h1, h2⟩ := hw
  exact two (by apply encVR_lt <;> first | assumption | decide | omega) rfl

theorem vshl (l : Bool) (vd va vb : Nat) : Statement (.vshl l vd va vb) := by
  intro hw
  replace hw : (decide (vd < 256) && decide (va < 256) && decide (vb < 256)) = true := hw
  simp only [Bool.and_eq_true, decide_eq_true_eq] at hw
  obtain ⟨⟨h1, h2⟩, h3⟩ := hw
  exact two (by apply encVR_lt <;> first | assumption | decide | omega) rfl

theorem vshr (l : Bool) (vd va vb : Nat) : Statement (.vshr l vd va vb) := by
  intro hw
  replace hw : (decide (vd < 256) && decide (va < 256) && decide (vb < 256)) = true := hw
  simp only [Bool.and_eq_true, decide_eq_true_eq] at hw
  obtain ⟨⟨h1, h2⟩, h3⟩ := hw
  exact two (by apply encVR_lt <;> first | assumption | decide | omega) rfl

theorem vsar (l : Bool) (vd va vb : Nat) : Statement (.vsar l vd va vb) := by
  intro hw
  replace hw : (decide (vd < 256) && decide (va < 256) && decide (vb < 256)) = true := hw
  simp only [Bool.and_eq_true, decide_eq_true_eq] at hw
  obtain ⟨⟨h1, h2⟩, h3⟩ := hw
  exact two (by apply encVR_lt <;> first | assumption | decide | omega) rfl

theorem vsel (l : Bool) (vd va vb : Nat) : Statement (.vsel l vd va vb) := by
  intro hw
  replace hw : (decide (vd < 256) && decide (va < 256) && decide (vb < 256)) = true := hw
  simp only [Bool.and_eq_true, decide_eq_true_eq] at hw
  obtain ⟨⟨h1, h2⟩, h3⟩ := hw
  exact two (by apply encVR_lt <;> first | assumption | decide | omega) rfl

theorem vmov (l : Bool) (vd va : Nat) : Statement (.vmov l vd va) := by
  intro hw
  replace hw : (decide (vd < 256) && decide (va < 256)) = true := hw
  simp only [Bool.and_eq_true, decide_eq_true_eq] at hw
  obtain ⟨h1, h2⟩ := hw
  exact two (by apply encVR_lt <;> first | assumption | decide | omega) rfl

theorem vbcast (l : Bool) (vd sa : Nat) : Statement (.vbcast l vd sa) := by
  intro hw
  replace hw : (decide (vd < 256) && decide (sa < 64)) = true := hw
  simp only [Bool.and_eq_true, decide_eq_true_eq] at hw
  obtain ⟨h1, h2⟩ := hw
  exact two (by apply encVM_lt <;> first | assumption | decide | omega) rfl

theorem vperm (l : Bool) (vd va vb : Nat) : Statement (.vperm l vd va vb) := by
  intro hw
  replace hw : (decide (vd < 256) && decide (va < 256) && decide (vb < 256)) = true := hw
  simp only [Bool.and_eq_true, decide_eq_true_eq] at hw
  obtain ⟨⟨h1, h2⟩, h3⟩ := hw
  exact two (by apply encVR_lt <;> first | assumption | decide | omega) rfl

theorem vli (l : Bool) (vd imm : Nat) : Statement (.vli l vd imm) := by
  intro hw
  replace hw : (decide (vd < 256) && decide (imm < 256)) = true := hw
  simp only [Bool.and_eq_true, decide_eq_true_eq] at hw
  obtain ⟨h1, h2⟩ := hw
  exact two (by apply encVR_lt <;> first | assumption | decide | omega) rfl

theorem vcmpEq (l : Bool) (pd va vb : Nat) : Statement (.vcmpEq l pd va vb) := by
  intro hw
  replace hw : (decide (pd < 16) && decide (va < 256) && decide (vb < 256)) = true := hw
  simp only [Bool.and_eq_true, decide_eq_true_eq] at hw
  obtain ⟨⟨h1, h2⟩, h3⟩ := hw
  exact two (by apply encVR_lt <;> first | assumption | decide | omega) rfl

theorem vcmpNe (l : Bool) (pd va vb : Nat) : Statement (.vcmpNe l pd va vb) := by
  intro hw
  replace hw : (decide (pd < 16) && decide (va < 256) && decide (vb < 256)) = true := hw
  simp only [Bool.and_eq_true, decide_eq_true_eq] at hw
  obtain ⟨⟨h1, h2⟩, h3⟩ := hw
  exact two (by apply encVR_lt <;> first | assumption | decide | omega) rfl

theorem vcmpLt (l : Bool) (pd va vb : Nat) : Statement (.vcmpLt l pd va vb) := by
  intro hw
  replace hw : (decide (pd < 16) && decide (va < 256) && decide (vb < 256)) = true := hw
  simp only [Bool.and_eq_true, decide_eq_true_eq] at hw
  obtain ⟨⟨h1, h2⟩, h3⟩ := hw
  exact two (by apply encVR_lt <;> first | assumption | decide | omega) rfl

theorem vcmpLtu (l : Bool) (pd va vb : Nat) : Statement (.vcmpLtu l pd va vb) := by
  intro hw
  replace hw : (decide (pd < 16) && decide (va < 256) && decide (vb < 256)) = true := hw
  simp only [Bool.and_eq_true, decide_eq_true_eq] at hw
  obtain ⟨⟨h1, h2⟩, h3⟩ := hw
  exact two (by apply encVR_lt <;> first | assumption | decide | omega) rfl

theorem vcmpLe (l : Bool) (pd va vb : Nat) : Statement (.vcmpLe l pd va vb) := by
  intro hw
  replace hw : (decide (pd < 16) && decide (va < 256) && decide (vb < 256)) = true := hw
  simp only [Bool.and_eq_true, decide_eq_true_eq] at hw
  obtain ⟨⟨h1, h2⟩, h3⟩ := hw
  exact two (by apply encVR_lt <;> first | assumption | decide | omega) rfl

theorem vcmpLeu (l : Bool) (pd va vb : Nat) : Statement (.vcmpLeu l pd va vb) := by
  intro hw
  replace hw : (decide (pd < 16) && decide (va < 256) && decide (vb < 256)) = true := hw
  simp only [Bool.and_eq_true, decide_eq_true_eq] at hw
  obtain ⟨⟨h1, h2⟩, h3⟩ := hw
  exact two (by apply encVR_lt <;> first | assumption | decide | omega) rfl

theorem vredAdd (l : Bool) (vd va : Nat) : Statement (.vredAdd l vd va) := by
  intro hw
  replace hw : (decide (vd < 256) && decide (va < 256)) = true := hw
  simp only [Bool.and_eq_true, decide_eq_true_eq] at hw
  obtain ⟨h1, h2⟩ := hw
  exact two (by apply encVR_lt <;> first | assumption | decide | omega) rfl

theorem vredMax (l : Bool) (vd va : Nat) : Statement (.vredMax l vd va) := by
  intro hw
  replace hw : (decide (vd < 256) && decide (va < 256)) = true := hw
  simp only [Bool.and_eq_true, decide_eq_true_eq] at hw
  obtain ⟨h1, h2⟩ := hw
  exact two (by apply encVR_lt <;> first | assumption | decide | omega) rfl

theorem vredMin (l : Bool) (vd va : Nat) : Statement (.vredMin l vd va) := by
  intro hw
  replace hw : (decide (vd < 256) && decide (va < 256)) = true := hw
  simp only [Bool.and_eq_true, decide_eq_true_eq] at hw
  obtain ⟨h1, h2⟩ := hw
  exact two (by apply encVR_lt <;> first | assumption | decide | omega) rfl

theorem vwmul (l : Bool) (vd va vb : Nat) : Statement (.vwmul l vd va vb) := by
  intro hw
  replace hw : (decide (vd < 256) && decide (va < 256) && decide (vb < 256)) = true := hw
  simp only [Bool.and_eq_true, decide_eq_true_eq] at hw
  obtain ⟨⟨h1, h2⟩, h3⟩ := hw
  exact two (by apply encVR_lt <;> first | assumption | decide | omega) rfl

theorem vwadd (l : Bool) (vd va vb : Nat) : Statement (.vwadd l vd va vb) := by
  intro hw
  replace hw : (decide (vd < 256) && decide (va < 256) && decide (vb < 256)) = true := hw
  simp only [Bool.and_eq_true, decide_eq_true_eq] at hw
  obtain ⟨⟨h1, h2⟩, h3⟩ := hw
  exact two (by apply encVR_lt <;> first | assumption | decide | omega) rfl

theorem vnarrow (l : Bool) (vd va : Nat) : Statement (.vnarrow l vd va) := by
  intro hw
  replace hw : (decide (vd < 256) && decide (va < 256)) = true := hw
  simp only [Bool.and_eq_true, decide_eq_true_eq] at hw
  obtain ⟨h1, h2⟩ := hw
  exact two (by apply encVR_lt <;> first | assumption | decide | omega) rfl

theorem vld (l : Bool) (v sa imm : Nat) : Statement (.vld l v sa imm) := by
  intro hw
  replace hw : (decide (v < 256) && decide (sa < 64) && decide (imm < 1024)) = true := hw
  simp only [Bool.and_eq_true, decide_eq_true_eq] at hw
  obtain ⟨⟨h1, h2⟩, h3⟩ := hw
  exact two (by apply encVM_lt <;> first | assumption | decide | omega) rfl

theorem vst (l : Bool) (v sa imm : Nat) : Statement (.vst l v sa imm) := by
  intro hw
  replace hw : (decide (v < 256) && decide (sa < 64) && decide (imm < 1024)) = true := hw
  simp only [Bool.and_eq_true, decide_eq_true_eq] at hw
  obtain ⟨⟨h1, h2⟩, h3⟩ := hw
  exact two (by apply encVM_lt <;> first | assumption | decide | omega) rfl

theorem vldx (l : Bool) (vd va : Nat) : Statement (.vldx l vd va) := by
  intro hw
  replace hw : (decide (vd < 256) && decide (va < 256)) = true := hw
  simp only [Bool.and_eq_true, decide_eq_true_eq] at hw
  obtain ⟨h1, h2⟩ := hw
  exact two (by apply encVR_lt <;> first | assumption | decide | omega) rfl

theorem vstx (l : Bool) (vd va : Nat) : Statement (.vstx l vd va) := by
  intro hw
  replace hw : (decide (vd < 256) && decide (va < 256)) = true := hw
  simp only [Bool.and_eq_true, decide_eq_true_eq] at hw
  obtain ⟨h1, h2⟩ := hw
  exact two (by apply encVR_lt <;> first | assumption | decide | omega) rfl

theorem vamoOr (l : Bool) (vd va vb : Nat) : Statement (.vamoOr l vd va vb) := by
  intro hw
  replace hw : (decide (vd < 256) && decide (va < 256) && decide (vb < 256)) = true := hw
  simp only [Bool.and_eq_true, decide_eq_true_eq] at hw
  obtain ⟨⟨h1, h2⟩, h3⟩ := hw
  exact two (by apply encVR_lt <;> first | assumption | decide | omega) rfl

theorem vamoAdd (l : Bool) (vd va vb : Nat) : Statement (.vamoAdd l vd va vb) := by
  intro hw
  replace hw : (decide (vd < 256) && decide (va < 256) && decide (vb < 256)) = true := hw
  simp only [Bool.and_eq_true, decide_eq_true_eq] at hw
  obtain ⟨⟨h1, h2⟩, h3⟩ := hw
  exact two (by apply encVR_lt <;> first | assumption | decide | omega) rfl

theorem vamoMin (l : Bool) (vd va vb : Nat) : Statement (.vamoMin l vd va vb) := by
  intro hw
  replace hw : (decide (vd < 256) && decide (va < 256) && decide (vb < 256)) = true := hw
  simp only [Bool.and_eq_true, decide_eq_true_eq] at hw
  obtain ⟨⟨h1, h2⟩, h3⟩ := hw
  exact two (by apply encVR_lt <;> first | assumption | decide | omega) rfl

theorem vamoMax (l : Bool) (vd va vb : Nat) : Statement (.vamoMax l vd va vb) := by
  intro hw
  replace hw : (decide (vd < 256) && decide (va < 256) && decide (vb < 256)) = true := hw
  simp only [Bool.and_eq_true, decide_eq_true_eq] at hw
  obtain ⟨⟨h1, h2⟩, h3⟩ := hw
  exact two (by apply encVR_lt <;> first | assumption | decide | omega) rfl

theorem vshape (l : Bool) (sa : Nat) : Statement (.vshape l sa) := by
  intro hw
  replace hw : (decide (sa < 64)) = true := hw
  simp only [Bool.and_eq_true, decide_eq_true_eq] at hw
  obtain h1 := hw
  exact two (by apply encVM_lt <;> first | assumption | decide | omega) rfl

theorem vwin (l : Bool) (sa imm : Nat) : Statement (.vwin l sa imm) := by
  intro hw
  replace hw : (decide (sa < 64) && decide (imm < 1024)) = true := hw
  simp only [Bool.and_eq_true, decide_eq_true_eq] at hw
  obtain ⟨h1, h2⟩ := hw
  exact two (by apply encVM_lt <;> first | assumption | decide | omega) rfl

theorem vrot (l : Bool) : Statement (.vrot l) := by
  intro _
  exact two (by apply encVR_lt <;> first | assumption | decide | omega) rfl

theorem vfadd (l : Bool) (vd va vb : Nat) : Statement (.vfadd l vd va vb) := by
  intro hw
  replace hw : (decide (vd < 256) && decide (va < 256) && decide (vb < 256)) = true := hw
  simp only [Bool.and_eq_true, decide_eq_true_eq] at hw
  obtain ⟨⟨h1, h2⟩, h3⟩ := hw
  exact two (by apply encVR_lt <;> first | assumption | decide | omega) rfl

theorem vfsub (l : Bool) (vd va vb : Nat) : Statement (.vfsub l vd va vb) := by
  intro hw
  replace hw : (decide (vd < 256) && decide (va < 256) && decide (vb < 256)) = true := hw
  simp only [Bool.and_eq_true, decide_eq_true_eq] at hw
  obtain ⟨⟨h1, h2⟩, h3⟩ := hw
  exact two (by apply encVR_lt <;> first | assumption | decide | omega) rfl

theorem vfmul (l : Bool) (vd va vb : Nat) : Statement (.vfmul l vd va vb) := by
  intro hw
  replace hw : (decide (vd < 256) && decide (va < 256) && decide (vb < 256)) = true := hw
  simp only [Bool.and_eq_true, decide_eq_true_eq] at hw
  obtain ⟨⟨h1, h2⟩, h3⟩ := hw
  exact two (by apply encVR_lt <;> first | assumption | decide | omega) rfl

theorem vfma (l : Bool) (vd va vb : Nat) : Statement (.vfma l vd va vb) := by
  intro hw
  replace hw : (decide (vd < 256) && decide (va < 256) && decide (vb < 256)) = true := hw
  simp only [Bool.and_eq_true, decide_eq_true_eq] at hw
  obtain ⟨⟨h1, h2⟩, h3⟩ := hw
  exact two (by apply encVR_lt <;> first | assumption | decide | omega) rfl

theorem vfmin (l : Bool) (vd va vb : Nat) : Statement (.vfmin l vd va vb) := by
  intro hw
  replace hw : (decide (vd < 256) && decide (va < 256) && decide (vb < 256)) = true := hw
  simp only [Bool.and_eq_true, decide_eq_true_eq] at hw
  obtain ⟨⟨h1, h2⟩, h3⟩ := hw
  exact two (by apply encVR_lt <;> first | assumption | decide | omega) rfl

theorem vfmax (l : Bool) (vd va vb : Nat) : Statement (.vfmax l vd va vb) := by
  intro hw
  replace hw : (decide (vd < 256) && decide (va < 256) && decide (vb < 256)) = true := hw
  simp only [Bool.and_eq_true, decide_eq_true_eq] at hw
  obtain ⟨⟨h1, h2⟩, h3⟩ := hw
  exact two (by apply encVR_lt <;> first | assumption | decide | omega) rfl

theorem vcvt (l : Bool) (vd va t : Nat) : Statement (.vcvt l vd va t) := by
  intro hw
  replace hw : (decide (vd < 256) && decide (va < 256) && decide (t < 16)) = true := hw
  simp only [Bool.and_eq_true, decide_eq_true_eq] at hw
  obtain ⟨⟨h1, h2⟩, h3⟩ := hw
  exact two (by apply encVR_lt <;> first | assumption | decide | omega) rfl

theorem vcvtMx (l : Bool) (vd va h amx fmt : Nat) : Statement (.vcvtMx l vd va h amx fmt) := by
  intro hw
  replace hw : (decide (vd < 256) && decide (va < 256) && decide (h < 2) && decide (amx < 16) && decide (fmt < 4)) = true := hw
  simp only [Bool.and_eq_true, decide_eq_true_eq] at hw
  obtain ⟨⟨⟨⟨h1, h2⟩, h3⟩, h4⟩, h5⟩ := hw
  exact two (by apply encVR_lt <;> first | assumption | decide | omega) rfl

theorem vexp2 (l : Bool) (vd va : Nat) : Statement (.vexp2 l vd va) := by
  intro hw
  replace hw : (decide (vd < 256) && decide (va < 256)) = true := hw
  simp only [Bool.and_eq_true, decide_eq_true_eq] at hw
  obtain ⟨h1, h2⟩ := hw
  exact two (by apply encVR_lt <;> first | assumption | decide | omega) rfl

theorem vlog2 (l : Bool) (vd va : Nat) : Statement (.vlog2 l vd va) := by
  intro hw
  replace hw : (decide (vd < 256) && decide (va < 256)) = true := hw
  simp only [Bool.and_eq_true, decide_eq_true_eq] at hw
  obtain ⟨h1, h2⟩ := hw
  exact two (by apply encVR_lt <;> first | assumption | decide | omega) rfl

theorem vrcp (l : Bool) (vd va : Nat) : Statement (.vrcp l vd va) := by
  intro hw
  replace hw : (decide (vd < 256) && decide (va < 256)) = true := hw
  simp only [Bool.and_eq_true, decide_eq_true_eq] at hw
  obtain ⟨h1, h2⟩ := hw
  exact two (by apply encVR_lt <;> first | assumption | decide | omega) rfl

theorem vrsqrt (l : Bool) (vd va : Nat) : Statement (.vrsqrt l vd va) := by
  intro hw
  replace hw : (decide (vd < 256) && decide (va < 256)) = true := hw
  simp only [Bool.and_eq_true, decide_eq_true_eq] at hw
  obtain ⟨h1, h2⟩ := hw
  exact two (by apply encVR_lt <;> first | assumption | decide | omega) rfl

theorem vtanh (l : Bool) (vd va : Nat) : Statement (.vtanh l vd va) := by
  intro hw
  replace hw : (decide (vd < 256) && decide (va < 256)) = true := hw
  simp only [Bool.and_eq_true, decide_eq_true_eq] at hw
  obtain ⟨h1, h2⟩ := hw
  exact two (by apply encVR_lt <;> first | assumption | decide | omega) rfl

theorem vwfUpd (l : Bool) (vd va vb : Nat) : Statement (.vwfUpd l vd va vb) := by
  intro hw
  replace hw : (decide (vd < 256) && decide (va < 256) && decide (vb < 256)) = true := hw
  simp only [Bool.and_eq_true, decide_eq_true_eq] at hw
  obtain ⟨⟨h1, h2⟩, h3⟩ := hw
  exact two (by apply encVR_lt <;> first | assumption | decide | omega) rfl

theorem vwfMrg (l : Bool) (vd va vb : Nat) : Statement (.vwfMrg l vd va vb) := by
  intro hw
  replace hw : (decide (vd < 256) && decide (va < 256) && decide (vb < 256)) = true := hw
  simp only [Bool.and_eq_true, decide_eq_true_eq] at hw
  obtain ⟨⟨h1, h2⟩, h3⟩ := hw
  exact two (by apply encVR_lt <;> first | assumption | decide | omega) rfl

theorem rowmax (l : Bool) (v sa : Nat) : Statement (.rowmax l v sa) := by
  intro hw
  replace hw : (decide (v < 256) && decide (sa < 64)) = true := hw
  simp only [Bool.and_eq_true, decide_eq_true_eq] at hw
  obtain ⟨h1, h2⟩ := hw
  exact two (by apply encVM_lt <;> first | assumption | decide | omega) rfl

theorem rowexp (l : Bool) (v sa vc : Nat) : Statement (.rowexp l v sa vc) := by
  intro hw
  replace hw : (decide (v < 256) && decide (sa < 64) && decide (vc < 256)) = true := hw
  simp only [Bool.and_eq_true, decide_eq_true_eq] at hw
  obtain ⟨⟨h1, h2⟩, h3⟩ := hw
  exact two (by apply encVM_lt <;> first | assumption | decide | omega) rfl

theorem rowscl (l : Bool) (v sa : Nat) : Statement (.rowscl l v sa) := by
  intro hw
  replace hw : (decide (v < 256) && decide (sa < 64)) = true := hw
  simp only [Bool.and_eq_true, decide_eq_true_eq] at hw
  obtain ⟨h1, h2⟩ := hw
  exact two (by apply encVM_lt <;> first | assumption | decide | omega) rfl

theorem mcfg (l : Bool) (sa : Nat) (g : Guard) : Statement (.mcfg l sa g) := by
  intro hw
  replace hw : (decide (sa < 64) && g.wf) = true := hw
  simp only [Bool.and_eq_true, decide_eq_true_eq] at hw
  obtain ⟨h1, h2⟩ := hw
  exact two (by apply encMR_lt <;> first | assumption | decide | omega) rfl

theorem mstream (l : Bool) (q sa : Nat) (g : Guard) : Statement (.mstream l q sa g) := by
  intro hw
  replace hw : (decide (q < 16) && decide (sa < 64) && g.wf) = true := hw
  simp only [Bool.and_eq_true, decide_eq_true_eq] at hw
  obtain ⟨⟨h1, h2⟩, h3⟩ := hw
  exact two (by apply encMR_lt <;> first | assumption | decide | omega) rfl

theorem mnest (l : Bool) (n sa : Nat) (g : Guard) : Statement (.mnest l n sa g) := by
  intro hw
  replace hw : (decide (n < 7) && decide (sa < 64) && g.wf) = true := hw
  simp only [Bool.and_eq_true, decide_eq_true_eq] at hw
  obtain ⟨⟨h1, h2⟩, h3⟩ := hw
  exact two (by apply encMR_lt <;> first | assumption | decide | omega) rfl

theorem mgo (l : Bool) (g : Guard) (t : Tok) : Statement (.mgo l g t) := by
  intro hw
  replace hw : (g.wf && t.wf) = true := hw
  simp only [Bool.and_eq_true, decide_eq_true_eq] at hw
  obtain ⟨h1, h2⟩ := hw
  exact twoWords (by apply encMR_lt <;> first | assumption | decide | omega) (encTok_lt _ (by assumption)) rfl

theorem mdrain (l : Bool) (g : Guard) : Statement (.mdrain l g) := by
  intro hw
  replace hw : (g.wf) = true := hw
  obtain h1 := hw
  exact two (by apply encMR_lt <;> first | assumption | decide | omega) rfl

theorem mzero (l : Bool) (tile : Nat) (g : Guard) : Statement (.mzero l tile g) := by
  intro hw
  replace hw : (decide (tile < 8) && g.wf) = true := hw
  simp only [Bool.and_eq_true, decide_eq_true_eq] at hw
  obtain ⟨h1, h2⟩ := hw
  exact two (by apply encMR_lt <;> first | assumption | decide | omega) rfl

theorem mgang (l : Bool) (mode : Nat) (g : Guard) : Statement (.mgang l mode g) := by
  intro hw
  replace hw : (decide (mode < 4) && g.wf) = true := hw
  simp only [Bool.and_eq_true, decide_eq_true_eq] at hw
  obtain ⟨h1, h2⟩ := hw
  exact two (by apply encMR_lt <;> first | assumption | decide | omega) rfl

theorem mstat (l : Bool) (c sa sb : Nat) (g : Guard) : Statement (.mstat l c sa sb g) := by
  intro hw
  replace hw : (decide (c < 3) && decide (sa < 64) && decide (sb < 64) && g.wf) = true := hw
  simp only [Bool.and_eq_true, decide_eq_true_eq] at hw
  obtain ⟨⟨⟨h1, h2⟩, h3⟩, h4⟩ := hw
  exact two (by apply encMR_lt <;> first | assumption | decide | omega) rfl

theorem gset (l : Bool) (sa : Nat) (g : Guard) : Statement (.gset l sa g) := by
  intro hw
  replace hw : (decide (sa < 64) && g.wf) = true := hw
  simp only [Bool.and_eq_true, decide_eq_true_eq] at hw
  obtain ⟨h1, h2⟩ := hw
  exact two (by apply encMR_lt <;> first | assumption | decide | omega) rfl

theorem gev (l : Bool) (sa : Nat) (g : Guard) : Statement (.gev l sa g) := by
  intro hw
  replace hw : (decide (sa < 64) && g.wf) = true := hw
  simp only [Bool.and_eq_true, decide_eq_true_eq] at hw
  obtain ⟨h1, h2⟩ := hw
  exact two (by apply encMR_lt <;> first | assumption | decide | omega) rfl

theorem gout (l : Bool) (sa sb : Nat) (g : Guard) : Statement (.gout l sa sb g) := by
  intro hw
  replace hw : (decide (sa < 64) && decide (sb < 64) && g.wf) = true := hw
  simp only [Bool.and_eq_true, decide_eq_true_eq] at hw
  obtain ⟨⟨h1, h2⟩, h3⟩ := hw
  exact two (by apply encMR_lt <;> first | assumption | decide | omega) rfl

theorem gstat (l : Bool) (c sb : Nat) (g : Guard) : Statement (.gstat l c sb g) := by
  intro hw
  replace hw : (decide (c < 4) && decide (sb < 64) && g.wf) = true := hw
  simp only [Bool.and_eq_true, decide_eq_true_eq] at hw
  obtain ⟨⟨h1, h2⟩, h3⟩ := hw
  exact two (by apply encMR_lt <;> first | assumption | decide | omega) rfl

theorem xcopy (l : Bool) (xa xb xc : Nat) (g : Guard) (t : Tok) : Statement (.xcopy l xa xb xc g t) := by
  intro hw
  replace hw : (decide (xa < 64) && decide (xb < 64) && decide (xc < 64) && g.wf && t.wf) = true := hw
  simp only [Bool.and_eq_true, decide_eq_true_eq] at hw
  obtain ⟨⟨⟨⟨h1, h2⟩, h3⟩, h4⟩, h5⟩ := hw
  exact twoWords (by apply encSR_lt <;> first | assumption | decide | omega) (encTok_lt _ (by assumption)) rfl

theorem xblk (l : Bool) (xa xb xc : Nat) (g : Guard) (t : Tok) : Statement (.xblk l xa xb xc g t) := by
  intro hw
  replace hw : (decide (xa < 64) && decide (xb < 64) && decide (xc < 64) && g.wf && t.wf) = true := hw
  simp only [Bool.and_eq_true, decide_eq_true_eq] at hw
  obtain ⟨⟨⟨⟨h1, h2⟩, h3⟩, h4⟩, h5⟩ := hw
  exact twoWords (by apply encSR_lt <;> first | assumption | decide | omega) (encTok_lt _ (by assumption)) rfl

theorem xpak (l : Bool) (xa xb xc : Nat) (g : Guard) (t : Tok) : Statement (.xpak l xa xb xc g t) := by
  intro hw
  replace hw : (decide (xa < 64) && decide (xb < 64) && decide (xc < 64) && g.wf && t.wf) = true := hw
  simp only [Bool.and_eq_true, decide_eq_true_eq] at hw
  obtain ⟨⟨⟨⟨h1, h2⟩, h3⟩, h4⟩, h5⟩ := hw
  exact twoWords (by apply encSR_lt <;> first | assumption | decide | omega) (encTok_lt _ (by assumption)) rfl

theorem xunp (l : Bool) (xa xb xc : Nat) (g : Guard) (t : Tok) : Statement (.xunp l xa xb xc g t) := by
  intro hw
  replace hw : (decide (xa < 64) && decide (xb < 64) && decide (xc < 64) && g.wf && t.wf) = true := hw
  simp only [Bool.and_eq_true, decide_eq_true_eq] at hw
  obtain ⟨⟨⟨⟨h1, h2⟩, h3⟩, h4⟩, h5⟩ := hw
  exact twoWords (by apply encSR_lt <;> first | assumption | decide | omega) (encTok_lt _ (by assumption)) rfl

theorem xfld (l : Bool) (xa xb w : Nat) (g : Guard) (t : Tok) : Statement (.xfld l xa xb w g t) := by
  intro hw
  replace hw : (decide (xa < 64) && decide (xb < 64) && decide (w < 4) && g.wf && t.wf) = true := hw
  simp only [Bool.and_eq_true, decide_eq_true_eq] at hw
  obtain ⟨⟨⟨⟨h1, h2⟩, h3⟩, h4⟩, h5⟩ := hw
  exact twoWords (by apply encSR_lt <;> first | assumption | decide | omega) (encTok_lt _ (by assumption)) rfl

theorem xfst (l : Bool) (xa xb w : Nat) (g : Guard) (t : Tok) : Statement (.xfst l xa xb w g t) := by
  intro hw
  replace hw : (decide (xa < 64) && decide (xb < 64) && decide (w < 4) && g.wf && t.wf) = true := hw
  simp only [Bool.and_eq_true, decide_eq_true_eq] at hw
  obtain ⟨⟨⟨⟨h1, h2⟩, h3⟩, h4⟩, h5⟩ := hw
  exact twoWords (by apply encSR_lt <;> first | assumption | decide | omega) (encTok_lt _ (by assumption)) rfl

theorem xamoAdd (l : Bool) (xa xb xc : Nat) (g : Guard) (t : Tok) : Statement (.xamoAdd l xa xb xc g t) := by
  intro hw
  replace hw : (decide (xa < 64) && decide (xb < 64) && decide (xc < 64) && g.wf && t.wf) = true := hw
  simp only [Bool.and_eq_true, decide_eq_true_eq] at hw
  obtain ⟨⟨⟨⟨h1, h2⟩, h3⟩, h4⟩, h5⟩ := hw
  exact twoWords (by apply encSR_lt <;> first | assumption | decide | omega) (encTok_lt _ (by assumption)) rfl

theorem xamoAnd (l : Bool) (xa xb xc : Nat) (g : Guard) (t : Tok) : Statement (.xamoAnd l xa xb xc g t) := by
  intro hw
  replace hw : (decide (xa < 64) && decide (xb < 64) && decide (xc < 64) && g.wf && t.wf) = true := hw
  simp only [Bool.and_eq_true, decide_eq_true_eq] at hw
  obtain ⟨⟨⟨⟨h1, h2⟩, h3⟩, h4⟩, h5⟩ := hw
  exact twoWords (by apply encSR_lt <;> first | assumption | decide | omega) (encTok_lt _ (by assumption)) rfl

theorem xamoOr (l : Bool) (xa xb xc : Nat) (g : Guard) (t : Tok) : Statement (.xamoOr l xa xb xc g t) := by
  intro hw
  replace hw : (decide (xa < 64) && decide (xb < 64) && decide (xc < 64) && g.wf && t.wf) = true := hw
  simp only [Bool.and_eq_true, decide_eq_true_eq] at hw
  obtain ⟨⟨⟨⟨h1, h2⟩, h3⟩, h4⟩, h5⟩ := hw
  exact twoWords (by apply encSR_lt <;> first | assumption | decide | omega) (encTok_lt _ (by assumption)) rfl

theorem xamoXor (l : Bool) (xa xb xc : Nat) (g : Guard) (t : Tok) : Statement (.xamoXor l xa xb xc g t) := by
  intro hw
  replace hw : (decide (xa < 64) && decide (xb < 64) && decide (xc < 64) && g.wf && t.wf) = true := hw
  simp only [Bool.and_eq_true, decide_eq_true_eq] at hw
  obtain ⟨⟨⟨⟨h1, h2⟩, h3⟩, h4⟩, h5⟩ := hw
  exact twoWords (by apply encSR_lt <;> first | assumption | decide | omega) (encTok_lt _ (by assumption)) rfl

theorem xamoMin (l : Bool) (xa xb xc : Nat) (g : Guard) (t : Tok) : Statement (.xamoMin l xa xb xc g t) := by
  intro hw
  replace hw : (decide (xa < 64) && decide (xb < 64) && decide (xc < 64) && g.wf && t.wf) = true := hw
  simp only [Bool.and_eq_true, decide_eq_true_eq] at hw
  obtain ⟨⟨⟨⟨h1, h2⟩, h3⟩, h4⟩, h5⟩ := hw
  exact twoWords (by apply encSR_lt <;> first | assumption | decide | omega) (encTok_lt _ (by assumption)) rfl

theorem xamoMax (l : Bool) (xa xb xc : Nat) (g : Guard) (t : Tok) : Statement (.xamoMax l xa xb xc g t) := by
  intro hw
  replace hw : (decide (xa < 64) && decide (xb < 64) && decide (xc < 64) && g.wf && t.wf) = true := hw
  simp only [Bool.and_eq_true, decide_eq_true_eq] at hw
  obtain ⟨⟨⟨⟨h1, h2⟩, h3⟩, h4⟩, h5⟩ := hw
  exact twoWords (by apply encSR_lt <;> first | assumption | decide | omega) (encTok_lt _ (by assumption)) rfl

theorem xamoMinu (l : Bool) (xa xb xc : Nat) (g : Guard) (t : Tok) : Statement (.xamoMinu l xa xb xc g t) := by
  intro hw
  replace hw : (decide (xa < 64) && decide (xb < 64) && decide (xc < 64) && g.wf && t.wf) = true := hw
  simp only [Bool.and_eq_true, decide_eq_true_eq] at hw
  obtain ⟨⟨⟨⟨h1, h2⟩, h3⟩, h4⟩, h5⟩ := hw
  exact twoWords (by apply encSR_lt <;> first | assumption | decide | omega) (encTok_lt _ (by assumption)) rfl

theorem xamoMaxu (l : Bool) (xa xb xc : Nat) (g : Guard) (t : Tok) : Statement (.xamoMaxu l xa xb xc g t) := by
  intro hw
  replace hw : (decide (xa < 64) && decide (xb < 64) && decide (xc < 64) && g.wf && t.wf) = true := hw
  simp only [Bool.and_eq_true, decide_eq_true_eq] at hw
  obtain ⟨⟨⟨⟨h1, h2⟩, h3⟩, h4⟩, h5⟩ := hw
  exact twoWords (by apply encSR_lt <;> first | assumption | decide | omega) (encTok_lt _ (by assumption)) rfl

theorem xvamoOr (l : Bool) (v xa xb : Nat) (g : Guard) (t : Tok) : Statement (.xvamoOr l v xa xb g t) := by
  intro hw
  replace hw : (decide (v < 256) && decide (xa < 64) && decide (xb < 64) && g.wf && t.wf) = true := hw
  simp only [Bool.and_eq_true, decide_eq_true_eq] at hw
  obtain ⟨⟨⟨⟨h1, h2⟩, h3⟩, h4⟩, h5⟩ := hw
  exact twoWords (by apply encXV_lt <;> first | assumption | decide | omega) (encTok_lt _ (by assumption)) rfl

theorem xvamoAdd (l : Bool) (v xa xb : Nat) (g : Guard) (t : Tok) : Statement (.xvamoAdd l v xa xb g t) := by
  intro hw
  replace hw : (decide (v < 256) && decide (xa < 64) && decide (xb < 64) && g.wf && t.wf) = true := hw
  simp only [Bool.and_eq_true, decide_eq_true_eq] at hw
  obtain ⟨⟨⟨⟨h1, h2⟩, h3⟩, h4⟩, h5⟩ := hw
  exact twoWords (by apply encXV_lt <;> first | assumption | decide | omega) (encTok_lt _ (by assumption)) rfl

theorem xvamoMin (l : Bool) (v xa xb : Nat) (g : Guard) (t : Tok) : Statement (.xvamoMin l v xa xb g t) := by
  intro hw
  replace hw : (decide (v < 256) && decide (xa < 64) && decide (xb < 64) && g.wf && t.wf) = true := hw
  simp only [Bool.and_eq_true, decide_eq_true_eq] at hw
  obtain ⟨⟨⟨⟨h1, h2⟩, h3⟩, h4⟩, h5⟩ := hw
  exact twoWords (by apply encXV_lt <;> first | assumption | decide | omega) (encTok_lt _ (by assumption)) rfl

theorem xvamoMax (l : Bool) (v xa xb : Nat) (g : Guard) (t : Tok) : Statement (.xvamoMax l v xa xb g t) := by
  intro hw
  replace hw : (decide (v < 256) && decide (xa < 64) && decide (xb < 64) && g.wf && t.wf) = true := hw
  simp only [Bool.and_eq_true, decide_eq_true_eq] at hw
  obtain ⟨⟨⟨⟨h1, h2⟩, h3⟩, h4⟩, h5⟩ := hw
  exact twoWords (by apply encXV_lt <;> first | assumption | decide | omega) (encTok_lt _ (by assumption)) rfl

theorem ownLend (l : Bool) (xa xb xc : Nat) (g : Guard) (t : Tok) : Statement (.ownLend l xa xb xc g t) := by
  intro hw
  replace hw : (decide (xa < 64) && decide (xb < 64) && decide (xc < 64) && g.wf && t.wf) = true := hw
  simp only [Bool.and_eq_true, decide_eq_true_eq] at hw
  obtain ⟨⟨⟨⟨h1, h2⟩, h3⟩, h4⟩, h5⟩ := hw
  exact twoWords (by apply encSR_lt <;> first | assumption | decide | omega) (encTok_lt _ (by assumption)) rfl

theorem ownRet (l : Bool) (xa : Nat) (g : Guard) (t : Tok) : Statement (.ownRet l xa g t) := by
  intro hw
  replace hw : (decide (xa < 64) && g.wf && t.wf) = true := hw
  simp only [Bool.and_eq_true, decide_eq_true_eq] at hw
  obtain ⟨⟨h1, h2⟩, h3⟩ := hw
  exact twoWords (by apply encSR_lt <;> first | assumption | decide | omega) (encTok_lt _ (by assumption)) rfl

theorem ownSplit (l : Bool) (xa : Nat) (g : Guard) (t : Tok) : Statement (.ownSplit l xa g t) := by
  intro hw
  replace hw : (decide (xa < 64) && g.wf && t.wf) = true := hw
  simp only [Bool.and_eq_true, decide_eq_true_eq] at hw
  obtain ⟨⟨h1, h2⟩, h3⟩ := hw
  exact twoWords (by apply encSR_lt <;> first | assumption | decide | omega) (encTok_lt _ (by assumption)) rfl

theorem ownJoin (l : Bool) (xa : Nat) (g : Guard) (t : Tok) : Statement (.ownJoin l xa g t) := by
  intro hw
  replace hw : (decide (xa < 64) && g.wf && t.wf) = true := hw
  simp only [Bool.and_eq_true, decide_eq_true_eq] at hw
  obtain ⟨⟨h1, h2⟩, h3⟩ := hw
  exact twoWords (by apply encSR_lt <;> first | assumption | decide | omega) (encTok_lt _ (by assumption)) rfl

theorem ownQuery (l : Bool) (xa xb : Nat) (g : Guard) (t : Tok) : Statement (.ownQuery l xa xb g t) := by
  intro hw
  replace hw : (decide (xa < 64) && decide (xb < 64) && g.wf && t.wf) = true := hw
  simp only [Bool.and_eq_true, decide_eq_true_eq] at hw
  obtain ⟨⟨⟨h1, h2⟩, h3⟩, h4⟩ := hw
  exact twoWords (by apply encSR_lt <;> first | assumption | decide | omega) (encTok_lt _ (by assumption)) rfl

theorem ownReclaim (l : Bool) (xa xb : Nat) (g : Guard) (t : Tok) : Statement (.ownReclaim l xa xb g t) := by
  intro hw
  replace hw : (decide (xa < 64) && decide (xb < 64) && g.wf && t.wf) = true := hw
  simp only [Bool.and_eq_true, decide_eq_true_eq] at hw
  obtain ⟨⟨⟨h1, h2⟩, h3⟩, h4⟩ := hw
  exact twoWords (by apply encSR_lt <;> first | assumption | decide | omega) (encTok_lt _ (by assumption)) rfl

theorem send (l : Bool) (tag xa xb : Nat) (g : Guard) : Statement (.send l tag xa xb g) := by
  intro hw
  replace hw : (decide (tag < 256) && decide (xa < 64) && decide (xb < 64) && g.wf) = true := hw
  simp only [Bool.and_eq_true, decide_eq_true_eq] at hw
  obtain ⟨⟨⟨h1, h2⟩, h3⟩, h4⟩ := hw
  exact two (by apply encXV_lt <;> first | assumption | decide | omega) rfl

theorem recv (l : Bool) (tag xa xb : Nat) (g : Guard) : Statement (.recv l tag xa xb g) := by
  intro hw
  replace hw : (decide (tag < 256) && decide (xa < 64) && decide (xb < 64) && g.wf) = true := hw
  simp only [Bool.and_eq_true, decide_eq_true_eq] at hw
  obtain ⟨⟨⟨h1, h2⟩, h3⟩, h4⟩ := hw
  exact two (by apply encXV_lt <;> first | assumption | decide | omega) rfl

theorem ovl (l : Bool) (xa xb xc : Nat) (g : Guard) (t : Tok) : Statement (.ovl l xa xb xc g t) := by
  intro hw
  replace hw : (decide (xa < 64) && decide (xb < 64) && decide (xc < 64) && g.wf && t.wf) = true := hw
  simp only [Bool.and_eq_true, decide_eq_true_eq] at hw
  obtain ⟨⟨⟨⟨h1, h2⟩, h3⟩, h4⟩, h5⟩ := hw
  exact twoWords (by apply encSR_lt <;> first | assumption | decide | omega) (encTok_lt _ (by assumption)) rfl

theorem replay (l : Bool) (g : Guard) (t : Tok) : Statement (.replay l g t) := by
  intro hw
  replace hw : (g.wf && t.wfReplay) = true := hw
  simp only [Bool.and_eq_true, decide_eq_true_eq] at hw
  obtain ⟨h1, h2⟩ := hw
  exact twoWords (by apply encSR_lt <;> first | assumption | decide | omega) (encTok_lt_replay _ (by assumption)) rfl

theorem resultLanding (k : Nat) : Statement (.resultLanding k) := fun _ => none_ Bool.false_ne_true

theorem lockEntryRelease : Statement (.lockEntryRelease) := fun _ => none_ Bool.false_ne_true

theorem domainWakeComplete (d : Nat) (parityFail : Bool) : Statement (.domainWakeComplete d parityFail) := fun _ => none_ Bool.false_ne_true

theorem domainGating (d : Nat) : Statement (.domainGating d) := fun _ => none_ Bool.false_ne_true

theorem inrushRefill : Statement (.inrushRefill) := fun _ => none_ Bool.false_ne_true

theorem queueCommandBegin (q : Nat) : Statement (.queueCommandBegin q) := fun _ => none_ Bool.false_ne_true

theorem farAccessAtHome (q j : Nat) (ecc : Bool) : Statement (.farAccessAtHome q j ecc) := fun _ => none_ Bool.false_ne_true

theorem commandCompletion (q : Nat) : Statement (.commandCompletion q) := fun _ => none_ Bool.false_ne_true

theorem guardedOffPush (k : Nat) : Statement (.guardedOffPush k) := fun _ => none_ Bool.false_ne_true

theorem waitKTokenTake : Statement (.waitKTokenTake) := fun _ => none_ Bool.false_ne_true

theorem ownershipQueueExecute : Statement (.ownershipQueueExecute) := fun _ => none_ Bool.false_ne_true

theorem crystallizerDispatch : Statement (.crystallizerDispatch) := fun _ => none_ Bool.false_ne_true

theorem czIdleOff (die pan : Nat) : Statement (.czIdleOff die pan) := fun _ => none_ Bool.false_ne_true

theorem vaultSubbankWake (die pan bank : Nat) (parityFail : Bool) : Statement (.vaultSubbankWake die pan bank parityFail) := fun _ => none_ Bool.false_ne_true

theorem vaultSubbankSleep (die pan bank : Nat) (retain : Bool) : Statement (.vaultSubbankSleep die pan bank retain) := fun _ => none_ Bool.false_ne_true

theorem backgroundScrub (granule : Nat) : Statement (.backgroundScrub granule) := fun _ => none_ Bool.false_ne_true

theorem nestStart : Statement (.nestStart) := fun _ => none_ Bool.false_ne_true

theorem nestCompletion : Statement (.nestCompletion) := fun _ => none_ Bool.false_ne_true

theorem grammarRuleEvaluation : Statement (.grammarRuleEvaluation) := fun _ => none_ Bool.false_ne_true

theorem gevCompletion : Statement (.gevCompletion) := fun _ => none_ Bool.false_ne_true

theorem rowPassCompletion (kind : Nat) : Statement (.rowPassCompletion kind) := fun _ => none_ Bool.false_ne_true

theorem phaseEnd (k : Nat) : Statement (.phaseEnd k) := fun _ => none_ Bool.false_ne_true

theorem alignedRegionBegin : Statement (.alignedRegionBegin) := fun _ => none_ Bool.false_ne_true

theorem alignedRegionTimeout : Statement (.alignedRegionTimeout) := fun _ => none_ Bool.false_ne_true

theorem sendDelivery : Statement (.sendDelivery) := fun _ => none_ Bool.false_ne_true

theorem barrierEpisodeComplete (ltag handle : Nat) : Statement (.barrierEpisodeComplete ltag handle) := fun _ => none_ Bool.false_ne_true

theorem sluiceResume : Statement (.sluiceResume) := fun _ => none_ Bool.false_ne_true

theorem impreciseTrapTaken : Statement (.impreciseTrapTaken) := fun _ => none_ Bool.false_ne_true

theorem watchdogExpiry : Statement (.watchdogExpiry) := fun _ => none_ Bool.false_ne_true

theorem dumpWrite (team : TeamId) : Statement (.dumpWrite team) := fun _ => none_ Bool.false_ne_true

theorem teamRetire (team : TeamId) : Statement (.teamRetire team) := fun _ => none_ Bool.false_ne_true

theorem preemption (ltag cohort : Nat) : Statement (.preemption ltag cohort) := fun _ => none_ Bool.false_ne_true

theorem contextSave (team : TeamId) : Statement (.contextSave team) := fun _ => none_ Bool.false_ne_true

theorem contextRestore (ltag cohort : Nat) : Statement (.contextRestore ltag cohort) := fun _ => none_ Bool.false_ne_true

theorem requestSubmit (aqi : Nat) (pasid : Option Nat) (bytes : Nat) (packet : BitVec 512) : Statement (.requestSubmit aqi pasid bytes packet) := fun _ => none_ Bool.false_ne_true

theorem launchStart (node : Nat) : Statement (.launchStart node) := fun _ => none_ Bool.false_ne_true

theorem cohortStart (ltag : Nat) : Statement (.cohortStart ltag) := fun _ => none_ Bool.false_ne_true

theorem transferNodeStart (node : Nat) : Statement (.transferNodeStart node) := fun _ => none_ Bool.false_ne_true

theorem transformNodeStart (node : Nat) : Statement (.transformNodeStart node) := fun _ => none_ Bool.false_ne_true

theorem signalNode (node : Nat) : Statement (.signalNode node) := fun _ => none_ Bool.false_ne_true

theorem waitNodeCheck (node : Nat) : Statement (.waitNodeCheck node) := fun _ => none_ Bool.false_ne_true

theorem nodeCompletion (node : Nat) : Statement (.nodeCompletion node) := fun _ => none_ Bool.false_ne_true

theorem linkFailure (die : Nat) : Statement (.linkFailure die) := fun _ => none_ Bool.false_ne_true

theorem weftUnreachable (dev : Nat) : Statement (.weftUnreachable dev) := fun _ => none_ Bool.false_ne_true

theorem regionMove (base ctx : Nat) : Statement (.regionMove base ctx) := fun _ => none_ Bool.false_ne_true

theorem islandFrequencyChange (die mhz : Nat) : Statement (.islandFrequencyChange die mhz) := fun _ => none_ Bool.false_ne_true

theorem invalidationComplete : Statement (.invalidationComplete) := fun _ => none_ Bool.false_ne_true

theorem cxlMemAccess (window off : Nat) (write : Option (BitVec 512)) : Statement (.cxlMemAccess window off write) := fun _ => none_ Bool.false_ne_true

theorem eventWrite (aqi : Nat) : Statement (.eventWrite aqi) := fun _ => none_ Bool.false_ne_true

theorem evtailWrite (aqi value : Nat) : Statement (.evtailWrite aqi value) := fun _ => none_ Bool.false_ne_true

theorem regionCreate (m : Mgmt) : Statement (.regionCreate m) := fun _ => none_ Bool.false_ne_true

theorem regionDestroy (m : Mgmt) : Statement (.regionDestroy m) := fun _ => none_ Bool.false_ne_true

theorem inval (m : Mgmt) : Statement (.inval m) := fun _ => none_ Bool.false_ne_true

theorem dumpreg (m : Mgmt) : Statement (.dumpreg m) := fun _ => none_ Bool.false_ne_true

theorem counters (m : Mgmt) : Statement (.counters m) := fun _ => none_ Bool.false_ne_true

theorem lend (m : Mgmt) : Statement (.lend m) := fun _ => none_ Bool.false_ne_true

theorem hostReturn (m : Mgmt) : Statement (.hostReturn m) := fun _ => none_ Bool.false_ne_true

theorem imgExport (m : Mgmt) : Statement (.imgExport m) := fun _ => none_ Bool.false_ne_true

theorem imgImport (m : Mgmt) : Statement (.imgImport m) := fun _ => none_ Bool.false_ne_true

theorem watch (m : Mgmt) : Statement (.watch m) := fun _ => none_ Bool.false_ne_true

theorem attest (m : Mgmt) : Statement (.attest m) := fun _ => none_ Bool.false_ne_true

theorem aqiBind (m : Mgmt) : Statement (.aqiBind m) := fun _ => none_ Bool.false_ne_true

theorem aqiUnbind (m : Mgmt) : Statement (.aqiUnbind m) := fun _ => none_ Bool.false_ne_true

theorem pasidSet (m : Mgmt) : Statement (.pasidSet m) := fun _ => none_ Bool.false_ne_true

theorem pasidRevoke (m : Mgmt) : Statement (.pasidRevoke m) := fun _ => none_ Bool.false_ne_true

theorem irqSet (m : Mgmt) : Statement (.irqSet m) := fun _ => none_ Bool.false_ne_true

theorem hdmBind (m : Mgmt) : Statement (.hdmBind m) := fun _ => none_ Bool.false_ne_true

theorem devdump (m : Mgmt) : Statement (.devdump m) := fun _ => none_ Bool.false_ne_true

theorem power (m : Mgmt) : Statement (.power m) := fun _ => none_ Bool.false_ne_true

theorem weftId (m : Mgmt) : Statement (.weftId m) := fun _ => none_ Bool.false_ne_true

theorem deviceWideDump : Statement (.deviceWideDump) := fun _ => none_ Bool.false_ne_true

theorem weftRead (f : Flit) : Statement (.weftRead f) := fun _ => none_ Bool.false_ne_true

theorem weftReadData (f : Flit) : Statement (.weftReadData f) := fun _ => none_ Bool.false_ne_true

theorem weftWrite (f : Flit) : Statement (.weftWrite f) := fun _ => none_ Bool.false_ne_true

theorem weftWriteAcknowledge (f : Flit) : Statement (.weftWriteAcknowledge f) := fun _ => none_ Bool.false_ne_true

theorem weftAtomic (f : Flit) : Statement (.weftAtomic f) := fun _ => none_ Bool.false_ne_true

theorem weftAtomicResult (f : Flit) : Statement (.weftAtomicResult f) := fun _ => none_ Bool.false_ne_true

theorem weftOwnership (f : Flit) : Statement (.weftOwnership f) := fun _ => none_ Bool.false_ne_true

theorem weftBarrier (f : Flit) : Statement (.weftBarrier f) := fun _ => none_ Bool.false_ne_true

theorem weftPause (f : Flit) : Statement (.weftPause f) := fun _ => none_ Bool.false_ne_true

theorem weftPauseExpiry (lane : Nat) : Statement (.weftPauseExpiry lane) := fun _ => none_ Bool.false_ne_true

theorem weftLoomControl (f : Flit) : Statement (.weftLoomControl f) := fun _ => none_ Bool.false_ne_true

theorem weftFlitDiscard (f : Flit) : Statement (.weftFlitDiscard f) := fun _ => none_ Bool.false_ne_true

theorem deviceReset (verified : Bool) : Statement (.deviceReset verified) := fun _ => none_ Bool.false_ne_true

theorem selvedgeFirmwareStage (verified : Bool) : Statement (.selvedgeFirmwareStage verified) := fun _ => none_ Bool.false_ne_true

theorem loomSelfTest (failing : List Nat) : Statement (.loomSelfTest failing) := fun _ => none_ Bool.false_ne_true

theorem linkTraining (failing : List Nat) : Statement (.linkTraining failing) := fun _ => none_ Bool.false_ne_true

theorem aqi0Enable : Statement (.aqi0Enable) := fun _ => none_ Bool.false_ne_true

theorem hostReset (aqi : Nat) : Statement (.hostReset aqi) := fun _ => none_ Bool.false_ne_true

theorem debuggerHalt (team : TeamId) : Statement (.debuggerHalt team) := fun _ => none_ Bool.false_ne_true

theorem debuggerRelease (team : TeamId) : Statement (.debuggerRelease team) := fun _ => none_ Bool.false_ne_true

/-- The law holds of every instruction. -/
theorem all (i : Instr) : Statement i := by
  cases i
  · apply add
  · apply sub
  · apply and
  · apply or
  · apply xor
  · apply andn
  · apply shl
  · apply shr
  · apply sar
  · apply min
  · apply max
  · apply minu
  · apply maxu
  · apply clz
  · apply ctz
  · apply popc
  · apply mul
  · apply mulh
  · apply mulhu
  · apply div
  · apply divu
  · apply rem
  · apply remu
  · apply cmpEq
  · apply cmpNe
  · apply cmpLt
  · apply cmpLtu
  · apply cmpLe
  · apply cmpLeu
  · apply pand
  · apply por
  · apply pxor
  · apply pnot
  · apply sel
  · apply wake
  · apply sleep
  · apply retain
  · apply pwait
  · apply addi
  · apply andi
  · apply ori
  · apply xori
  · apply shli
  · apply shri
  · apply sari
  · apply lea
  · apply ldB
  · apply ldH
  · apply ldW
  · apply ldD
  · apply stB
  · apply stH
  · apply stW
  · apply stD
  · apply lit
  · apply litHi
  · apply br
  · apply jmp
  · apply call
  · apply loop
  · apply rpt
  · apply gap
  · apply trap
  · apply csrr
  · apply csrw
  · apply csrwLockmask
  · apply csrwTrapvec
  · apply csrwVwb
  · apply csrwTwist
  · apply csrwVshape
  · apply csrwCzlist
  · apply csrwAmax
  · apply ret
  · apply markR
  · apply eret
  · apply eretR
  · apply done
  · apply waitK
  · apply qmark
  · apply pmark
  · apply realign
  · apply unalign
  · apply barArr
  · apply barWait
  · apply vadd
  · apply vsub
  · apply vmul
  · apply vmulh
  · apply vmulhu
  · apply vmla
  · apply vmin
  · apply vmax
  · apply vabs
  · apply vneg
  · apply vand
  · apply vor
  · apply vxor
  · apply vandn
  · apply vpopc
  · apply vshl
  · apply vshr
  · apply vsar
  · apply vsel
  · apply vmov
  · apply vbcast
  · apply vperm
  · apply vli
  · apply vcmpEq
  · apply vcmpNe
  · apply vcmpLt
  · apply vcmpLtu
  · apply vcmpLe
  · apply vcmpLeu
  · apply vredAdd
  · apply vredMax
  · apply vredMin
  · apply vwmul
  · apply vwadd
  · apply vnarrow
  · apply vld
  · apply vst
  · apply vldx
  · apply vstx
  · apply vamoOr
  · apply vamoAdd
  · apply vamoMin
  · apply vamoMax
  · apply vshape
  · apply vwin
  · apply vrot
  · apply vfadd
  · apply vfsub
  · apply vfmul
  · apply vfma
  · apply vfmin
  · apply vfmax
  · apply vcvt
  · apply vcvtMx
  · apply vexp2
  · apply vlog2
  · apply vrcp
  · apply vrsqrt
  · apply vtanh
  · apply vwfUpd
  · apply vwfMrg
  · apply rowmax
  · apply rowexp
  · apply rowscl
  · apply mcfg
  · apply mstream
  · apply mnest
  · apply mgo
  · apply mdrain
  · apply mzero
  · apply mgang
  · apply mstat
  · apply gset
  · apply gev
  · apply gout
  · apply gstat
  · apply xcopy
  · apply xblk
  · apply xpak
  · apply xunp
  · apply xfld
  · apply xfst
  · apply xamoAdd
  · apply xamoAnd
  · apply xamoOr
  · apply xamoXor
  · apply xamoMin
  · apply xamoMax
  · apply xamoMinu
  · apply xamoMaxu
  · apply xvamoOr
  · apply xvamoAdd
  · apply xvamoMin
  · apply xvamoMax
  · apply ownLend
  · apply ownRet
  · apply ownSplit
  · apply ownJoin
  · apply ownQuery
  · apply ownReclaim
  · apply send
  · apply recv
  · apply ovl
  · apply replay
  · apply resultLanding
  · apply lockEntryRelease
  · apply domainWakeComplete
  · apply domainGating
  · apply inrushRefill
  · apply queueCommandBegin
  · apply farAccessAtHome
  · apply commandCompletion
  · apply guardedOffPush
  · apply waitKTokenTake
  · apply ownershipQueueExecute
  · apply crystallizerDispatch
  · apply czIdleOff
  · apply vaultSubbankWake
  · apply vaultSubbankSleep
  · apply backgroundScrub
  · apply nestStart
  · apply nestCompletion
  · apply grammarRuleEvaluation
  · apply gevCompletion
  · apply rowPassCompletion
  · apply phaseEnd
  · apply alignedRegionBegin
  · apply alignedRegionTimeout
  · apply sendDelivery
  · apply barrierEpisodeComplete
  · apply sluiceResume
  · apply impreciseTrapTaken
  · apply watchdogExpiry
  · apply dumpWrite
  · apply teamRetire
  · apply preemption
  · apply contextSave
  · apply contextRestore
  · apply requestSubmit
  · apply launchStart
  · apply cohortStart
  · apply transferNodeStart
  · apply transformNodeStart
  · apply signalNode
  · apply waitNodeCheck
  · apply nodeCompletion
  · apply linkFailure
  · apply weftUnreachable
  · apply regionMove
  · apply islandFrequencyChange
  · apply invalidationComplete
  · apply cxlMemAccess
  · apply eventWrite
  · apply evtailWrite
  · apply regionCreate
  · apply regionDestroy
  · apply inval
  · apply dumpreg
  · apply counters
  · apply lend
  · apply hostReturn
  · apply imgExport
  · apply imgImport
  · apply watch
  · apply attest
  · apply aqiBind
  · apply aqiUnbind
  · apply pasidSet
  · apply pasidRevoke
  · apply irqSet
  · apply hdmBind
  · apply devdump
  · apply power
  · apply weftId
  · apply deviceWideDump
  · apply weftRead
  · apply weftReadData
  · apply weftWrite
  · apply weftWriteAcknowledge
  · apply weftAtomic
  · apply weftAtomicResult
  · apply weftOwnership
  · apply weftBarrier
  · apply weftPause
  · apply weftPauseExpiry
  · apply weftLoomControl
  · apply weftFlitDiscard
  · apply deviceReset
  · apply selvedgeFirmwareStage
  · apply loomSelfTest
  · apply linkTraining
  · apply aqi0Enable
  · apply hostReset
  · apply debuggerHalt
  · apply debuggerRelease

end Sys2Proof.Laws.Words
end

