-- ==== Sys2Proof/Tests/States.lean ====
section
/-! SUPPORT. Small states for the tests, the checks by which a test decides that a word runs, and what an answer gives.
The values in the registers are the tests' own. -/

namespace Sys2Proof.Tests

open Sys2Proof.Machine Sys2Proof.Claims

/-- The guard that is always on: p0, not negated. -/
def g0 : Guard := ⟨0, false⟩
/-- A guard that is off: p0, negated. -/
def goff : Guard := ⟨0, true⟩
/-- A token word that pops nothing and pushes channel 1. -/
def tok : Tok := ⟨1, 15, 15, 15⟩

/-- A team of one core, resident. -/
def team0 : Team where
  id := ⟨1, 0⟩
  ctx := 3
  pasid := 0
  gw := 0
  cohort := 0
  status := .resident
  wdog := 1000
  halted := false
  holdings := []
  stats := []
  snap := []
  mark := 0
  voids := []
  fatal := none
  image := []
  since := 0
  wanted := false
  heldWas := none

/-- A core with that team, every domain ON. -/
def core0 : Core := { Core.reset 0 with
  team := some ⟨1, 0⟩
  lens := [256, 256, 256, 256, 64]
  dom := (List.range 26).map fun d => (d, Dom.on) }

/-- The machine of the tests: one core, about to issue the S strand's word. -/
def base : State := { State.reset with
  core := core0
  others := []
  teams := [team0]
  cycle := 100
  turn := 1
  phase := .issue [.s] }

/-- Changes the core of the test machine. -/
def onBase (f : Core → Core) : State := base.onCore f

/-- The test machine with scalar registers. -/
def withS (rs : List (Nat × Word)) : State := onBase fun c => { c with s := rs }

/-- The same with predicate registers, with vector registers, with control registers. -/
def withP (rs : List (Nat × Pred)) : State := onBase fun c => { c with p := rs }
def withV (shape : Word) (rs : List (Nat × VReg)) : State :=
  onBase fun c => { c.setCsr 0x2A shape with v := rs }
def withCsr (sel : Nat) (x : Word) : State := onBase fun c => c.setCsr sel x

/-! ### Checks -/

def standsB (s : State) (i : Issue) : Bool := (s.placeTraps i).isEmpty && i.enc.isEmpty && (s.contractTraps i).isEmpty

theorem stands_of {s : State} {i : Issue} (h : standsB s i = true) : Stands s i := by
  simpa [standsB, Stands, and_assoc] using h

def runsB (s : State) (i : Issue) : Bool := standsB s i && (i.g.all fun g => !s.guardedOff g)

theorem runs_of {s : State} {i : Issue} (h : runsB s i = true) : Runs s i := by
  simp only [runsB, Bool.and_eq_true] at h
  refine ⟨stands_of h.1, fun g hg => ?_⟩
  simpa [hg] using h.2

def offB (s : State) (i : Issue) : Bool := standsB s i && (i.g.any fun g => s.guardedOff g)

theorem off_of {s : State} {i : Issue} (h : offB s i = true) : GuardedOff s i := by
  simp only [offB, Bool.and_eq_true] at h
  refine ⟨stands_of h.1, ?_⟩
  cases hg : i.g with
  | none => simp [hg] at h
  | some g => exact ⟨g, rfl, by simpa [hg] using h.2⟩

def usableB (s : State) (d : Nat) : Bool := s.core.isOn d && !s.core.lost.contains d

theorem usable_of {s : State} {d : Nat} (h : usableB s d = true) : Usable s d := by
  simpa [usableB, Usable] using h

def vreadyB (s : State) (cls : Nat) (l : Bool) (doms names : List Nat) : Bool :=
  standsB s (vi cls l) && names.all (fun n => decide (n < 256) && usableB s (8 + s.phys n / 128)) && doms.all (usableB s)

theorem vready_of {s : State} {cls : Nat} {l : Bool} {P : Prop} {doms names : List Nat} (p : P)
    (h : vreadyB s cls l doms names = true) : VReady s cls l P doms names := by
  simp only [vreadyB, Bool.and_eq_true, List.all_eq_true, decide_eq_true_eq] at h
  exact ⟨stands_of h.1.1, p, fun n hn => (h.1.2 n hn).1, fun d hd => usable_of (h.2 d hd),
    fun n hn => usable_of (h.1.2 n hn).2⟩

/-- Whether a word answers a next state with a property. -/
def gives (o : Out) (p : State → Bool) : Bool :=
  match o with
  | .next t => p t
  | _ => false

/-- Whether a word leaves the core running with a property: no fatal trap was taken. -/
def runsTo (i : Instr) (s : State) (p : State → Bool) : Bool := gives (exec i s) fun t => !t.core.stopped && p t

/-- The value in flight to a destination, 0 where there is none. -/
def flying (d : Dest) (t : State) : Nat :=
  match t.core.pend.find? fun l => decide (l.dest = d) with
  | some l => l.value
  | none => 0

/-- Whether an answer is a trap of a code with a TRAPINFO. -/
def traps (i : Instr) (s : State) (code info : Nat) : Bool :=
  gives (exec i s) fun t => decide (t.trapped = some ⟨code, BitVec.ofNat 64 info⟩)

end Sys2Proof.Tests
end

