-- ==== Sys2Proof/Tests/Slice0.lean ====
section
/-! SUPPORT. Tests: a word of every instruction decoded, ill-formed terms refused, results of single words, and a witness
for the hypotheses of every obligation. Expected words and results are the manual's; the witnesses' values are the tests'. -/

set_option Elab.async false

namespace Sys2Proof.Tests

open Sys2Proof.Machine Sys2Proof.Claims

/-! ### Decoding: a word of every instruction, as the manual's own examples and its encoding tables have it (R35 to R38, R46
to R51) -/

theorem test_decode_scalar_registers :
    decodeWords .s 0x82282100 0 = .ok (.add true 5 1 2 ⟨0, false⟩)
    ∧ decodeWords .s 0x022930A9 0 = .ok (.sub false 5 9 33 ⟨2, true⟩)
    ∧ decodeWords .s 0x022930AA 0 = .ok (.and false 5 9 33 ⟨2, true⟩)
    ∧ decodeWords .s 0x022930AB 0 = .ok (.or false 5 9 33 ⟨2, true⟩)
    ∧ decodeWords .s 0x022930AC 0 = .ok (.xor false 5 9 33 ⟨2, true⟩)
    ∧ decodeWords .s 0x022930AD 0 = .ok (.andn false 5 9 33 ⟨2, true⟩)
    ∧ decodeWords .s 0x022930AE 0 = .ok (.shl false 5 9 33 ⟨2, true⟩)
    ∧ decodeWords .s 0x022930AF 0 = .ok (.shr false 5 9 33 ⟨2, true⟩)
    ∧ decodeWords .s 0x042930A8 0 = .ok (.sar false 5 9 33 ⟨2, true⟩)
    ∧ decodeWords .s 0x042930A9 0 = .ok (.min false 5 9 33 ⟨2, true⟩)
    ∧ decodeWords .s 0x042930AA 0 = .ok (.max false 5 9 33 ⟨2, true⟩)
    ∧ decodeWords .s 0x042930AB 0 = .ok (.minu false 5 9 33 ⟨2, true⟩)
    ∧ decodeWords .s 0x042930AC 0 = .ok (.maxu false 5 9 33 ⟨2, true⟩)
    ∧ decodeWords .s 0x0429202D 0 = .ok (.clz false 5 9 ⟨2, true⟩)
    ∧ decodeWords .s 0x0429202E 0 = .ok (.ctz false 5 9 ⟨2, true⟩)
    ∧ decodeWords .s 0x0429202F 0 = .ok (.popc false 5 9 ⟨2, true⟩)
    ∧ decodeWords .s 0x06D28400 0 = .ok (.mul false 26 20 8 ⟨0, false⟩)
    ∧ decodeWords .s 0x062930A9 0 = .ok (.mulh false 5 9 33 ⟨2, true⟩)
    ∧ decodeWords .s 0x062930AA 0 = .ok (.mulhu false 5 9 33 ⟨2, true⟩)
    ∧ decodeWords .s 0x062930AB 0 = .ok (.div false 5 9 33 ⟨2, true⟩)
    ∧ decodeWords .s 0x062930AC 0 = .ok (.divu false 5 9 33 ⟨2, true⟩)
    ∧ decodeWords .s 0x062930AD 0 = .ok (.rem false 5 9 33 ⟨2, true⟩)
    ∧ decodeWords .s 0x062930AE 0 = .ok (.remu false 5 9 33 ⟨2, true⟩) := by
  refine ⟨?_, ?_, ?_, ?_, ?_, ?_, ?_, ?_, ?_, ?_, ?_, ?_, ?_, ?_, ?_, ?_, ?_, ?_, ?_, ?_, ?_, ?_, ?_⟩ <;> rfl

theorem test_decode_compares_and_predicates :
    decodeWords .s 0x08182100 0 = .ok (.cmpEq false 3 1 2 ⟨0, false⟩)
    ∧ decodeWords .s 0x08182101 0 = .ok (.cmpNe false 3 1 2 ⟨0, false⟩)
    ∧ decodeWords .s 0x08182102 0 = .ok (.cmpLt false 3 1 2 ⟨0, false⟩)
    ∧ decodeWords .s 0x88394583 0 = .ok (.cmpLtu true 7 10 11 ⟨0, false⟩)
    ∧ decodeWords .s 0x08182104 0 = .ok (.cmpLe false 3 1 2 ⟨0, false⟩)
    ∧ decodeWords .s 0x08182105 0 = .ok (.cmpLeu false 3 1 2 ⟨0, false⟩)
    ∧ decodeWords .s 0x0A182100 0 = .ok (.pand false 3 1 2 ⟨0, false⟩)
    ∧ decodeWords .s 0x0A182101 0 = .ok (.por false 3 1 2 ⟨0, false⟩)
    ∧ decodeWords .s 0x0A182102 0 = .ok (.pxor false 3 1 2 ⟨0, false⟩)
    ∧ decodeWords .s 0x0A182003 0 = .ok (.pnot false 3 1 ⟨0, false⟩)
    ∧ decodeWords .s 0x0A282134 0 = .ok (.sel false 5 1 2 ⟨3, false⟩) := by
  refine ⟨?_, ?_, ?_, ?_, ?_, ?_, ?_, ?_, ?_, ?_, ?_⟩ <;> rfl

theorem test_decode_power :
    decodeWords .s 0x0C008000 0 = .ok (.wake false 4 ⟨0, false⟩)
    ∧ decodeWords .s 0x0C012001 0 = .ok (.sleep false 9 ⟨0, false⟩)
    ∧ decodeWords .s 0x0C010002 0 = .ok (.retain false 8 ⟨0, false⟩)
    ∧ decodeWords .s 0x0C008003 0 = .ok (.pwait false 4 ⟨0, false⟩) := by
  refine ⟨?_, ?_, ?_, ?_⟩ <;> rfl

theorem test_decode_immediates_and_literals :
    decodeWords .s 0x10380001 0 = .ok (.addi false 7 0 1)
    ∧ decodeWords .s 0x122820FF 0 = .ok (.andi false 5 1 255)
    ∧ decodeWords .s 0x14282440 0 = .ok (.ori false 5 1 1088)
    ∧ decodeWords .s 0x16283FFF 0 = .ok (.xori false 5 1 8191)
    ∧ decodeWords .s 0x18282020 0 = .ok (.shli false 5 1 32)
    ∧ decodeWords .s 0x1A282007 0 = .ok (.shri false 5 1 7)
    ∧ decodeWords .s 0x1C28203F 0 = .ok (.sari false 5 1 63)
    ∧ decodeWords .s 0x1E280010 0 = .ok (.lea false 5 0 16)
    ∧ decodeWords .s 0x30480000 0x00002000 = .ok (.lit false 9 ⟨0, false⟩ 0x2000)
    ∧ decodeWords .s 0x3028A001 0x00000014 = .ok (.litHi false 5 5 ⟨0, false⟩ 0x14) := by
  refine ⟨?_, ?_, ?_, ?_, ?_, ?_, ?_, ?_, ?_, ?_⟩ <;> rfl

theorem test_decode_scalar_accesses :
    decodeWords .s 0x20084001 0 = .ok (.ldB false 1 2 1)
    ∧ decodeWords .s 0x22084002 0 = .ok (.ldH false 1 2 2)
    ∧ decodeWords .s 0x24612000 0 = .ok (.ldW false 12 9 0)
    ∧ decodeWords .s 0x26612008 0 = .ok (.ldD false 12 9 8)
    ∧ decodeWords .s 0x28204001 0 = .ok (.stB false 4 2 1)
    ∧ decodeWords .s 0x2A204002 0 = .ok (.stH false 4 2 2)
    ∧ decodeWords .s 0x2C293FFC 0 = .ok (.stW false 5 9 8188)
    ∧ decodeWords .s 0x2E180400 0 = .ok (.stD false 3 0 1024) := by
  refine ⟨?_, ?_, ?_, ?_, ?_, ?_, ?_, ?_⟩ <;> rfl

theorem test_decode_control_flow :
    decodeWords .s 0x33E00004 0 = .ok (.br false 15 false 4)
    ∧ decodeWords .s 0x34000003 0 = .ok (.jmp false 3)
    ∧ decodeWords .s 0x36000002 0 = .ok (.call false 2)
    ∧ decodeWords .s 0xB8006002 0 = .ok (.loop true 3 2)
    ∧ decodeWords .s 0x3A00E000 0 = .ok (.rpt false 7)
    ∧ decodeWords .s 0xBC000000 0 = .ok (.gap true 0)
    ∧ decodeWords .s 0x3E000005 0 = .ok (.trap false 5)
    ∧ decodeWords .s 0x44000000 0 = .ok (.ret false)
    ∧ decodeWords .s 0x44000001 0 = .ok (.markR false)
    ∧ decodeWords .s 0x44000002 0 = .ok (.eret false)
    ∧ decodeWords .s 0x44000003 0 = .ok (.eretR false)
    ∧ decodeWords .s 0x44000004 0 = .ok (.done false) := by
  refine ⟨?_, ?_, ?_, ?_, ?_, ?_, ?_, ?_, ?_, ?_, ?_, ?_⟩ <;> rfl

theorem test_decode_control_registers :
    decodeWords .s 0x40280003 0 = .ok (.csrr false 5 3)
    ∧ decodeWords .s 0x42012009 0 = .ok (.csrw false 9 9)
    ∧ decodeWords .s 0x4200E002 0 = .ok (.csrwLockmask false 7)
    ∧ decodeWords .s 0x4201200A 0 = .ok (.csrwTrapvec false 9)
    ∧ decodeWords .s 0x42012028 0 = .ok (.csrwVwb false 9)
    ∧ decodeWords .s 0x42012029 0 = .ok (.csrwTwist false 9)
    ∧ decodeWords .s 0x4201202A 0 = .ok (.csrwVshape false 9)
    ∧ decodeWords .s 0x42012030 0 = .ok (.csrwCzlist false 9)
    ∧ decodeWords .s 0x4201204B 0 = .ok (.csrwAmax false 9 11) := by
  refine ⟨?_, ?_, ?_, ?_, ?_, ?_, ?_, ?_, ?_⟩ <;> rfl

theorem test_decode_synchronisation :
    decodeWords .s 0x46000002 0 = .ok (.waitK false 2)
    ∧ decodeWords .s 0x46000200 0 = .ok (.qmark false)
    ∧ decodeWords .s 0x4600A400 0 = .ok (.pmark false 5)
    ∧ decodeWords .s 0x46000608 0 = .ok (.realign false 8)
    ∧ decodeWords .s 0x46000800 0 = .ok (.unalign false)
    ∧ decodeWords .s 0x46036A00 0 = .ok (.barArr false 27)
    ∧ decodeWords .s 0x46036C00 0 = .ok (.barWait false 27) := by
  refine ⟨?_, ?_, ?_, ?_, ?_, ?_, ?_⟩ <;> rfl

theorem test_decode_vector_integer :
    decodeWords .v 0x81030102 0 = .ok (.vadd true 3 1 2)
    ∧ decodeWords .v 0x02030102 0 = .ok (.vsub false 3 1 2)
    ∧ decodeWords .v 0x03030102 0 = .ok (.vmul false 3 1 2)
    ∧ decodeWords .v 0x04030102 0 = .ok (.vmulh false 3 1 2)
    ∧ decodeWords .v 0x05030102 0 = .ok (.vmulhu false 3 1 2)
    ∧ decodeWords .v 0x06030102 0 = .ok (.vmla false 3 1 2)
    ∧ decodeWords .v 0x07030102 0 = .ok (.vmin false 3 1 2)
    ∧ decodeWords .v 0x08030102 0 = .ok (.vmax false 3 1 2)
    ∧ decodeWords .v 0x09030100 0 = .ok (.vabs false 3 1)
    ∧ decodeWords .v 0x0A030100 0 = .ok (.vneg false 3 1)
    ∧ decodeWords .v 0x0B030102 0 = .ok (.vand false 3 1 2)
    ∧ decodeWords .v 0x0C030102 0 = .ok (.vor false 3 1 2)
    ∧ decodeWords .v 0x0D030102 0 = .ok (.vxor false 3 1 2)
    ∧ decodeWords .v 0x0E030102 0 = .ok (.vandn false 3 1 2)
    ∧ decodeWords .v 0x0F030100 0 = .ok (.vpopc false 3 1)
    ∧ decodeWords .v 0x10030102 0 = .ok (.vshl false 3 1 2)
    ∧ decodeWords .v 0x11030102 0 = .ok (.vshr false 3 1 2)
    ∧ decodeWords .v 0x12030102 0 = .ok (.vsar false 3 1 2)
    ∧ decodeWords .v 0x13030102 0 = .ok (.vsel false 3 1 2)
    ∧ decodeWords .v 0x14030100 0 = .ok (.vmov false 3 1)
    ∧ decodeWords .v 0x15032400 0 = .ok (.vbcast false 3 9)
    ∧ decodeWords .v 0x16030102 0 = .ok (.vperm false 3 1 2)
    ∧ decodeWords .v 0x170300FB 0 = .ok (.vli false 3 251) := by
  refine ⟨?_, ?_, ?_, ?_, ?_, ?_, ?_, ?_, ?_, ?_, ?_, ?_, ?_, ?_, ?_, ?_, ?_, ?_, ?_, ?_, ?_, ?_, ?_⟩ <;> rfl

theorem test_decode_vector_compares_and_widths :
    decodeWords .v 0x18030102 0 = .ok (.vcmpEq false 3 1 2)
    ∧ decodeWords .v 0x19030102 0 = .ok (.vcmpNe false 3 1 2)
    ∧ decodeWords .v 0x1A030102 0 = .ok (.vcmpLt false 3 1 2)
    ∧ decodeWords .v 0x1B030102 0 = .ok (.vcmpLtu false 3 1 2)
    ∧ decodeWords .v 0x1C030102 0 = .ok (.vcmpLe false 3 1 2)
    ∧ decodeWords .v 0x1D030102 0 = .ok (.vcmpLeu false 3 1 2)
    ∧ decodeWords .v 0x20030100 0 = .ok (.vredAdd false 3 1)
    ∧ decodeWords .v 0x21030100 0 = .ok (.vredMax false 3 1)
    ∧ decodeWords .v 0x22030100 0 = .ok (.vredMin false 3 1)
    ∧ decodeWords .v 0x23040102 0 = .ok (.vwmul false 4 1 2)
    ∧ decodeWords .v 0x24040102 0 = .ok (.vwadd false 4 1 2)
    ∧ decodeWords .v 0x25030400 0 = .ok (.vnarrow false 3 4) := by
  refine ⟨?_, ?_, ?_, ?_, ?_, ?_, ?_, ?_, ?_, ?_, ?_, ?_⟩ <;> rfl

theorem test_decode_vector_accesses_and_shape :
    decodeWords .v 0xA8C02000 0 = .ok (.vld true 192 8 0)
    ∧ decodeWords .v 0x29032402 0 = .ok (.vst false 3 9 2)
    ∧ decodeWords .v 0x2A050600 0 = .ok (.vldx false 5 6)
    ∧ decodeWords .v 0x2B050600 0 = .ok (.vstx false 5 6)
    ∧ decodeWords .v 0x2C050921 0 = .ok (.vamoOr false 5 9 33)
    ∧ decodeWords .v 0x2D070809 0 = .ok (.vamoAdd false 7 8 9)
    ∧ decodeWords .v 0x2E050921 0 = .ok (.vamoMin false 5 9 33)
    ∧ decodeWords .v 0x2F050921 0 = .ok (.vamoMax false 5 9 33)
    ∧ decodeWords .v 0x30001800 0 = .ok (.vshape false 6)
    ∧ decodeWords .v 0x31000004 0 = .ok (.vwin false 0 4)
    ∧ decodeWords .v 0x32000000 0 = .ok (.vrot false) := by
  refine ⟨?_, ?_, ?_, ?_, ?_, ?_, ?_, ?_, ?_, ?_, ?_⟩ <;> rfl

theorem test_decode_vector_float :
    decodeWords .v 0x38030102 0 = .ok (.vfadd false 3 1 2)
    ∧ decodeWords .v 0x39030102 0 = .ok (.vfsub false 3 1 2)
    ∧ decodeWords .v 0x3A030102 0 = .ok (.vfmul false 3 1 2)
    ∧ decodeWords .v 0x3B030102 0 = .ok (.vfma false 3 1 2)
    ∧ decodeWords .v 0x3C030102 0 = .ok (.vfmin false 3 1 2)
    ∧ decodeWords .v 0x3D030102 0 = .ok (.vfmax false 3 1 2)
    ∧ decodeWords .v 0x3E040108 0 = .ok (.vcvt false 4 1 8)
    ∧ decodeWords .v 0x3F060008 0 = .ok (.vcvtMx false 6 0 0 2 0) := by
  refine ⟨?_, ?_, ?_, ?_, ?_, ?_, ?_, ?_⟩ <;> rfl

theorem test_decode_special_functions_and_rows :
    decodeWords .v 0x40030100 0 = .ok (.vexp2 false 3 1)
    ∧ decodeWords .v 0x41030100 0 = .ok (.vlog2 false 3 1)
    ∧ decodeWords .v 0x42030100 0 = .ok (.vrcp false 3 1)
    ∧ decodeWords .v 0x43030100 0 = .ok (.vrsqrt false 3 1)
    ∧ decodeWords .v 0x44030100 0 = .ok (.vtanh false 3 1)
    ∧ decodeWords .v 0x45282005 0 = .ok (.vwfUpd false 40 32 5)
    ∧ decodeWords .v 0x46282024 0 = .ok (.vwfMrg false 40 32 36)
    ∧ decodeWords .v 0x48143000 0 = .ok (.rowmax false 20 12)
    ∧ decodeWords .v 0x49143015 0 = .ok (.rowexp false 20 12 21)
    ∧ decodeWords .v 0x4A143000 0 = .ok (.rowscl false 20 12) := by
  refine ⟨?_, ?_, ?_, ?_, ?_, ?_, ?_, ?_, ?_, ?_⟩ <;> rfl

theorem test_decode_matrix_and_grammar :
    decodeWords .m 0x04140000 0 = .ok (.mcfg false 20 ⟨0, false⟩)
    ∧ decodeWords .m 0x08560000 0 = .ok (.mstream false 1 22 ⟨0, false⟩)
    ∧ decodeWords .m 0x0D980000 0 = .ok (.mnest false 6 24 ⟨0, false⟩)
    ∧ decodeWords .m 0x10000000 0x32FF0000 = .ok (.mgo false ⟨0, false⟩ ⟨3, 2, 15, 15⟩)
    ∧ decodeWords .m 0x14000000 0 = .ok (.mdrain false ⟨0, false⟩)
    ∧ decodeWords .m 0x18C00180 0 = .ok (.mzero false 3 ⟨3, false⟩)
    ∧ decodeWords .m 0x1CC00000 0 = .ok (.mgang false 3 ⟨0, false⟩)
    ∧ decodeWords .m 0x20891400 0 = .ok (.mstat false 2 9 5 ⟨0, false⟩)
    ∧ decodeWords .m 0x240C0000 0 = .ok (.gset false 12 ⟨0, false⟩)
    ∧ decodeWords .m 0x280D0000 0 = .ok (.gev false 13 ⟨0, false⟩)
    ∧ decodeWords .m 0x2C0E3C00 0 = .ok (.gout false 14 15 ⟨0, false⟩)
    ∧ decodeWords .m 0x30801400 0 = .ok (.gstat false 2 5 ⟨0, false⟩) := by
  refine ⟨?_, ?_, ?_, ?_, ?_, ?_, ?_, ?_, ?_, ?_, ?_, ?_⟩ <;> rfl

theorem test_decode_copies_and_atomics :
    decodeWords .x 0x82494580 0x2FFF0000 = .ok (.xcopy true 9 10 11 ⟨0, false⟩ ⟨2, 15, 15, 15⟩)
    ∧ decodeWords .x 0x044945A8 0x2FFF0000 = .ok (.xblk false 9 10 11 ⟨2, true⟩ ⟨2, 15, 15, 15⟩)
    ∧ decodeWords .x 0x86A00500 0x1FFF0000 = .ok (.xpak true 20 0 10 ⟨0, false⟩ ⟨1, 15, 15, 15⟩)
    ∧ decodeWords .x 0x88628500 0x2FFF0000 = .ok (.xunp true 12 20 10 ⟨0, false⟩ ⟨2, 15, 15, 15⟩)
    ∧ decodeWords .x 0x0AA2A180 0x3FFF0000 = .ok (.xfld false 20 21 3 ⟨0, false⟩ ⟨3, 15, 15, 15⟩)
    ∧ decodeWords .x 0x0CA2A180 0x3FFF0000 = .ok (.xfst false 20 21 3 ⟨0, false⟩ ⟨3, 15, 15, 15⟩)
    ∧ decodeWords .x 0x0EA2AB00 0x3FFF0000 = .ok (.xamoAdd false 20 21 22 ⟨0, false⟩ ⟨3, 15, 15, 15⟩)
    ∧ decodeWords .x 0x0EA2AB01 0x3FFF0000 = .ok (.xamoAnd false 20 21 22 ⟨0, false⟩ ⟨3, 15, 15, 15⟩)
    ∧ decodeWords .x 0x0EA2AB02 0x3FFF0000 = .ok (.xamoOr false 20 21 22 ⟨0, false⟩ ⟨3, 15, 15, 15⟩)
    ∧ decodeWords .x 0x0EA2AB03 0x3FFF0000 = .ok (.xamoXor false 20 21 22 ⟨0, false⟩ ⟨3, 15, 15, 15⟩)
    ∧ decodeWords .x 0x0EA2AB04 0x3FFF0000 = .ok (.xamoMin false 20 21 22 ⟨0, false⟩ ⟨3, 15, 15, 15⟩)
    ∧ decodeWords .x 0x0EA2AB05 0x3FFF0000 = .ok (.xamoMax false 20 21 22 ⟨0, false⟩ ⟨3, 15, 15, 15⟩)
    ∧ decodeWords .x 0x0EA2AB06 0x3FFF0000 = .ok (.xamoMinu false 20 21 22 ⟨0, false⟩ ⟨3, 15, 15, 15⟩)
    ∧ decodeWords .x 0x0EA2AB07 0x3FFF0000 = .ok (.xamoMaxu false 20 21 22 ⟨0, false⟩ ⟨3, 15, 15, 15⟩)
    ∧ decodeWords .x 0x90039EA0 0x2FFF0000 = .ok (.xvamoOr true 1 51 53 ⟨0, false⟩ ⟨2, 15, 15, 15⟩)
    ∧ decodeWords .x 0x1250AAC0 0x4F120000 = .ok (.xvamoAdd false 40 21 22 ⟨0, false⟩ ⟨4, 15, 1, 2⟩)
    ∧ decodeWords .x 0x1450AAC0 0x4F120000 = .ok (.xvamoMin false 40 21 22 ⟨0, false⟩ ⟨4, 15, 1, 2⟩)
    ∧ decodeWords .x 0x1650AAC0 0x4F120000 = .ok (.xvamoMax false 40 21 22 ⟨0, false⟩ ⟨4, 15, 1, 2⟩) := by
  refine ⟨?_, ?_, ?_, ?_, ?_, ?_, ?_, ?_, ?_, ?_, ?_, ?_, ?_, ?_, ?_, ?_, ?_, ?_⟩ <;> rfl

theorem test_decode_ownership_and_messages :
    decodeWords .x 0x20C32D00 0x5FFF0000 = .ok (.ownLend false 24 25 26 ⟨0, false⟩ ⟨5, 15, 15, 15⟩)
    ∧ decodeWords .x 0x22C00000 0x6FFF0000 = .ok (.ownRet false 24 ⟨0, false⟩ ⟨6, 15, 15, 15⟩)
    ∧ decodeWords .x 0x24C00000 0x6FFF0000 = .ok (.ownSplit false 24 ⟨0, false⟩ ⟨6, 15, 15, 15⟩)
    ∧ decodeWords .x 0x26C00000 0x6FFF0000 = .ok (.ownJoin false 24 ⟨0, false⟩ ⟨6, 15, 15, 15⟩)
    ∧ decodeWords .x 0x28F30000 0x7FFF0000 = .ok (.ownQuery false 30 24 ⟨0, false⟩ ⟨7, 15, 15, 15⟩)
    ∧ decodeWords .x 0x2AF30000 0x7FFF0000 = .ok (.ownReclaim false 30 24 ⟨0, false⟩ ⟨7, 15, 15, 15⟩)
    ∧ decodeWords .x 0x300A4940 0 = .ok (.send false 5 9 10 ⟨0, false⟩)
    ∧ decodeWords .x 0x320A61A0 0 = .ok (.recv false 5 12 13 ⟨0, false⟩)
    ∧ decodeWords .x 0x34494580 0x2FFF0000 = .ok (.ovl false 9 10 11 ⟨0, false⟩ ⟨2, 15, 15, 15⟩)
    ∧ decodeWords .x 0x36000000 0x2FFF0000 = .ok (.replay false ⟨0, false⟩ ⟨2, 15, 15, 15⟩) := by
  refine ⟨?_, ?_, ?_, ?_, ?_, ?_, ?_, ?_, ?_, ?_⟩ <;> rfl

/-- R51: words that no instruction has, each with its condition: opcode 0 on each strand, a reserved fn, a set bit of a
reserved field, a token word with its low bits set, a `replay` that pops, an unknown selector, `realign 17`, a reserved size. -/
theorem test_decode_refuses :
    decodeWords .s 0 0 = .error .opcode ∧ decodeWords .v 0 0 = .error .opcode ∧ decodeWords .m 0 0 = .error .opcode
    ∧ decodeWords .x 0 0 = .error .opcode ∧ decodeWords .s 0x06000007 0 = .error .subfn
    ∧ decodeWords .s 0x04080085 0 = .error .reserved ∧ decodeWords .s 0x08800000 0 = .error .reserved
    ∧ decodeWords .x 0x82494580 0x2FFF0001 = .error .token ∧ decodeWords .x 0x36000000 0x20FF0000 = .error .token
    ∧ decodeWords .s 0x40280005 0 = .error .csr ∧ decodeWords .s 0x46000611 0 = .error .realign
    ∧ decodeWords .x 0x0AA2A200 0x3FFF0000 = .error .subfn := by
  refine ⟨?_, ?_, ?_, ?_, ?_, ?_, ?_, ?_, ?_, ?_, ?_, ?_⟩ <;> rfl

/-! ### Well-formedness: one ill-formed term for each check, which the check refuses -/

/-- A request to an AQI. -/
def mg (aqi : Nat) : Mgmt := ⟨aqi, none, 64, 0⟩

theorem test_ill_formed_1 : ([
    .add false 64 0 0 g0, .add false 0 64 0 g0, .add false 0 0 64 g0, .add false 0 0 0 (⟨8, false⟩),
    .sub false 64 0 0 g0, .sub false 0 64 0 g0, .sub false 0 0 64 g0, .sub false 0 0 0 (⟨8, false⟩),
    .and false 64 0 0 g0, .and false 0 64 0 g0, .and false 0 0 64 g0, .and false 0 0 0 (⟨8, false⟩),
    .or false 64 0 0 g0, .or false 0 64 0 g0, .or false 0 0 64 g0, .or false 0 0 0 (⟨8, false⟩),
    .xor false 64 0 0 g0, .xor false 0 64 0 g0, .xor false 0 0 64 g0, .xor false 0 0 0 (⟨8, false⟩),
    .andn false 64 0 0 g0, .andn false 0 64 0 g0, .andn false 0 0 64 g0, .andn false 0 0 0 (⟨8, false⟩),
    .shl false 64 0 0 g0, .shl false 0 64 0 g0, .shl false 0 0 64 g0, .shl false 0 0 0 (⟨8, false⟩),
    .shr false 64 0 0 g0, .shr false 0 64 0 g0, .shr false 0 0 64 g0, .shr false 0 0 0 (⟨8, false⟩),
    .sar false 64 0 0 g0, .sar false 0 64 0 g0, .sar false 0 0 64 g0, .sar false 0 0 0 (⟨8, false⟩),
    .min false 64 0 0 g0, .min false 0 64 0 g0, .min false 0 0 64 g0, .min false 0 0 0 (⟨8, false⟩)] : List Instr).any Instr.wf = false := by decide +kernel

theorem test_ill_formed_2 : ([
    .max false 64 0 0 g0, .max false 0 64 0 g0, .max false 0 0 64 g0, .max false 0 0 0 (⟨8, false⟩),
    .minu false 64 0 0 g0, .minu false 0 64 0 g0, .minu false 0 0 64 g0, .minu false 0 0 0 (⟨8, false⟩),
    .maxu false 64 0 0 g0, .maxu false 0 64 0 g0, .maxu false 0 0 64 g0, .maxu false 0 0 0 (⟨8, false⟩),
    .clz false 64 0 g0, .clz false 0 64 g0, .clz false 0 0 (⟨8, false⟩), .ctz false 64 0 g0,
    .ctz false 0 64 g0, .ctz false 0 0 (⟨8, false⟩), .popc false 64 0 g0, .popc false 0 64 g0,
    .popc false 0 0 (⟨8, false⟩), .mul false 64 0 0 g0, .mul false 0 64 0 g0, .mul false 0 0 64 g0,
    .mul false 0 0 0 (⟨8, false⟩), .mulh false 64 0 0 g0, .mulh false 0 64 0 g0, .mulh false 0 0 64 g0,
    .mulh false 0 0 0 (⟨8, false⟩), .mulhu false 64 0 0 g0, .mulhu false 0 64 0 g0, .mulhu false 0 0 64 g0,
    .mulhu false 0 0 0 (⟨8, false⟩), .div false 64 0 0 g0, .div false 0 64 0 g0, .div false 0 0 64 g0,
    .div false 0 0 0 (⟨8, false⟩), .divu false 64 0 0 g0, .divu false 0 64 0 g0, .divu false 0 0 64 g0] : List Instr).any Instr.wf = false := by decide +kernel

theorem test_ill_formed_3 : ([
    .divu false 0 0 0 (⟨8, false⟩), .rem false 64 0 0 g0, .rem false 0 64 0 g0, .rem false 0 0 64 g0,
    .rem false 0 0 0 (⟨8, false⟩), .remu false 64 0 0 g0, .remu false 0 64 0 g0, .remu false 0 0 64 g0,
    .remu false 0 0 0 (⟨8, false⟩), .cmpEq false 16 0 0 g0, .cmpEq false 0 64 0 g0, .cmpEq false 0 0 64 g0,
    .cmpEq false 0 0 0 (⟨8, false⟩), .cmpNe false 16 0 0 g0, .cmpNe false 0 64 0 g0, .cmpNe false 0 0 64 g0,
    .cmpNe false 0 0 0 (⟨8, false⟩), .cmpLt false 16 0 0 g0, .cmpLt false 0 64 0 g0, .cmpLt false 0 0 64 g0,
    .cmpLt false 0 0 0 (⟨8, false⟩), .cmpLtu false 16 0 0 g0, .cmpLtu false 0 64 0 g0, .cmpLtu false 0 0 64 g0,
    .cmpLtu false 0 0 0 (⟨8, false⟩), .cmpLe false 16 0 0 g0, .cmpLe false 0 64 0 g0, .cmpLe false 0 0 64 g0,
    .cmpLe false 0 0 0 (⟨8, false⟩), .cmpLeu false 16 0 0 g0, .cmpLeu false 0 64 0 g0, .cmpLeu false 0 0 64 g0,
    .cmpLeu false 0 0 0 (⟨8, false⟩), .pand false 16 0 0 g0, .pand false 0 16 0 g0, .pand false 0 0 16 g0,
    .pand false 0 0 0 (⟨8, false⟩), .por false 16 0 0 g0, .por false 0 16 0 g0, .por false 0 0 16 g0] : List Instr).any Instr.wf = false := by decide +kernel

theorem test_ill_formed_4 : ([
    .por false 0 0 0 (⟨8, false⟩), .pxor false 16 0 0 g0, .pxor false 0 16 0 g0, .pxor false 0 0 16 g0,
    .pxor false 0 0 0 (⟨8, false⟩), .pnot false 16 0 g0, .pnot false 0 16 g0, .pnot false 0 0 (⟨8, false⟩),
    .sel false 64 0 0 g0, .sel false 0 64 0 g0, .sel false 0 0 64 g0, .sel false 0 0 0 (⟨8, false⟩),
    .wake false 64 g0, .wake false 0 (⟨8, false⟩), .sleep false 64 g0, .sleep false 0 (⟨8, false⟩),
    .retain false 64 g0, .retain false 0 (⟨8, false⟩), .pwait false 64 g0, .pwait false 0 (⟨8, false⟩),
    .addi false 64 0 0, .addi false 0 64 0, .addi false 0 0 8192, .andi false 64 0 0,
    .andi false 0 64 0, .andi false 0 0 8192, .ori false 64 0 0, .ori false 0 64 0,
    .ori false 0 0 8192, .xori false 64 0 0, .xori false 0 64 0, .xori false 0 0 8192,
    .shli false 64 0 0, .shli false 0 64 0, .shli false 0 0 64, .shri false 64 0 0,
    .shri false 0 64 0, .shri false 0 0 64, .sari false 64 0 0, .sari false 0 64 0] : List Instr).any Instr.wf = false := by decide +kernel

theorem test_ill_formed_5 : ([
    .sari false 0 0 64, .lea false 64 0 0, .lea false 0 64 0, .lea false 0 0 8192,
    .ldB false 64 0 0, .ldB false 0 64 0, .ldB false 0 0 8192, .ldH false 64 0 0,
    .ldH false 0 64 0, .ldH false 0 0 8192, .ldW false 64 0 0, .ldW false 0 64 0,
    .ldW false 0 0 8192, .ldD false 64 0 0, .ldD false 0 64 0, .ldD false 0 0 8192,
    .stB false 64 0 0, .stB false 0 64 0, .stB false 0 0 8192, .stH false 64 0 0,
    .stH false 0 64 0, .stH false 0 0 8192, .stW false 64 0 0, .stW false 0 64 0,
    .stW false 0 0 8192, .stD false 64 0 0, .stD false 0 64 0, .stD false 0 0 8192,
    .lit false 64 g0 0, .lit false 0 g0 4294967296, .lit false 0 (⟨8, false⟩) 0, .litHi false 64 0 g0 0,
    .litHi false 0 64 g0 0, .litHi false 0 0 g0 4294967296, .litHi false 0 0 (⟨8, false⟩) 0, .br false 16 false 0,
    .br false 0 false 1048576, .jmp false 1048576, .call false 1048576, .loop false 4096 0] : List Instr).any Instr.wf = false := by decide +kernel

theorem test_ill_formed_6 : ([
    .loop false 0 256, .rpt false 4096, .gap false 4096, .trap false 8192,
    .csrr false 64 0, .csrr false 0 5, .csrw false 64 0, .csrw false 0 2,
    .csrwLockmask false 64, .csrwTrapvec false 64, .csrwVwb false 64, .csrwTwist false 64,
    .csrwVshape false 64, .csrwCzlist false 64, .csrwAmax false 64 0, .csrwAmax false 0 16,
    .waitK false 16, .pmark false 64, .realign false 17, .barArr false 64,
    .barWait false 64, .vadd false 256 0 0, .vadd false 0 256 0, .vadd false 0 0 256,
    .vsub false 256 0 0, .vsub false 0 256 0, .vsub false 0 0 256, .vmul false 256 0 0,
    .vmul false 0 256 0, .vmul false 0 0 256, .vmulh false 256 0 0, .vmulh false 0 256 0,
    .vmulh false 0 0 256, .vmulhu false 256 0 0, .vmulhu false 0 256 0, .vmulhu false 0 0 256,
    .vmla false 256 0 0, .vmla false 0 256 0, .vmla false 0 0 256, .vmin false 256 0 0] : List Instr).any Instr.wf = false := by decide +kernel

theorem test_ill_formed_7 : ([
    .vmin false 0 256 0, .vmin false 0 0 256, .vmax false 256 0 0, .vmax false 0 256 0,
    .vmax false 0 0 256, .vabs false 256 0, .vabs false 0 256, .vneg false 256 0,
    .vneg false 0 256, .vand false 256 0 0, .vand false 0 256 0, .vand false 0 0 256,
    .vor false 256 0 0, .vor false 0 256 0, .vor false 0 0 256, .vxor false 256 0 0,
    .vxor false 0 256 0, .vxor false 0 0 256, .vandn false 256 0 0, .vandn false 0 256 0,
    .vandn false 0 0 256, .vpopc false 256 0, .vpopc false 0 256, .vshl false 256 0 0,
    .vshl false 0 256 0, .vshl false 0 0 256, .vshr false 256 0 0, .vshr false 0 256 0,
    .vshr false 0 0 256, .vsar false 256 0 0, .vsar false 0 256 0, .vsar false 0 0 256,
    .vsel false 256 0 0, .vsel false 0 256 0, .vsel false 0 0 256, .vmov false 256 0,
    .vmov false 0 256, .vbcast false 256 0, .vbcast false 0 64, .vperm false 256 0 0] : List Instr).any Instr.wf = false := by decide +kernel

theorem test_ill_formed_8 : ([
    .vperm false 0 256 0, .vperm false 0 0 256, .vli false 256 0, .vli false 0 256,
    .vcmpEq false 16 0 0, .vcmpEq false 0 256 0, .vcmpEq false 0 0 256, .vcmpNe false 16 0 0,
    .vcmpNe false 0 256 0, .vcmpNe false 0 0 256, .vcmpLt false 16 0 0, .vcmpLt false 0 256 0,
    .vcmpLt false 0 0 256, .vcmpLtu false 16 0 0, .vcmpLtu false 0 256 0, .vcmpLtu false 0 0 256,
    .vcmpLe false 16 0 0, .vcmpLe false 0 256 0, .vcmpLe false 0 0 256, .vcmpLeu false 16 0 0,
    .vcmpLeu false 0 256 0, .vcmpLeu false 0 0 256, .vredAdd false 256 0, .vredAdd false 0 256,
    .vredMax false 256 0, .vredMax false 0 256, .vredMin false 256 0, .vredMin false 0 256,
    .vwmul false 256 0 0, .vwmul false 0 256 0, .vwmul false 0 0 256, .vwadd false 256 0 0,
    .vwadd false 0 256 0, .vwadd false 0 0 256, .vnarrow false 256 0, .vnarrow false 0 256,
    .vld false 256 0 0, .vld false 0 64 0, .vld false 0 0 1024, .vst false 256 0 0] : List Instr).any Instr.wf = false := by decide +kernel

theorem test_ill_formed_9 : ([
    .vst false 0 64 0, .vst false 0 0 1024, .vldx false 256 0, .vldx false 0 256,
    .vstx false 256 0, .vstx false 0 256, .vamoOr false 256 0 0, .vamoOr false 0 256 0,
    .vamoOr false 0 0 256, .vamoAdd false 256 0 0, .vamoAdd false 0 256 0, .vamoAdd false 0 0 256,
    .vamoMin false 256 0 0, .vamoMin false 0 256 0, .vamoMin false 0 0 256, .vamoMax false 256 0 0,
    .vamoMax false 0 256 0, .vamoMax false 0 0 256, .vshape false 64, .vwin false 64 0,
    .vwin false 0 1024, .vfadd false 256 0 0, .vfadd false 0 256 0, .vfadd false 0 0 256,
    .vfsub false 256 0 0, .vfsub false 0 256 0, .vfsub false 0 0 256, .vfmul false 256 0 0,
    .vfmul false 0 256 0, .vfmul false 0 0 256, .vfma false 256 0 0, .vfma false 0 256 0,
    .vfma false 0 0 256, .vfmin false 256 0 0, .vfmin false 0 256 0, .vfmin false 0 0 256,
    .vfmax false 256 0 0, .vfmax false 0 256 0, .vfmax false 0 0 256, .vcvt false 256 0 0] : List Instr).any Instr.wf = false := by decide +kernel

theorem test_ill_formed_10 : ([
    .vcvt false 0 256 0, .vcvt false 0 0 16, .vcvtMx false 256 0 0 0 0, .vcvtMx false 0 256 0 0 0,
    .vcvtMx false 0 0 2 0 0, .vcvtMx false 0 0 0 16 0, .vcvtMx false 0 0 0 0 4, .vexp2 false 256 0,
    .vexp2 false 0 256, .vlog2 false 256 0, .vlog2 false 0 256, .vrcp false 256 0,
    .vrcp false 0 256, .vrsqrt false 256 0, .vrsqrt false 0 256, .vtanh false 256 0,
    .vtanh false 0 256, .vwfUpd false 256 0 0, .vwfUpd false 0 256 0, .vwfUpd false 0 0 256,
    .vwfMrg false 256 0 0, .vwfMrg false 0 256 0, .vwfMrg false 0 0 256, .rowmax false 256 0,
    .rowmax false 0 64, .rowexp false 256 0 0, .rowexp false 0 64 0, .rowexp false 0 0 256,
    .rowscl false 256 0, .rowscl false 0 64, .mcfg false 64 g0, .mcfg false 0 (⟨8, false⟩),
    .mstream false 16 0 g0, .mstream false 0 64 g0, .mstream false 0 0 (⟨8, false⟩), .mnest false 7 0 g0,
    .mnest false 0 64 g0, .mnest false 0 0 (⟨8, false⟩), .mgo false (⟨8, false⟩) tok, .mgo false g0 (⟨1, 15, 16, 15⟩)] : List Instr).any Instr.wf = false := by decide +kernel

theorem test_ill_formed_11 : ([
    .mdrain false (⟨8, false⟩), .mzero false 8 g0, .mzero false 0 (⟨8, false⟩), .mgang false 4 g0,
    .mgang false 0 (⟨8, false⟩), .mstat false 3 0 0 g0, .mstat false 0 64 0 g0, .mstat false 0 0 64 g0,
    .mstat false 0 0 0 (⟨8, false⟩), .gset false 64 g0, .gset false 0 (⟨8, false⟩), .gev false 64 g0,
    .gev false 0 (⟨8, false⟩), .gout false 64 0 g0, .gout false 0 64 g0, .gout false 0 0 (⟨8, false⟩),
    .gstat false 4 0 g0, .gstat false 0 64 g0, .gstat false 0 0 (⟨8, false⟩), .xcopy false 64 0 0 g0 tok,
    .xcopy false 0 64 0 g0 tok, .xcopy false 0 0 64 g0 tok, .xcopy false 0 0 0 (⟨8, false⟩) tok, .xcopy false 0 0 0 g0 (⟨1, 15, 16, 15⟩),
    .xblk false 64 0 0 g0 tok, .xblk false 0 64 0 g0 tok, .xblk false 0 0 64 g0 tok, .xblk false 0 0 0 (⟨8, false⟩) tok,
    .xblk false 0 0 0 g0 (⟨1, 15, 16, 15⟩), .xpak false 64 0 0 g0 tok, .xpak false 0 64 0 g0 tok, .xpak false 0 0 64 g0 tok,
    .xpak false 0 0 0 (⟨8, false⟩) tok, .xpak false 0 0 0 g0 (⟨1, 15, 16, 15⟩), .xunp false 64 0 0 g0 tok, .xunp false 0 64 0 g0 tok,
    .xunp false 0 0 64 g0 tok, .xunp false 0 0 0 (⟨8, false⟩) tok, .xunp false 0 0 0 g0 (⟨1, 15, 16, 15⟩), .xfld false 64 0 0 g0 tok] : List Instr).any Instr.wf = false := by decide +kernel

theorem test_ill_formed_12 : ([
    .xfld false 0 64 0 g0 tok, .xfld false 0 0 4 g0 tok, .xfld false 0 0 0 (⟨8, false⟩) tok, .xfld false 0 0 0 g0 (⟨1, 15, 16, 15⟩),
    .xfst false 64 0 0 g0 tok, .xfst false 0 64 0 g0 tok, .xfst false 0 0 4 g0 tok, .xfst false 0 0 0 (⟨8, false⟩) tok,
    .xfst false 0 0 0 g0 (⟨1, 15, 16, 15⟩), .xamoAdd false 64 0 0 g0 tok, .xamoAdd false 0 64 0 g0 tok, .xamoAdd false 0 0 64 g0 tok,
    .xamoAdd false 0 0 0 (⟨8, false⟩) tok, .xamoAdd false 0 0 0 g0 (⟨1, 15, 16, 15⟩), .xamoAnd false 64 0 0 g0 tok, .xamoAnd false 0 64 0 g0 tok,
    .xamoAnd false 0 0 64 g0 tok, .xamoAnd false 0 0 0 (⟨8, false⟩) tok, .xamoAnd false 0 0 0 g0 (⟨1, 15, 16, 15⟩), .xamoOr false 64 0 0 g0 tok,
    .xamoOr false 0 64 0 g0 tok, .xamoOr false 0 0 64 g0 tok, .xamoOr false 0 0 0 (⟨8, false⟩) tok, .xamoOr false 0 0 0 g0 (⟨1, 15, 16, 15⟩),
    .xamoXor false 64 0 0 g0 tok, .xamoXor false 0 64 0 g0 tok, .xamoXor false 0 0 64 g0 tok, .xamoXor false 0 0 0 (⟨8, false⟩) tok,
    .xamoXor false 0 0 0 g0 (⟨1, 15, 16, 15⟩), .xamoMin false 64 0 0 g0 tok, .xamoMin false 0 64 0 g0 tok, .xamoMin false 0 0 64 g0 tok,
    .xamoMin false 0 0 0 (⟨8, false⟩) tok, .xamoMin false 0 0 0 g0 (⟨1, 15, 16, 15⟩), .xamoMax false 64 0 0 g0 tok, .xamoMax false 0 64 0 g0 tok,
    .xamoMax false 0 0 64 g0 tok, .xamoMax false 0 0 0 (⟨8, false⟩) tok, .xamoMax false 0 0 0 g0 (⟨1, 15, 16, 15⟩), .xamoMinu false 64 0 0 g0 tok] : List Instr).any Instr.wf = false := by decide +kernel

theorem test_ill_formed_13 : ([
    .xamoMinu false 0 64 0 g0 tok, .xamoMinu false 0 0 64 g0 tok, .xamoMinu false 0 0 0 (⟨8, false⟩) tok, .xamoMinu false 0 0 0 g0 (⟨1, 15, 16, 15⟩),
    .xamoMaxu false 64 0 0 g0 tok, .xamoMaxu false 0 64 0 g0 tok, .xamoMaxu false 0 0 64 g0 tok, .xamoMaxu false 0 0 0 (⟨8, false⟩) tok,
    .xamoMaxu false 0 0 0 g0 (⟨1, 15, 16, 15⟩), .xvamoOr false 256 0 0 g0 tok, .xvamoOr false 0 64 0 g0 tok, .xvamoOr false 0 0 64 g0 tok,
    .xvamoOr false 0 0 0 (⟨8, false⟩) tok, .xvamoOr false 0 0 0 g0 (⟨1, 15, 16, 15⟩), .xvamoAdd false 256 0 0 g0 tok, .xvamoAdd false 0 64 0 g0 tok,
    .xvamoAdd false 0 0 64 g0 tok, .xvamoAdd false 0 0 0 (⟨8, false⟩) tok, .xvamoAdd false 0 0 0 g0 (⟨1, 15, 16, 15⟩), .xvamoMin false 256 0 0 g0 tok,
    .xvamoMin false 0 64 0 g0 tok, .xvamoMin false 0 0 64 g0 tok, .xvamoMin false 0 0 0 (⟨8, false⟩) tok, .xvamoMin false 0 0 0 g0 (⟨1, 15, 16, 15⟩),
    .xvamoMax false 256 0 0 g0 tok, .xvamoMax false 0 64 0 g0 tok, .xvamoMax false 0 0 64 g0 tok, .xvamoMax false 0 0 0 (⟨8, false⟩) tok,
    .xvamoMax false 0 0 0 g0 (⟨1, 15, 16, 15⟩), .ownLend false 64 0 0 g0 tok, .ownLend false 0 64 0 g0 tok, .ownLend false 0 0 64 g0 tok,
    .ownLend false 0 0 0 (⟨8, false⟩) tok, .ownLend false 0 0 0 g0 (⟨1, 15, 16, 15⟩), .ownRet false 64 g0 tok, .ownRet false 0 (⟨8, false⟩) tok,
    .ownRet false 0 g0 (⟨1, 15, 16, 15⟩), .ownSplit false 64 g0 tok, .ownSplit false 0 (⟨8, false⟩) tok, .ownSplit false 0 g0 (⟨1, 15, 16, 15⟩)] : List Instr).any Instr.wf = false := by decide +kernel

theorem test_ill_formed_14 : ([
    .ownJoin false 64 g0 tok, .ownJoin false 0 (⟨8, false⟩) tok, .ownJoin false 0 g0 (⟨1, 15, 16, 15⟩), .ownQuery false 64 0 g0 tok,
    .ownQuery false 0 64 g0 tok, .ownQuery false 0 0 (⟨8, false⟩) tok, .ownQuery false 0 0 g0 (⟨1, 15, 16, 15⟩), .ownReclaim false 64 0 g0 tok,
    .ownReclaim false 0 64 g0 tok, .ownReclaim false 0 0 (⟨8, false⟩) tok, .ownReclaim false 0 0 g0 (⟨1, 15, 16, 15⟩), .send false 256 0 0 g0,
    .send false 0 64 0 g0, .send false 0 0 64 g0, .send false 0 0 0 (⟨8, false⟩), .recv false 256 0 0 g0,
    .recv false 0 64 0 g0, .recv false 0 0 64 g0, .recv false 0 0 0 (⟨8, false⟩), .ovl false 64 0 0 g0 tok,
    .ovl false 0 64 0 g0 tok, .ovl false 0 0 64 g0 tok, .ovl false 0 0 0 (⟨8, false⟩) tok, .ovl false 0 0 0 g0 (⟨1, 15, 16, 15⟩),
    .replay false (⟨8, false⟩) tok, .replay false g0 (⟨1, 0, 15, 15⟩), .replay false g0 (⟨16, 15, 15, 15⟩), .domainWakeComplete 26 false,
    .domainGating 26, .czIdleOff 24 0, .czIdleOff 0 8, .vaultSubbankWake 24 0 0 false,
    .vaultSubbankWake 0 8 0 false, .vaultSubbankWake 0 0 8 false, .vaultSubbankSleep 24 0 0 false, .vaultSubbankSleep 0 8 0 false,
    .vaultSubbankSleep 0 0 8 false, .requestSubmit 4096 none 0 0, .linkFailure 24, .islandFrequencyChange 24 0] : List Instr).any Instr.wf = false := by decide +kernel

theorem test_ill_formed_15 : ([
    .cxlMemAccess 8 0 none, .eventWrite 4096, .evtailWrite 4096 0, .regionCreate (mg 4096),
    .regionDestroy (mg 4096), .inval (mg 4096), .dumpreg (mg 4096), .counters (mg 4096),
    .lend (mg 4096), .hostReturn (mg 4096), .imgExport (mg 4096), .imgImport (mg 4096),
    .watch (mg 4096), .attest (mg 4096), .aqiBind (mg 4096), .aqiUnbind (mg 4096),
    .pasidSet (mg 4096), .pasidRevoke (mg 4096), .irqSet (mg 4096), .hdmBind (mg 4096),
    .devdump (mg 4096), .power (mg 4096), .weftId (mg 4096), .weftPauseExpiry 8,
    .hostReset 4096] : List Instr).any Instr.wf = false := by decide +kernel

/-- Terms at the ends of their fields pass. -/
theorem test_well_formed : ([.add true 63 63 63 ⟨7, true⟩, .csrw false 63 9, .realign true 16, .br true 15 true 0xFFFFF,
    .vld true 255 63 1023, .mnest true 6 63 g0, .xfst true 63 63 3 g0 ⟨15, 15, 0, 14⟩, .replay true g0 tok, .send true 255 63 63 g0] : List Instr).all
    Instr.wf = true := by decide +kernel

/-! ### Results of single words: the numbers are the manual's -/

/-- The value in flight to `d` after a word, at the bits from `lo` of a width. -/
def result (i : Instr) (s : State) (d : Dest) (lo w : Nat) : Option Nat :=
  match exec i s with
  | .next t => some (flying d t / 2 ^ lo % 2 ^ w)
  | _ => none

/-- Registers s1 and s2. -/
def regs (a b : Word) : State := withS [(1, a), (2, b)]

/-- R275, the division examples: −2^63 by −1, −7 by 2, 7 by 0. -/
theorem test_division :
    result (.div false 5 1 2 g0) (regs 0x8000000000000000 (-1)) (.s 5) 0 64 = some 0x8000000000000000
    ∧ result (.rem false 5 1 2 g0) (regs 0x8000000000000000 (-1)) (.s 5) 0 64 = some 0
    ∧ result (.div false 5 1 2 g0) (regs (-7) 2) (.s 5) 0 64 = some (2 ^ 64 - 3)
    ∧ result (.rem false 5 1 2 g0) (regs (-7) 2) (.s 5) 0 64 = some (2 ^ 64 - 1)
    ∧ result (.divu false 5 1 2 g0) (regs 7 0) (.s 5) 0 64 = some 0xFFFFFFFFFFFFFFFF
    ∧ result (.remu false 5 1 2 g0) (regs 7 0) (.s 5) 0 64 = some 7 := by decide +kernel

/-- R275: sums and differences wrap at 2^64, a shift by 64 or more leaves nothing, `andn` is a and not b. -/
theorem test_scalar_wraps :
    result (.add false 5 1 2 g0) (regs (-1) 2) (.s 5) 0 64 = some 1
    ∧ result (.sub false 5 1 2 g0) (regs 1 2) (.s 5) 0 64 = some (2 ^ 64 - 1)
    ∧ result (.shl false 5 1 2 g0) (regs 3 64) (.s 5) 0 64 = some 0
    ∧ result (.sar false 5 1 2 g0) (regs (-8) 1) (.s 5) 0 64 = some (2 ^ 64 - 4)
    ∧ result (.shr false 5 1 2 g0) (regs (-8) 1) (.s 5) 0 64 = some (2 ^ 63 - 4)
    ∧ result (.andn false 5 1 2 g0) (regs 0xF 5) (.s 5) 0 64 = some 10
    ∧ result (.mulh false 5 1 2 g0) (regs (-1) 1) (.s 5) 0 64 = some (2 ^ 64 - 1)
    ∧ result (.mulhu false 5 1 2 g0) (regs (-1) 2) (.s 5) 0 64 = some 1
    ∧ result (.min false 5 1 2 g0) (regs (-1) 1) (.s 5) 0 64 = some (2 ^ 64 - 1)
    ∧ result (.minu false 5 1 2 g0) (regs (-1) 1) (.s 5) 0 64 = some 1
    ∧ result (.clz false 5 1 g0) (regs 0 0) (.s 5) 0 64 = some 64
    ∧ result (.ctz false 5 1 g0) (regs 8 0) (.s 5) 0 64 = some 3 := by decide +kernel

/-- R276, R278: a compare writes every bit of its predicate, and `sel` takes sa where the guard is on and else sb. -/
theorem test_compares_and_select :
    result (.cmpLt false 3 1 2 g0) (regs (-1) 1) (.p 3) 0 1024 = some (2 ^ 1024 - 1)
    ∧ result (.cmpLtu false 3 1 2 g0) (regs (-1) 1) (.p 3) 0 1024 = some 0
    ∧ result (.sel false 5 1 2 g0) (regs 7 8) (.s 5) 0 64 = some 7
    ∧ result (.sel false 5 1 2 goff) (regs 7 8) (.s 5) 0 64 = some 8 := by decide +kernel

/-- R279, R280: `xori` by −1 inverts, and `lit.hi` puts its literal above the low half of sa. -/
theorem test_immediates :
    result (.xori false 5 1 0x1FFF) (regs 5 0) (.s 5) 0 64 = some (2 ^ 64 - 6)
    ∧ result (.addi false 5 1 0x1FFF) (regs 0 0) (.s 5) 0 64 = some (2 ^ 64 - 1)
    ∧ result (.litHi false 5 1 g0 0x12345678) (regs 0xAAAAAAAA00000009 0) (.s 5) 0 64 = some 0x1234567800000009
    ∧ result (.sari false 5 1 63) (regs (-8) 0) (.s 5) 0 64 = some (2 ^ 64 - 1) := by decide +kernel

/-- R162, the examples of its entry: `st.w s5, [s9 + -4]` stores at s9 − 4, and `ld.b` extends with zeros. -/
theorem test_local_store :
    gives (exec (.stW false 5 9 0x1FFC) (withS [(5, 0x11223344), (9, 0x104)])) (fun t =>
      t.core.lsPend.map (fun b => (b.addr, b.value)) == [(0x100, 0x44), (0x101, 0x33), (0x102, 0x22), (0x103, 0x11)]) = true
    ∧ result (.ldB false 1 2 1) (onBase fun c => { c with ls := [(1, 0x88)] }) (.s 1) 0 64 = some 0x88 := by decide +kernel

/-- Vector registers 1 and 2. -/
def vregs (shape : Word) (a b : Nat) : State := withV shape [(1, BitVec.ofNat 4096 a), (2, BitVec.ofNat 4096 b)]

/-- R193: for INT32, −1 × 1 is 0xFFFF_FFFF from `vmulh` and 0 from `vmulhu`. -/
theorem test_vector_high_products :
    result (.vmulh false 3 1 2) (vregs 4 0xFFFFFFFF 1) (.v 3) 0 32 = some 0xFFFFFFFF
    ∧ result (.vmulhu false 3 1 2) (vregs 4 0xFFFFFFFF 1) (.v 3) 0 32 = some 0 := by decide +kernel

/-- Lanes of one value. -/
def lanes (w n x : Nat) : Nat := (2 ^ (w * n) - 1) / (2 ^ w - 1) * x

/-- R201: 512 lanes of 1 under INT8 give 127 with saturation and 0 without it. -/
theorem test_vector_sum :
    result (.vredAdd false 3 1) (vregs 0x800 (lanes 8 512 1) 0) (.v 3) 0 8 = some 127
    ∧ result (.vredAdd false 3 1) (vregs 0 (lanes 8 512 1) 0) (.v 3) 0 8 = some 0 := by decide +kernel

/-- The example after R169: 2^−24, 2^−25 and 65,536 from FP32 to FP16 under RNE, the last under RTZ too. -/
theorem test_convert_to_fp16 :
    result (.vcvt false 3 1 9) (vregs 8 (2 ^ 64 * 0x47800000 + 2 ^ 32 * 0x33000000 + 0x33800000) 0) (.v 3) 0 48 = some 0x7C0000000001
    ∧ result (.vcvt false 3 1 9) (vregs 0x208 0x47800000 0) (.v 3) 0 16 = some 0x7BFF := by decide +kernel

/-- The examples of R210: 300.0 from FP16 to INT8, an FP16 NaN to FP32. -/
theorem test_convert_narrow_and_wide :
    result (.vcvt false 3 1 0) (vregs 9 0x5CB0 0) (.v 3) 0 8 = some 127
    ∧ result (.vcvt false 4 1 8) (vregs 9 0xFE01 0) (.v 4) 0 32 = some 0x7FC00000 := by decide +kernel

/-- R209: the lesser of +0 and −0 is −0, the greater +0, and a NaN gives way. -/
theorem test_float_extremes :
    result (.vfmin false 3 1 2) (vregs 8 0 0x80000000) (.v 3) 0 32 = some 0x80000000
    ∧ result (.vfmax false 3 1 2) (vregs 8 0 0x80000000) (.v 3) 0 32 = some 0
    ∧ result (.vfmax false 3 1 2) (vregs 8 0x7FC00000 0x3F800000) (.v 3) 0 32 = some 0x3F800000 := by decide +kernel

/-- The sums of R174's and R176's examples: 2^24 + 1 ties to even, 1 + 2^−24 ties to 1, 1 + 2^−23 is exact. -/
theorem test_float_sums :
    result (.vfadd false 3 1 2) (vregs 8 (2 ^ 64 * 0x3F800000 + 2 ^ 32 * 0x3F800000 + 0x4B800000)
      (2 ^ 64 * 0x34000000 + 2 ^ 32 * 0x33800000 + 0x3F800000)) (.v 3) 0 96 = some (2 ^ 64 * 0x3F800001 + 2 ^ 32 * 0x3F800000 + 0x4B800000) := by
  decide +kernel

/-- R216's table: 1 / 2^−149 is +∞ under RNE, 1 / −0 is −∞, 2^k is exact, log2 of 1 is +0. -/
theorem test_special_functions :
    result (.vrcp false 3 1) (vregs 8 (2 ^ 32 * 0x80000000 + 1) 0) (.v 3) 0 64 = some 0xFF8000007F800000
    ∧ result (.vexp2 false 3 1) (vregs 8 0x40400000 0) (.v 3) 0 32 = some 0x41000000
    ∧ result (.vlog2 false 3 1) (vregs 8 0x3F800000 0) (.v 3) 0 32 = some 0 := by decide +kernel

/-- The block of the example after R213: −3.0, 0.5 and 0.75 as MXINT8. -/
def block0 : Nat := lanes 64 16 (2 ^ 32 * 0x3F000000 + 0x3F400000) - 2 ^ 32 * 0x3F000000 + 2 ^ 32 * 0xC0400000

theorem test_mx_block :
    result (.vcvtMx false 4 1 0 2 0) (vregs 8 block0 0) (.v 4) 0 32 = some 0x1018A018
    ∧ result (.vcvtMx false 4 1 0 2 0) (vregs 8 block0 0) (.v 5) 0 8 = some 0x80
    ∧ result (.vcvtMx false 4 1 1 2 0) (vregs 8 block0 0) (.v 4) 0 32 = some 0x080CD00C
    ∧ result (.vcvtMx false 4 1 0 2 0) (vregs 8 block0 0) (.amaxUp 2) 0 32 = some 0x40400000 := by decide +kernel

/-- R342 to R344: `trap 5` is cause 14 with CODE 5; `ld.h` at an odd address is cause 3 with that address; `add` while the
contract claims less than the class's own latency is cause 2, naming class, bound and own latency. -/
theorem test_traps :
    traps (.trap false 5) base 14 5 = true ∧ traps (.ldH false 1 2 1) base 3 1 = true
    ∧ traps (.add false 5 1 2 g0) (withCsr 0x10 1) 2 (2 ^ 32 * 1 + 2) = true := by decide +kernel

/-! ### Witnesses: states and operands that meet each obligation's hypotheses

A theorem `witness_X` belongs to the obligation `X`; where the obligation has several clauses a name goes on after it. -/

/-! ### The S strand -/

/-- Two operands, a negative one and one that wraps. -/
def sAB : State := withS [(2, 0xFFFFFFFFFFFFFFFE), (3, 5)]

theorem witness_ScalarIntegerResults :
    Runs sAB (sr 0 false g0) ∧ Runs sAB (sr 1 false g0) ∧ Runs sAB (sr 2 false g0)
    ∧ (sAB.readS 1 4).toNat = 0 ∧ (sAB.readS 1 3).toNat ≠ 0 ∧ (sAB.readS 0 2).toNat < 2 ^ 64 := by
  refine ⟨runs_of ?_, runs_of ?_, runs_of ?_, ?_, ?_, ?_⟩ <;> decide +kernel

theorem witness_ComparesPredicatesAndSelect :
    Runs sAB (sr 0 false g0) ∧ Stands sAB (si 0 false)
    ∧ (sAB.readP 15 g0.p).getLsbD 0 ≠ g0.neg ∧ (sAB.readP 15 goff.p).getLsbD 0 = goff.neg := by
  refine ⟨runs_of ?_, stands_of ?_, ?_, ?_⟩ <;> decide +kernel

theorem witness_ImmediatesLiteralsAndLea :
    (63 < 64 ∧ 2 ^ 32 - 1 < 2 ^ 32) ∧ Stands sAB (si 0 false) ∧ Runs sAB (sl false g0) := by
  refine ⟨by decide, stands_of ?_, runs_of ?_⟩ <;> decide +kernel

/-- Each word of the frame answers a next state that is no fatal trap. -/
theorem witness_ScalarRegisterWordFrame :
    (scalarRegisterWords false 1 2 3 4 5 g0 6).all (fun w => runsTo w.1 sAB fun _ => true) = true := by decide +kernel

/-- A local store of a few bytes, an address in s2, the highest aligned word in s3, a misaligned one in s4. -/
def sLs : State := onBase fun c => { c with
  s := [(2, 16), (3, 0x1FFFF8), (4, 0x1FFFFC), (5, 0x1122334455667788), (6, 3)]
  ls := [(16, 0x88), (17, 0x77), (0x1FFFFF, 0x7F)] }

theorem witness_ScalarLoadsAndStores :
    ((16 : Int) = scalarAddress sLs 2 0 ∧ ((0x1FFFF8 : Nat) : Int) = scalarAddress sLs 3 0 ∧ (0x1FFFF8 < 2 ^ 21 ∧ 0x1FFFF8 % 8 = 0))
    ∧ Stands sLs (si 3 false) ∧ Usable sLs (16 / 2 ^ 18) ∧ Usable sLs (0x1FFFF8 / 2 ^ 18)
    ∧ sLs.portTraps .s [sLs.portNow .s 0x1FFFF8 8] = []
    ∧ sLs.watchTraps .s 1 ((List.range 8).map (0x1FFFF8 + ·)) = [] ∧ sLs.watchTraps .s 0 ((List.range 8).map (16 + ·)) = [] := by
  refine ⟨by decide +kernel, stands_of ?_, usable_of ?_, usable_of ?_, ?_, ?_, ?_⟩ <;> decide +kernel

/-- Negative, beyond the local store, and misaligned by one. -/
theorem witness_BadAddressesTrap_scalar :
    Stands sLs (si 3 false) ∧ scalarAddress sLs 0 0x1FFF < 0 ∧ 2 ^ 21 ≤ scalarAddress sLs 3 8
    ∧ scalarAddress sLs 6 0 % 2 ≠ 0 := by
  refine ⟨stands_of ?_, ?_, ?_, ?_⟩ <;> decide +kernel

theorem witness_LocalAccessFrames_scalar :
    (scalarLoads false 1 2 0 ++ scalarStores false 5 2 0).all (fun w => runsTo w.2 sLs fun _ => true) = true
    ∧ ((16 : Nat) : Int) = scalarAddress sLs 2 0 := by decide +kernel

/-- Results in flight to each kind of register, and a byte on its way to the local store. -/
def sPend : State := onBase fun c => { c with
  pend := [⟨.s 1, 7, 0, 90, 100⟩, ⟨.p 1, 1, 0, 90, 95⟩, ⟨.v 3, 9, 0, 90, 100⟩, ⟨.csr 0x29, 5, 0, 90, 100⟩, ⟨.amaxUp 2, 6, 0, 90, 100⟩,
    ⟨.s 4, 7, 0, 90, 100⟩, ⟨.s 4, 8, 0, 95, 97⟩]
  lsPend := [⟨64, 0xAB, 98, 100⟩, ⟨65, 0xCD, 98, 100⟩] }

theorem witness_ResultsLand :
    (∀ k, k < 7 → ∃ r, sPend.core.pend[k]? = some r
      ∧ (sPend.core.rivals r).all (fun l => sPend.core.mayLand l.due sPend.cycle && decide (l.tag ≠ 3 ∧ l.issue < l.due)) = true)
    ∧ (∃ r, sPend.core.pend[6]? = some r ∧ (sPend.core.rivals r).length = 2)
    ∧ (∃ r, sPend.core.pend[4]? = some r ∧ r.dest = .amaxUp 2 ∧ sPend.core.rivals r = [r])
    ∧ sPend.core.canonical = true
    ∧ (sPend.core.lsPend[0]? = some ⟨64, 0xAB, 98, 100⟩ ∧ sPend.core.opens = [] ∧ sPend.core.rows = []
      ∧ sPend.core.lsPend.all (fun x => sPend.core.mayLand x.due sPend.cycle && decide (x.issue < x.due)) = true) := by
  refine ⟨fun k h => ?_, ⟨_, rfl, by decide +kernel⟩, ⟨_, rfl, by decide +kernel, by decide +kernel⟩, by decide +kernel, by decide +kernel⟩
  have : k = 0 ∨ k = 1 ∨ k = 2 ∨ k = 3 ∨ k = 4 ∨ k = 5 ∨ k = 6 := by omega
  rcases this with rfl | rfl | rfl | rfl | rfl | rfl | rfl <;> exact ⟨_, rfl, by decide +kernel⟩

/-- A loop at its first slot, at the last slot of a trip, and at its end; a repeat under way. -/
def thr (rep : Nat) (lp : Option Loop) : Thread := ⟨8, false, 0, rep, lp⟩

theorem witness_IssueMovesItsStrand :
    let at_ (t : Thread) := (onBase fun c => { c with thr := { c.thr with s := t } }).core.thr.get (sr 0 false g0).st
    ((at_ (thr 1 none)).rep ≤ 1 ∧ (at_ (thr 1 none)).loop = none) ∧ 1 < (at_ (thr 2 none)).rep
    ∧ (0 + 1 < (⟨8, 2, 3, 0, 0, [], false⟩ : Loop).n ∧ (at_ (thr 0 (some ⟨8, 2, 3, 0, 0, [], false⟩))).rep ≤ 1)
    ∧ ((⟨8, 2, 3, 0, 1, [], false⟩ : Loop).n ≤ 1 + 1 ∧ 0 + 1 < (⟨8, 2, 3, 0, 1, [], false⟩ : Loop).count)
    ∧ ((⟨8, 2, 3, 2, 1, [], false⟩ : Loop).n ≤ 1 + 1 ∧ (⟨8, 2, 3, 2, 1, [], false⟩ : Loop).count ≤ 2 + 1
      ∧ (at_ (thr 0 (some ⟨8, 2, 3, 2, 1, [], false⟩))).rep ≤ 1) := by decide +kernel

theorem witness_GuardedOffWords :
    GuardedOff base (sr 0 false goff) ∧ (sr 0 false goff).async = none
    ∧ GuardedOff base (xi false goff tok) ∧ (xi false goff tok).async = some 1 := by
  refine ⟨off_of ?_, rfl, off_of ?_, rfl⟩ <;> decide +kernel

/-- A contract whose bound for the multiplier is below the device's own latency. -/
def sSlow : State := withCsr 0x11 3

/-- In a loop body's first trip, and under a repeat. -/
def sBody : State := onBase fun c => { c with thr := { c.thr with s := thr 0 (some ⟨8, 2, 3, 0, 0, [], false⟩) } }
def sRep : State := onBase fun c => { c with thr := { c.thr with s := thr 2 none } }

theorem witness_PlacementAndContractTraps :
    ((∀ g, (sr 1 false g0).g = some g → sSlow.guardedOff g = false) ∧ sSlow.placeTraps (sr 1 false g0) = []
      ∧ sSlow.core.bound (sr 1 false g0).cls < ownLatency (sr 1 false g0).cls)
    ∧ (sBody.contractTraps (flow false) = [] ∧ ∃ lp, sBody.core.thr.s.loop = some lp ∧ lp.trip = 0)
    ∧ (sRep.contractTraps (flow false) = [] ∧ 0 < sRep.core.thr.s.rep) := by
  refine ⟨⟨fun g hg => ?_, by decide +kernel, by decide +kernel⟩, ⟨by decide +kernel, _, rfl, rfl⟩, by decide +kernel, by decide⟩
  obtain rfl := Option.some.inj hg
  decide +kernel

/-- A return offset in s63, one of them misaligned. -/
def sRet (a : Word) : State := withS [(63, a)]

theorem witness_BranchesCallsAndReturns :
    Stands base (flow false) ∧ ((40 : Nat) : Int) = base.core.thr.s.pc + 4 * sext 10 20
    ∧ (base.readP 0 0).getLsbD 0 ≠ false ∧ (base.readP 0 1).getLsbD 0 = false
    ∧ (Stands (sRet 8) (flow false) ∧ ((sRet 8).readS 0 63).toNat % 4 = 0)
    ∧ (Stands (sRet 6) (flow false) ∧ ((sRet 6).readS 0 63).toNat % 4 ≠ 0) := by
  refine ⟨stands_of ?_, ?_, ?_, ?_, ⟨stands_of ?_, ?_⟩, stands_of ?_, ?_⟩ <;> decide +kernel

theorem witness_LoopsRepeatsAndGaps :
    Stands base (flow false) ∧ Plain base ∧ base.core.straddles 257 (base.core.thr.s.pc + 4) (3 + 1) = false := by
  refine ⟨stands_of ?_, ⟨rfl, rfl, rfl⟩, ?_⟩ <;> decide +kernel

theorem witness_ControlRegisters :
    Stands base (si 3 false) ∧ base.team = some team0
    ∧ (csrKnown 0x28 = true ∧ 0x28 ∉ [3, 4, 0x20, 0x21, 0x22, 0x23] ∧ base.inFlight (.csr 0x28) = false)
    ∧ (csrKnown 0x4F = true ∧ base.inFlight (.csr 0x4F) = false ∧ ∀ m, 0x4F = 0x40 + m → base.inFlight (.amaxUp m) = false)
    ∧ base.core.canonical = true
    ∧ ((withS [(1, 0x3FFFC), (2, 1024), (3, 63), (4, 0x38002), (5, 1088), (6, 64)]).readS 0 1).toNat = 0x3FFFC := by
  refine ⟨stands_of ?_, ?_, ?_, ⟨?_, ?_, fun m h => ?_⟩, ?_, ?_⟩
  case refine_6 => obtain rfl : m = 15 := by omega
                   decide +kernel
  all_goals decide +kernel

/-- A handler registered in TRAPVEC; the same in handler mode. -/
def sVec : State := withCsr 0xA 0x38000
def sHandler : State := sVec.onCore fun c => { c with handler := some ⟨.entry, 7⟩ }

theorem witness_TrapEntersTheHandler :
    sVec.core.handler = none ∧ 3 ≤ (⟨3, 0⟩ : Trap).code ∧ (⟨20, 0⟩ : Trap).code ≤ 20
    ∧ (sVec.core.csrAt 0xA).toNat % 2 ^ 18 ≠ 0 ∧ sVec.core.canonical = true := by decide +kernel

theorem witness_FatalTrapsRestartsAndReturns :
    base.team = some team0 ∧ base.core.canonical = true ∧ (base.core.csrAt 0xA).toNat % 2 ^ 18 = 0
    ∧ sVec.team = some team0 ∧ (⟨2, 0⟩ : Trap).code < 3 ∧ 20 < (⟨21, 0⟩ : Trap).code
    ∧ (sHandler.team = some team0 ∧ sHandler.core.handler = some ⟨.entry, 7⟩ ∧ ∀ n, n < 4 → sHandler.inFlight (.csr (0xC + n)) = false)
    ∧ Stands sHandler (flow false) ∧ Stands sHandler (sysWord false) ∧ sHandler.core.canonical = true := by
  refine ⟨?_, ?_, ?_, ?_, ?_, ?_, ?_, stands_of ?_, stands_of ?_, ?_⟩ <;> decide +kernel

/-- A token on channel 3, a barrier with handle 5 of the launch, which this core has arrived at once. -/
def bar (done pending : Nat) (releases : List (Nat × Nat × Nat)) : Barrier where
  ltag := 1
  handle := 5
  desc := 0
  arrived := []
  gone := []
  done := done
  pending := pending
  windowEnd := []
  releases := releases
  ext := 0
  told := 0
def sSync (done : Nat) (ep : Nat) (releases : List (Nat × Nat × Nat)) : State :=
  { (onBase fun c => { c with s := [(1, 5)], chan := [(3, 1)], barEp := put 0 [] 5 ep }) with
    dev := { Device.reset with barriers := [bar done 0 releases] } }

theorem sSync_released (ep : Nat) (h : ep = 1) : (sSync 1 ep [(1, 0, 90)]).released (bar 1 0 [(1, 0, 90)]) ep = true := by
  subst h
  have e : (bar 1 0 [(1, 0, 90)]).resumeAt 0 0 1
      = some (90 + 0 * 1 + Config.freeNat (slotOf 8 0 (1 * 256 + 5)) (1 * 2 ^ 20 + 0) % 1) := rfl
  have t : (sSync 1 1 [(1, 0, 90)]).team = some team0 := by decide +kernel
  unfold State.released
  rw [t]
  show (match (bar 1 0 [(1, 0, 90)]).resumeAt 0 0 1 with | some r => decide (r ≤ 100) | none => false) = true
  rw [e, Nat.mod_one]
  rfl

theorem witness_SynchronisationWords :
    (Stands (sSync 0 0 []) (syncWord false) ∧ smapWf 0 (sSync 0 0 []).core.chan = true)
    ∧ ((sSync 0 0 []).core.tokens 3 ≠ 0 ∧ (sSync 0 0 []).core.tokens 4 = 0 ∧ (sSync 0 0 []).core.region = none)
    ∧ ((sSync 0 0 []).core.pmarks.length < 4 ∧ ((sSync 0 0 []).readS 0 1).toNat < 2 ^ 12 ∧ ((sSync 0 0 []).readS 0 1).toNat / 2 ^ 5 % 2 ^ 3 = 0)
    ∧ (((sSync 0 0 []).cycle + 1) % 2 ^ 0 = 0 ∧ ((sSync 0 0 []).cycle + 1) % 2 ^ 4 ≠ 0)
    ∧ ((sSync 0 0 []).team = some team0 ∧ (sSync 0 0 []).myBarrier ((sSync 0 0 []).readS 0 1) = some (bar 0 0 [])
      ∧ smapWf 0 (sSync 0 0 []).core.barEp = true ∧ (sSync 0 0 []).core.arrivalOf 5 ≤ (bar 0 0 []).done)
    ∧ ((sSync 1 1 [(1, 0, 90)]).myBarrier ((sSync 1 1 [(1, 0, 90)]).readS 0 1) = some (bar 1 0 [(1, 0, 90)])
      ∧ (sSync 1 1 [(1, 0, 90)]).core.arrivalOf 5 ≠ 0 ∧ (sSync 1 1 [(1, 0, 90)]).released (bar 1 0 [(1, 0, 90)]) 1 = true)
    ∧ ((sSync 0 1 []).core.arrivalOf 5 ≠ 0 ∧ (sSync 0 1 []).released (bar 0 0 []) 1 = false ∧ (sSync 0 1 []).core.region = none) := by
  refine ⟨⟨stands_of ?_, ?_⟩, ?_, ?_, ?_, ?_, ⟨?_, ?_, sSync_released 1 rfl⟩, ?_⟩ <;> decide +kernel

/-! ### Power -/

/-- Domains: 0 and 9 OFF, 8 RET, 1 waking until the next cycle, 2 waking long, the others ON; masks in registers. -/
def sPow (bal : Nat) (m : Word) : State := onBase fun c => { c with
  s := [(1, m)]
  bal := bal
  dom := (1, .waking 101 false) :: (2, .waking 200 false) :: (3, .on) :: (4, .on) :: (8, .ret) :: [(10, .on), (25, .on)] }

theorem witness_PowerWords :
    (Runs (sPow 64 0x0101) (sr 0 false g0) ∧ ((sPow 64 0x0101).readS 0 1).toNat < 2 ^ 26 ∧ smapWf .off (sPow 64 0x0101).core.dom = true)
    ∧ ((((List.range 26).filter fun d => (0x0101 : Nat).testBit d
        && ((sPow 64 0x0101).core.domAt d == .off || (sPow 64 0x0101).core.domAt d == .ret)).map inrushCost).sum ≤ 64
      ∧ 1 < (((List.range 26).filter fun d => (0x0101 : Nat).testBit d
        && ((sPow 1 0x0101).core.domAt d == .off || (sPow 1 0x0101).core.domAt d == .ret)).map inrushCost).sum)
    ∧ ((sPow 64 0x2000018).readS 0 1).toNat < 2 ^ 26
    ∧ (∀ d, d < 26 → (0x0A : Nat).testBit d = true → (sPow 64 0x0A).core.domAt d = .on ∨ (sPow 64 0x0A).core.domAt d = .waking 101 false)
    ∧ ((sPow 64 0x04).core.domAt 2 = .waking 200 false ∧ ¬200 ≤ (sPow 64 0x04).cycle + 1 ∧ (sPow 64 0x04).core.region = none)
    ∧ ((sPow 64 0x0101).core.domAt 0 = .off ∧ (sPow 64 0x0101).core.domAt 8 = .ret) := by
  refine ⟨⟨runs_of ?_, ?_, ?_⟩, ?_, ?_, ?_, ?_, ?_⟩ <;> decide +kernel

/-! ### The V strand -/

/-- Shapes by type, SAT on, every lane enabled. -/
def shaped (ty : Nat) : State := withV (BitVec.ofNat 64 (ty + 2 ^ 11)) [(1, 0x80FF017F), (2, 0x01FF0101), (3, 0x3F800000)]

theorem witness_LanesResultsAndEvents :
    (0 < 8 ∧ 8 ∣ 4096) ∧ (0 < 4 ∧ 4 ∣ 4096) ∧ ((shaped 0).core.opens = [] ∧ (shaped 0).core.gev = none) ∧ 512 * 8 / 4096 = 1 := by
  refine ⟨⟨by decide, 512, rfl⟩, ⟨by decide, 1024, rfl⟩, ⟨rfl, rfl⟩, by decide⟩

theorem witness_VectorIntegerArithmetic :
    VReady (shaped 0) 4 false (IntType (shaped 0)) [18] [3, 1, 2] ∧ VReady (shaped 7) 4 false (IntType (shaped 7)) [18] [3, 1]
    ∧ VReady (shaped 5) 5 false (IntType (shaped 5)) [18] [3, 1, 255] := by
  refine ⟨vready_of ?_ ?_, vready_of ?_ ?_, vready_of ?_ ?_⟩ <;> first | decide +kernel | (unfold IntType; decide +kernel)

theorem witness_VectorLogicMovesAndCompares :
    (VReady (shaped 10) 4 false (AnyType (shaped 10)) [18] [3, 1, 2] ∧ VReady (shaped 10) 5 false (AnyType (shaped 10)) [18] [3, 1, 2])
    ∧ (VReady (shaped 2) 4 false (IntType (shaped 2)) [18] [3, 1, 2] ∧ IntType (shaped 2))
    ∧ (VReady (shaped 9) 4 false (AnyType (shaped 9)) [18] [1, 2] ∧ FloatType (shaped 9))
    ∧ VReady (shaped 8) 4 false (AnyType (shaped 8)) [18] [3] := by
  refine ⟨⟨vready_of ?_ ?_, vready_of ?_ ?_⟩, ⟨vready_of ?_ ?_, ?_⟩, ⟨vready_of ?_ ?_, ?_⟩, vready_of ?_ ?_⟩ <;>
    first | decide +kernel | (unfold IntType; decide +kernel) | (unfold FloatType; decide +kernel) | (unfold AnyType; decide +kernel)

theorem witness_VectorReductionsAndWidths :
    VReady (shaped 0) 7 false (IntType (shaped 0)) [18] [3, 1]
    ∧ (IntType (shaped 2) ∧ laneWidth (shaped 2).shape.ty < 32)
    ∧ VReady (shaped 2) 5 false True [18] [3, 3 + 1, 1, 2] ∧ VReady (shaped 2) 5 false True [18] [3, 1, 1 + 1] := by
  refine ⟨vready_of ?_ ?_, ⟨?_, ?_⟩, vready_of trivial ?_, vready_of trivial ?_⟩ <;>
    first | decide +kernel | (unfold IntType; decide +kernel)

theorem witness_WindowShapeAndNames :
    Stands (withS [(1, 0xFFFFFF), (2, 0x1000000), (3, 64), (4, 1)]) (vi 4 false)
    ∧ ((withS [(1, 0xFFFFFF), (2, 0x1000000)]).readS 0 1).toNat < 2 ^ 24
    ∧ 2 ^ 24 ≤ ((withS [(1, 0xFFFFFF), (2, 0x1000000)]).readS 0 2).toNat
    ∧ ((64 + 64 * 15) % 64 = 0 ∧ 64 + 64 * 15 ≤ 1024) ∧ ((1 + 64 * 0) % 64 ≠ 0 ∧ 1024 < 64 + 64 * 16)
    ∧ (1024 ≤ 1024 ∧ 255 < 256 ∧ physOf 1024 63 255 = 1278) := by
  refine ⟨stands_of ?_, ?_, ?_, ?_, ?_, ?_⟩ <;> decide +kernel

theorem witness_VectorFloatArithmetic :
    VReady (shaped 8) 8 false (FloatType (shaped 8)) [18] [3, 1, 2] ∧ (shaped 8).shape.rnd < 2
    ∧ VReady (shaped 10) 8 false (FloatType (shaped 10)) [18] [3, 1, 2] := by
  refine ⟨vready_of ?_ ?_, ?_, vready_of ?_ ?_⟩ <;> first | decide +kernel | (unfold FloatType; decide +kernel)

theorem witness_RoundingIsCorrect :
    fp16 ∈ [fp32, fp16, bf16] ∧ (-1 : Int) ≠ 0 ∧ 0 < 3 ∧ (fp16.rnd 0 (.fin (-1) 3)).2 = .none
    ∧ fp16.val (fp16.rnd 0 (.fin (-1) 3)).1 = .fin (-1365) 4096 ∧ fp16.val 0x3C00 = .fin 1024 1024 := by
  refine ⟨by simp, by decide, by decide, ?_, ?_, ?_⟩ <;> decide +kernel

theorem witness_VectorConversions :
    ((shaped 8).shape.rnd < 2 ∧ (shaped 8).shape.ty < 11 ∧ 0 < 11 ∧ (shaped 8).shape.ty ≠ 0 ∧ max (laneWidth 8) (laneWidth 0) ≤ 4 * min (laneWidth 8) (laneWidth 0)
      ∧ VReady (shaped 8) 9 false True [18] (groupOf 8 (512 * 8 / 4096) ++ groupOf 4 (512 * 32 / 4096)))
    ∧ (3 < 4 ∧ VReady (shaped 9) 9 false (FloatType (shaped 9)) [18] (groupOf 8 2 ++ groupOf 4 (512 * 16 / 4096))
      ∧ (shaped 9).core.opens = [] ∧ (shaped 9).core.gev = none ∧ (shaped 9).core.pend = []) := by
  refine ⟨⟨?_, ?_, by decide, ?_, ?_, vready_of trivial ?_⟩, by decide, vready_of ?_ ?_, rfl, rfl, rfl⟩ <;>
    first | decide +kernel | (unfold FloatType; decide +kernel)

theorem witness_SpecialFunctionsAndWelford :
    VReady (shaped 8) 10 false (FloatType (shaped 8)) [19] [3, 1] ∧ (shaped 8).shape.rnd < 2 ∧ (shaped 8).shape.ty = 8
    ∧ VReady (shaped 8) 10 false True [19] (groupOf 4 3 ++ (groupOf 8 3 ++ [11]))
    ∧ VReady (shaped 8) 10 false True [19] (groupOf 4 3 ++ (groupOf 8 3 ++ groupOf 12 3))
    ∧ fp32.val 0x7FC00000 = .nan ∧ fp32.val 0x80000000 = .zero true ∧ fp32.val 0x7F800000 = .inf false
    ∧ fp32.val 0xFF800000 = .inf true ∧ fp32.val 0xBF800000 = .fin (-8388608) 8388608 := by
  refine ⟨vready_of ?_ ?_, ?_, ?_, vready_of trivial ?_, vready_of trivial ?_, ?_, ?_, ?_, ?_, ?_⟩ <;>
    first | decide +kernel | (unfold FloatType; decide +kernel)

/-- Each word of the V frames that its type permits answers a next state. -/
theorem witness_WordFrames_vector :
    runsTo (.vadd false 3 1 2) (shaped 0) (fun t => t.core.pend.length == 1) = true
    ∧ runsTo (.vfma false 3 1 2) (shaped 8) (fun t => t.core.pend.length == 1) = true
    ∧ runsTo (.vcmpLt false 3 1 2) (shaped 0) (fun t => t.core.pend.length == 1) = true := by decide +kernel

/-! ### The V strand: the local store, row passes -/

/-- 32-bit signed lanes, two of them enabled, which name words 64 and 0x1FFFFC; a misaligned lane in v4; addresses in
registers; a row descriptor of one line. -/
def sIdx (ty : Nat) : State := onBase fun c => { c.setCsr 0x2A (BitVec.ofNat 64 (ty + 2 ^ 4)) with
  p := [(1, 3)]
  s := [(1, 64), (2, 0x1FFE00), (3, 32), (4, 2 ^ 40 + 2 ^ 30), (5, 0x1FFE40)]
  v := [(1, BitVec.ofNat 4096 (64 + 2 ^ 32 * 0x1FFFFC)), (2, 7), (4, BitVec.ofNat 4096 (64 + 2 ^ 32 * 66)), (5, BitVec.ofNat 4096 (2 ^ 32 * 0x200000))]
  ls := [(64, 0x11)] }

theorem witness_VectorLoadAndStore :
    ((64 + 64 * 0) % 64 = 0 ∧ 0x1FFE00 + 511 ≤ 0x1FFFFF) ∧ VReady (sIdx 0) 6 false (AnyType (sIdx 0)) [18] [1]
    ∧ Usable (sIdx 0) (64 / 2 ^ 18) ∧ Usable (sIdx 0) (0x1FFE00 / 2 ^ 18)
    ∧ (sIdx 0).portTraps .v [(sIdx 0).portNow .v 0x1FFE00 512] = []
    ∧ (sIdx 0).watchTraps .v 1 ((sIdx 0).shape.bytes 64) = [] ∧ (sIdx 0).watchTraps .v 0 ((sIdx 0).shape.bytes 64) = []
    ∧ 8 ≤ laneWidth (sIdx 0).shape.ty ∧ laneWidth (sIdx 6).shape.ty = 4 := by
  refine ⟨?_, vready_of ?_ ?_, usable_of ?_, usable_of ?_, ?_, ?_, ?_, ?_, ?_⟩ <;>
    first | decide +kernel | (unfold AnyType; decide +kernel)

theorem witness_IndexedAccessesAndAtomics :
    ((sIdx 4).shape.ty ∈ [4, 5, 8] ∧ (sIdx 5).shape.ty ∈ [4, 5])
    ∧ ∀ kind, kind < 3 → IndexReady (sIdx 4) false True [3, 1, 2] 1 kind kind := by
  refine ⟨by decide +kernel, fun kind h => ?_⟩
  have on : lanesOn (sIdx 4) = [0, 1] := by decide +kernel
  refine ⟨vready_of trivial (by decide +kernel), ?_, ?_, ?_⟩
  · intro i hi
    rw [on] at hi
    have : i = 0 ∨ i = 1 := by simpa using hi
    rcases this with rfl | rfl <;> exact ⟨by decide +kernel, by decide +kernel, usable_of (by decide +kernel)⟩
  · have : kind = 0 ∨ kind = 1 ∨ kind = 2 := by omega
    rcases this with rfl | rfl | rfl <;> decide +kernel
  · have : kind = 0 ∨ kind = 1 ∨ kind = 2 := by omega
    rcases this with rfl | rfl | rfl <;> decide +kernel

/-- A misaligned line, one that ends beyond the local store, lanes that are misaligned or beyond it. -/
theorem witness_BadAddressesTrap_vector :
    VReady (sIdx 4) 6 false ((sIdx 4).shape.ty ∈ [4, 5]) [18] [3, 1, 2]
    ∧ (((sIdx 4).readS 0 3).toNat + 64 * 0) % 64 ≠ 0 ∧ 0x1FFFFF < ((sIdx 4).readS 0 5).toNat + 64 * 0 + 511
    ∧ (1 ∈ lanesOn (sIdx 4) ∧ laneAddress (sIdx 4) 4 1 % 4 ≠ 0 ∧ 0x1FFFFC < laneAddress (sIdx 4) 5 1)
    ∧ (laneAddress (sIdx 4) 4 0 % 4 = 0 ∧ laneAddress (sIdx 4) 4 0 ≤ 0x1FFFFC) := by
  refine ⟨vready_of ?_ ?_, ?_, ?_, ?_, ?_⟩ <;> decide +kernel

theorem witness_LocalAccessFrames_vector :
    [Instr.vld false 3 1 0, .vldx false 3 1, .vst false 1 1 0, .vstx false 2 1, .vamoOr false 3 1 2, .vamoAdd false 3 1 2,
      .vamoMin false 3 1 2, .vamoMax false 3 1 2].all (fun i => runsTo i (sIdx 4) fun t => t.core.thr.v.pc == 0x14004) = true := by
  decide +kernel

/-- A row pass of one row of 64 bytes in one chunk, at a stage: what it has read. -/
def pass0 (kind : Nat) (got : List Nat) : RowPass where
  kind := kind
  busy := 90
  due := 100
  issue := 100
  desc := 2 ^ 40 + 2 ^ 30 + 64
  on := [0]
  ty := 8
  rnd := 0
  tid := 5
  phys := 3
  v := 0x3F800000
  vc := 0
  base := 0
  got := got
  sat := 1
  ftz := 0
  nan := 0
def sRows (got : List Nat) : State := (sIdx 8).onCore fun c => { c with rows := [pass0 1 got] }
/-- Three rows of which one has been read. -/
def pass3 : RowPass := { pass0 1 [0] with desc := 2 ^ 40 + 2 ^ 30 + 2 ^ 24 + 64, issue := 98, on := [0, 1, 2] }
def sRows3 : State := (sIdx 8).onCore fun c => { c with rows := [pass3] }

theorem witness_RowPasses :
    (VReady (sIdx 8) 11 false (FloatType (sIdx 8)) [19] [1] ∧ VReady (sIdx 8) 11 false (FloatType (sIdx 8)) [19] [1, 2])
    ∧ (∀ kind, kind < 3 → (sIdx 8).rowTraps kind ((sIdx 8).readS 0 4).toNat [1, 2] = [])
    ∧ ((sIdx 8).core.opens = [] ∧ (sIdx 8).core.gev = none ∧ (sIdx 8).core.pend = [] ∧ (sIdx 8).core.lsPend = [])
    ∧ (0 < (rowsOf ((sIdx 8).readS 0 4).toNat).rows ∧ (sIdx 8).shape.guard.testBit 0 = true)
    ∧ ((sRows [7]).core.rows = [pass0 1 [7]] ∧ (pass0 1 [7]).finished = true ∧ 90 ≤ (sRows [7]).cycle ∧ 100 ≤ (sRows [7]).cycle
      ∧ (sRows [7]).team = some team0 ∧ 0 ∈ (pass0 1 [7]).on ∧ 0 < 64 * (pass0 1 [7]).rows.len)
    ∧ (sRows3.core.rows = [pass3] ∧ pass3.finished = false ∧ pass3.got.length + 1 < pass3.rows.rows * pass3.rows.chunks
      ∧ sRows3.cycle = pass3.issue + 2 * pass3.got.length ∧ pass3.got.length / pass3.rows.chunks ∈ pass3.on)
    ∧ (sRows3.core.ghosts = [] ∧ sRows3.core.opens = [] ∧ sRows3.core.lsPend = []) := by
  refine ⟨⟨vready_of ?_ ?_, vready_of ?_ ?_⟩, fun kind h => ?_, ⟨rfl, rfl, rfl, rfl⟩, ?_, ?_, ?_, ?_⟩
  case refine_5 => have : kind = 0 ∨ kind = 1 ∨ kind = 2 := by omega
                   rcases this with rfl | rfl | rfl <;> decide +kernel
  all_goals first | decide +kernel | (unfold FloatType; decide +kernel)

/-! ### The M strand -/

/-- A tile of one block, operands of the set-up words in registers, a stream descriptor of zeros in the local store. -/
def sMat : State := onBase fun c => { c.setCsr 0x2B 0x11 with
  s := [(1, 0x11), (2, 64), (3, 2 ^ 48), (4, 0x1FFFF0), (5, 0x180053), (6, 0xFFF)] }
/-- The same for a team of four cores. -/
def sGang : State := { sMat with teams := [{ team0 with gw := 2 }] }

theorem witness_MatrixSetupWords :
    Runs sMat (mi 12 false g0)
    ∧ ((sMat.readS 0 1).toNat < 2 ^ 22 ∧ (sMat.readS 0 1).toNat / 2 ^ 11 % 2 ^ 5 = 0 ∧ (sMat.readS 0 1).toNat % 16 = 1
      ∧ (sMat.readS 0 1).toNat / 16 % 16 = 1 ∧ sMat.core.nestOpen = false ∧ (List.range 32).all (fun r => usableB sMat (8 + r / 128)) = true)
    ∧ (32 * ((sMat.readS 0 5).toNat / 2 ^ 16 % 64) + 32 * 3 * 5 * 1 ≤ 1280 ∧ (sMat.readS 0 5).toNat % 16 = 3)
    ∧ ((sMat.readS 0 4).toNat % 16 = 0 ∧ (sMat.readS 0 4).toNat ≤ 0x1FFFF0 ∧ Usable sMat ((sMat.readS 0 4).toNat / 2 ^ 18)
      ∧ numberAt sMat 0x1FFFF0 16 = 0 ∧ sMat.portTraps .m [sMat.portNow .m 0x1FFFF0 16] = [])
    ∧ (5 < 6 ∧ (sMat.readS 0 3).toNat / 2 ^ 0 % 2 ^ 16 = 0)
    ∧ ((sMat.readS 0 6).toNat < 2 ^ 32 ∧ (sMat.readS 0 6).toNat / 2 ^ 12 % 2 ^ 6 = 0 ∧ (sMat.readS 0 6).toNat / 2 ^ 18 % 2 ^ 3 ≤ 5)
    ∧ (sMat.tcfgNow % 16 ≠ 0 ∧ sMat.tcfgNow / 16 % 16 ≠ 0 ∧ 0 ≤ sMat.tcfgNow / 2 ^ 8 % 8 ∧ sMat.core.tileOpen 0 = false)
    ∧ (sGang.team = some { team0 with gw := 2 } ∧ Runs sGang (mi 12 false g0) ∧ sGang.core.nestOpen = false)
    ∧ (sMat.team = some team0 ∧ (sMat.readS 0 6).toNat < 2 ^ 12) := by
  refine ⟨runs_of ?_, ?_, ?_, ⟨?_, ?_, usable_of ?_, ?_, ?_⟩, ?_, ?_, ?_, ⟨?_, runs_of ?_, ?_⟩, ?_⟩ <;> decide +kernel

/-- A nest on the tile of the test machine, and its command at a stage. -/
def snap0 : NestSnap := sMat.snapshot
def cmdOf (op : CmdOp) (st : Stage) (pops todo : List Nat) : Cmd where
  idx := 7
  word := 0
  word1 := 0
  args := []
  op := op
  push := 2
  pops := pops
  issue := 50
  accepted := 50
  stage := st
  pins := []
  todo := todo
  got := []
  bar := none
  fail := false
  watch := none
  late := none
  began := 60
def queueOf (xs : List Cmd) : Queue := ⟨xs, 8, false, none⟩
def sNest (st : Stage) : State := sMat.onCore fun c => { c with mxq := queueOf [cmdOf (.nest snap0) st [] []] }

theorem witness_MatrixElementStep :
    fp32.val 0x7FC00000 = .nan ∧ fp32.val 0x7F800000 = .inf false
    ∧ (fp32.val 0x3F800000 ≠ .nan ∧ fp32.val 0x3F800000 = .fin 8388608 8388608) ∧ (∀ n, fp32.val 0x3F800000 ≠ .inf n) := by
  refine ⟨by decide +kernel, by decide +kernel, by decide +kernel, fun n => ?_⟩
  have : fp32.val 0x3F800000 = .fin 8388608 8388608 := by decide +kernel
  rw [this]; simp

theorem witness_NestsFromQueueToCompletion :
    (Runs sMat (mgoWord false g0 tok) ∧ sMat.mgoTraps sMat.snapshot = [] ∧ Runs sMat (mi 12 false g0))
    ∧ ((sNest .waiting).core.mxq.cmds = [cmdOf (.nest snap0) .waiting [] []] ∧ snap0.share = 0
      ∧ (sNest .waiting).core.mxq.halted = false ∧ (sNest .waiting).core.pend = [] ∧ snap0.meets = false)
    ∧ ((sNest .begun).core.mxq.cmds = [cmdOf (.nest snap0) .begun [] []] ∧ (sNest .begun).core.canonical = true
      ∧ (sNest .begun).core.ghosts = [] ∧ (sNest .begun).others = [] ∧ (sNest .begun).core.opens.all (fun w => w.spoilt == []) = true)
    ∧ (0 < tSize snap0.tcfg.toNat
      ∧ ((nestRun [((sNest .begun).core, cmdOf (.nest snap0) .begun [] [])] (sNest .begun).core snap0).element 0 0 0).isSome = true) := by
  refine ⟨⟨runs_of ?_, ?_, runs_of ?_⟩, ?_, ?_, ?_⟩ <;> decide +kernel

/-- A grammar configuration of zeros, whose one rule is its own entry read as a terminal; a rule that faults. -/
def sGram (e0 : Byte) (gev : Option Gev) (ends : List Gev) : State := onBase fun c => { c with
  gvalid := true
  ls := [(2, e0)].filter fun e => e.2 ≠ 0
  gev := gev
  gevEnds := ends
  s := [(1, 64)] }
def gev0 (done : Nat) : Gev where
  first := 0
  n := 1
  done := done
  at_ := 98
  issue := 98
  occ := 1
  due := 100
  xphys := [0]
  cfg := 0
  terms := 1
  refs := 0
  sat := 0
  ftz := 0
  nan := 0
  spoilt := false
  late := 0
  failed := false

/-- The outcome of a rule as a number: the sum and depth, or the fault's code. -/
def ruleSays : Nat × RuleOut → Bool × Nat × Nat
  | (_, .ok sum depth _ _ _) => (true, sum, depth)
  | (_, .fault code _ _) => (false, code, 0)

theorem witness_GrammarEngine :
    Runs (sGram 0 none []) (mi 13 false g0)
    ∧ (((sGram 0 none []).readS 0 1).toNat % 32 = 0 ∧ ((sGram 0 none []).readS 0 1).toNat ≤ 0x1FFFE0 ∧ Usable (sGram 0 none []) 0
      ∧ Usable (sGram 0 none []) 24 ∧ grammarOk (numberAt (sGram 0 none []) 64 32) = true
      ∧ (sGram 0 none []).portTraps .m [(sGram 0 none []).portNow .m 64 32] = [])
    ∧ ((sGram 0 none []).grammarNow = some 0 ∧ (sGram 0 none []).gevTraps ((sGram 0 none []).readS 0 0).toNat (some 0) = []
      ∧ ((sGram 0 none []).readS 1 1).toNat < 256 ∧ ((sGram 0 none []).readS 0 0).toNat ≤ (grammarOf 0).nrowm1
      ∧ ([24, 8 + (sGram 0 none []).phys 64 / 128, 0].all (usableB (sGram 0 none []))) = true
      ∧ (sGram 0 none []).portTraps .m [(sGram 0 none []).portNow .m 0 1] = []
      ∧ (sGram 0 none []).core.opens = [] ∧ (sGram 0 none []).core.gev = none)
    ∧ ((sGram 0 (some (gev0 0)) []).core.gev = some (gev0 0) ∧ (gev0 0).done < (gev0 0).n ∧ (gev0 0).at_ ≤ (sGram 0 (some (gev0 0)) []).cycle
      ∧ ruleSays ((sGram 0 (some (gev0 0)) []).runRule (gev0 0) 0) = (true, 0, 1)
      ∧ smapWf ⟨0, 0⟩ (sGram 0 (some (gev0 0)) []).core.rvf = true
      ∧ ruleSays ((sGram 0xF8 (some (gev0 0)) []).runRule (gev0 0) 0) = (false, 12, 0))
    ∧ ((gev0 1).done = (gev0 1).n ∧ (gev0 1).issue + (gev0 1).occ + (gev0 1).late ≤ 100 ∧ (gev0 1).spoilt = false)
    ∧ ((sGram 0 none [gev0 1]).core.gev = none ∧ (sGram 0 none [gev0 1]).core.gevEnds = [gev0 1] ∧ (gev0 1).due ≤ (sGram 0 none [gev0 1]).cycle
      ∧ smapWf 0 (sGram 0 none [gev0 1]).core.gstat = true ∧ (sGram 0 none [gev0 1]).team = some team0) := by
  refine ⟨runs_of ?_, ⟨?_, ?_, usable_of ?_, usable_of ?_, ?_, ?_⟩, ?_, ?_, ?_, ?_⟩ <;> decide +kernel

theorem witness_WordFrames_matrix :
    [Instr.mcfg false 1 g0, .mstream false 1 2 g0, .mnest false 0 3 g0, .mgo false g0 tok, .mdrain false g0, .mzero false 0 g0,
      .mgang false 0 g0, .mstat false 0 6 1 g0].all (fun i => runsTo i sMat fun t => decide (0x28004 ≤ t.core.thr.m.pc)) = true
    ∧ [Instr.gset false 1 g0, .gev false 0 g0, .gout false 0 1 g0, .gstat false 0 2 g0].all (fun i => runsTo i (sGram 0 none []) fun t =>
        t.core.thr.m.pc == 0x28004) = true := by decide +kernel

/-! ### The X strand -/

/-- A WRITE token of 64 KiB at 0x100000, addresses and operands in registers, a copy descriptor at 0. -/
def hold0 (base sz mode n : Nat) : Holding := ⟨base, sz, mode, n, false, 0, 0, ⟨0, 1, 1, 0⟩, false⟩
def farTeam (hs : List Holding) : Team := { team0 with holdings := hs }
def sFar (hs : List Holding) (region : Option Nat) : State := { (onBase fun c => { c with
  s := [(1, 0x100000), (2, 0x10FFF8), (3, 5), (4, 0x8001), (5, 64), (6, 0x1000), (7, 0x8000000000000000), (8, 0x800),
    (9, 0x4000000000), (10, BitVec.ofNat 64 (2 ^ 23 + 32)), (11, 0x100010), (12, 0x200000), (13, 0x100011), (14, 0x110000), (15, 1)]
  ls := [(0, 64), (7, 8), (10, 0x10), (17, 0x10)]
  region := region }) with teams := [farTeam hs] }
def sW : State := sFar [hold0 0x100000 16 0 1] none

theorem witness_FarAccessesAreQueued :
    Runs sW (xi false g0 tok)
    ∧ FarReady sW 4 ((sW.readS 1 2).toNat) (2 ^ 3) [((sW.readS 1 2).toNat, 2 ^ 3)] .read
    ∧ FarReady sW 5 ((sW.readS 1 2).toNat) (2 ^ 3) [((sW.readS 1 2).toNat, 2 ^ 3)] .write
    ∧ FarReady sW 5 ((sW.readS 1 2).toNat) 8 [((sW.readS 1 2).toNat, 8)] .atomic
    ∧ ((sW.readS 1 4).toNat < 2 ^ 16 ∧ Usable sW (8 + sW.phys 3 / 128)
      ∧ FarReady sW 5 (sW.readS 0 1).toNat 32 (((List.range 16).filter fun i => (sW.readS 1 4).toNat.testBit i).map
          fun i => ((sW.readS 0 1).toNat + 32 * i, 32)) .atomic)
    ∧ ((sW.readS 0 5).toNat % 4 = 0 ∧ 4 ≤ (sW.readS 2 5).toNat ∧ (sW.readS 0 5).toNat + (sW.readS 2 5).toNat ≤ 0x38000
      ∧ FarReady sW 4 0 1 [((sW.readS 1 1).toNat, (sW.readS 2 5).toNat)] .read) := by
  refine ⟨runs_of ?_, ⟨?_, usable_of ?_, ?_, ?_⟩, ⟨?_, usable_of ?_, ?_, ?_⟩, ⟨?_, usable_of ?_, ?_, ?_⟩,
    ⟨?_, usable_of ?_, ?_, usable_of ?_, ?_, ?_⟩, ?_, ?_, ?_, ?_, usable_of ?_, ?_, ?_⟩ <;> decide +kernel

theorem witness_CopiesAreQueued :
    Runs sW (xi false g0 tok)
    ∧ sW.copyTraps ⟨0, 64, [], [], [], 0x100000, 0x1000, false, false, 0, []⟩ true [] = []
    ∧ ((sW.readS 2 7).toNat = 2 ^ 63 + 0 ∧ sW.core.isOn 0 = true ∧ (descForm (numberAt sW 0 64) sW.namesBarrier).2.2 = true
      ∧ sW.copyTraps (descForm (numberAt sW 0 64) sW.namesBarrier).1 true [0] = [] ∧ sW.portTraps .x [sW.portNow .x 0 64] = []
      ∧ sW.watchTraps .x 1 ((List.range 64).map (0 + ·)) = [])
    ∧ ((sW.readS 1 8).toNat % 8 = 0 ∧ sW.copyTraps ⟨0, 64, [1], [0], [64], 0, 0x1000, true, false, 0x800, []⟩ true [] = [])
    ∧ (sW.czTraps true 0x100000 0x1000 (2 ^ 23 + 32) = [] ∧ sW.czTraps false 0x100000 0x1000 (2 ^ 23 + 32) = []) := by
  refine ⟨runs_of ?_, ?_, ?_, ?_, ?_⟩ <;> decide +kernel

/-- Two halves of one region, and a share of another. -/
def sHalves : State := sFar [hold0 0x100000 16 0 1, hold0 0x110000 16 0 1, hold0 0x200000 17 1 2] none

theorem witness_OwnershipWordsAreQueued :
    (Runs sHalves (xi false g0 tok) ∧ sHalves.team = some (farTeam [hold0 0x100000 16 0 1, hold0 0x110000 16 0 1, hold0 0x200000 17 1 2]))
    ∧ (∀ mode, mode < 3 → sHalves.ownTraps 0x100010 (sHalves.lendReason 0x100010 0x50100000 mode) = [])
    ∧ (sHalves.ownTraps 0x100010 (sHalves.retReason 0x100010) = [] ∧ sHalves.ownTraps 0x200011 (sHalves.retReason 0x200011) = [])
    ∧ sHalves.ownTraps 0x100011 (sHalves.joinReason 0x100011) = []
    ∧ (sFar [hold0 0x100000 17 0 1] none).ownTraps 0x100011 ((sFar [hold0 0x100000 17 0 1] none).splitReason 0x100011) = []
    ∧ (roOk 0x100010 = true ∧ sHalves.ownTraps 0x100010 none = []) := by
  refine ⟨⟨runs_of ?_, ?_⟩, fun mode h => ?_, ?_, ?_, ?_, ?_⟩
  case refine_3 => have : mode = 0 ∨ mode = 1 ∨ mode = 2 := by omega
                   rcases this with rfl | rfl | rfl <;> decide +kernel
  all_goals decide +kernel

/-- A launch of one cohort of two teams that may send to each other, in an aligned region, a delivery for this core. -/
def launch0 : Launch where
  ltag := 1
  aqi := 1
  node := 5
  ctx := 3
  pasid := 0
  prio := 0
  rerun := false
  pack := true
  gw := 0
  wdog := 0
  levels := [2]
  spatial := [2]
  dieLevels := []
  teams := 2
  regions := []
  entries := []
  barriers := []
  arg := []
  argLs := 0
  sections := [[], [], [], [], []]
  contract := []
  cohorts := [[0, 1]]
  started := []
  dump := none
  nrerun := 0
  rev := 0x30
  resident := 0
  mhzSum := 0
  slow := []
  blocks := []
def deliv (tag : Nat) : Delivery := ⟨1, 0, 0, 1, 0, tag, 100, List.replicate 512 0xAA⟩
def sPeer (ds : List Delivery) : State :=
  let s := sFar [] (some 90)
  { s with dev := { s.dev with launches := [launch0], deliveries := ds } }
def recorded (q : Nat) : State := sW.onCore fun c =>
  c.setQueue q ⟨[], 8, true, some (90, cmdOf (.fld 3 0x100000 3) .popped [] [])⟩

theorem witness_SendReceiveAndReplay :
    ((sPeer []).core.team = some ⟨1, 0⟩ ∧ Runs (sPeer []) (peerWord false g0)
      ∧ (sPeer []).peerTraps 0x1000 1 1 = [] ∧ (sPeer []).peerTraps 0x1000 1 0 = [])
    ∧ (sPeer [deliv 9]).arrived = [deliv 9] ∧ (sPeer []).arrived = []
    ∧ (Runs sW (xi false g0 tok) ∧ Usable sW 25 ∧ ((sW.launchAt 1).map (·.rev)).getD 0x30 = 0x30 ∧ sW.core.oldestRecord = none)
    ∧ ((recorded 4).core.oldestRecord = some (4, 90, cmdOf (.fld 3 0x100000 3) .popped [] [])
      ∧ ((recorded 4).core.queue 4).cmds.length < queueCap 4) := by
  refine ⟨⟨?_, runs_of ?_, ?_, ?_⟩, ?_, ?_, ⟨runs_of ?_, usable_of ?_, ?_, ?_⟩, ?_⟩ <;> decide +kernel

theorem witness_GuardedOffWords_commands :
    GuardedOff sW (xi false goff tok) ∧ GuardedOff sW (mgoWord false goff tok) := by
  refine ⟨off_of ?_, off_of ?_⟩ <;> decide +kernel

/-- A misaligned far address, one outside every token, and one that only a share covers. -/
theorem witness_BadAddressesTrap_far :
    (Runs sHalves (xi false g0 tok) ∧ (sHalves.readS 1 3).toNat % 2 ^ 1 ≠ 0)
    ∧ ((sHalves.readS 1 5).toNat % 2 ^ 3 = 0 ∧ sHalves.farFail 64 8 .read = some (0, 64) ∧ Usable sHalves 25)
    ∧ ((sHalves.readS 1 12).toNat % 2 ^ 3 = 0 ∧ sHalves.farFail 0x200000 8 .write = some (1, 0x200000)) := by
  refine ⟨⟨runs_of ?_, ?_⟩, ⟨?_, ?_, usable_of ?_⟩, ?_⟩ <;> decide +kernel

theorem witness_WordFrames_x :
    [Instr.xfld false 3 1 3 g0 tok, .xfst false 3 1 3 g0 tok, .xamoAdd false 3 1 5 g0 tok, .xvamoAdd false 3 1 4 g0 tok,
      .xcopy false 6 1 5 g0 tok, .xpak false 1 6 10 g0 tok, .ownRet false 11 g0 tok, .ownQuery false 3 11 g0 tok,
      .ovl false 5 1 5 g0 tok, .replay false g0 tok].all (fun i => runsTo i sW fun t => t.core.thr.x.pc == 0x30008) = true
    ∧ runsTo (.send false 9 6 15 g0) (sPeer []) (fun _ => true) = true := by decide +kernel

/-! ### Words and steps -/

theorem witness_EncodeDecodeRoundTrip :
    (Instr.addi false 63 1 0x1FFF).wf = true ∧ (Instr.replay true ⟨7, true⟩ ⟨15, 15, 15, 15⟩).wf = true
    ∧ (Instr.vcvtMx true 255 254 1 15 3).wf = true := by decide


/-! ### What a step runs -/

/-- Two words of a program in the scratchpad, and a strand that stands outside its section. -/
def sProg : State := onBase fun c => { c with code := [(0, 0x10380001)] }
def sLost : State := onBase fun c => { c with thr := { c.thr with s := .entry 0x14000 } }

theorem witness_StepRunsTheDecodedWord :
    (sProg.phase = .issue (.s :: []) ∧ inSection (sProg.core.sectionOf .s) (sProg.core.thr.get .s).pc = true
      ∧ (sProg.core.thr.get .s).loop = none)
    ∧ decode .s (sProg.fetchBytes .s) = .ok (.addi false 7 0 1, Sys2Proof.wordBytes 0)
    ∧ runsTo (.addi false 7 0 1) (sProg.ready .s []) (fun _ => true) = true
    ∧ (inSection (base.core.sectionOf .s) (base.core.thr.get .s).pc = true ∧ decode .s (base.fetchBytes .s) = .error .opcode)
    ∧ inSection (sLost.core.sectionOf .s) (sLost.core.thr.get .s).pc = false := by
  refine ⟨by decide +kernel, rfl, by decide +kernel, ⟨by decide +kernel, rfl⟩, by decide +kernel⟩

theorem witness_FarMemoryStaysCanonical :
    base.farCanonical = true ∧ base.coresCanonical = true ∧ gives (step base) (fun t => t.farCanonical && t.coresCanonical) = true := by
  decide +kernel

/-! ### Steps that no word encodes: cores -/

/-- A core in each kind of hold, and a region that has lasted too long. -/
def sHold (h : Hold) (region : Option Nat) : State := onBase fun c => { c with hold := h, region := region, chan := [(3, 1)] }
/-- A barrier of the launch whose one participant has arrived. -/
def sEpisode : State :=
  let b := { bar 0 0 [] with arrived := [(0, 0, 1)] }
  { (onBase fun c => { c with hold := .barWait 5, barEp := [(5, 1)] }) with
    dev := { Device.reset with barriers := [b], launches := [launch0] } }
/-- Words with L = 1 next on the strands that LOCKMASK names. -/
def sEntry : State := onBase fun c => { (c.setCsr 2 1) with code := [(0, 0x80000000 ||| 0x10380001)] }

theorem witness_CoreStepsBetweenWords_holds :
    ((sHold (.waitK 3) none).core.hold = .waitK 3 ∧ 0 < (sHold (.waitK 3) none).core.tokens 3 ∧ smapWf 0 (sHold (.waitK 3) none).core.chan = true)
    ∧ ((sHold (.realign 2) none).core.hold = .realign 2 ∧ (sHold (.realign 2) none).cycle % 2 ^ 2 = 0)
    ∧ (∃ s : State, s.core.region = some 0 ∧ 0 + 65536 ≤ s.cycle)
    ∧ ((sSync 1 1 [(1, 0, 90)]).core.arrivalOf 5 = 1 ∧ (sSync 1 1 [(1, 0, 90)]).myBarrier (BitVec.ofNat 64 5) = some (bar 1 0 [(1, 0, 90)])
      ∧ (sSync 1 1 [(1, 0, 90)]).released (bar 1 0 [(1, 0, 90)]) ((sSync 1 1 [(1, 0, 90)]).core.arrivalOf 5) = true)
    ∧ (sEpisode.barrierAt 1 5 = some { bar 0 0 [] with arrived := [(0, 0, 1)] } ∧ sEpisode.launchAt 1 = some launch0
      ∧ (∀ r, r < 2 ^ launch0.gw → 0 + 1 ≤ ({ bar 0 0 [] with arrived := [(0, 0, 1)] } : Barrier).arrivals (0 + 0) r)
      ∧ (bar 0 0 []).countM1 = 0 ∧ (bar 0 0 []).xdev * (0 + 1) ≤ 0)
    ∧ (sEntry.entryOpen = true ∧ sEntry.atEntry .s = true) := by
  refine ⟨?_, ?_, ⟨{ (sHold .none (some 0)) with cycle := 65536 }, rfl, by decide⟩, ⟨?_, ?_, sSync_released 1 rfl⟩, ?_, ?_⟩ <;> decide +kernel

/-- A push and a marker that wait, an imprecise trap that is pending. -/
def sBound : State := onBase fun c => { c with
  gpush := [(⟨0, 1, 4, 0xFFFF⟩, 90, 110)]
  pmarks := [⟨2, 31, 90⟩]
  impr := [⟨16, 0⟩] }
def sDog : State := { base with teams := [{ team0 with wdog := 0 }] }
def sBusy (h : Option Saved) (d : Bool) : State := (sPeer [deliv 9]).onCore fun c => { c with handler := h, isDone := d }

theorem witness_CoreStepsBetweenWords_boundary :
    (sBound.core.gpush[0]? = some (⟨0, 1, 4, 0xFFFF⟩, 90, 110) ∧ 90 < sBound.cycle
      ∧ ∀ e ∈ sBound.core.gpush.take 0, e.1.src ≠ 4)
    ∧ (sBound.core.pmarks[0]? = some ⟨2, 31, 90⟩ ∧ ∀ i, i < 5 → (sBound.core.queue ([4, 5, 6, 7, 8].getD i 0)).cmds = [])
    ∧ (sBound.core.impr = ⟨16, 0⟩ :: [] ∧ sBound.core.handler = none ∧ sBound.core.team.isSome = true ∧ sBound.core.isDone = false
      ∧ sBound.core.stopped = false)
    ∧ (sDog.team = some { team0 with wdog := 0 } ∧ sDog.core.canonical = true)
    ∧ ((sPeer [deliv 9]).arrived = [deliv 9] ∧ (sPeer [deliv 9]).core.handler = none ∧ (sPeer [deliv 9]).core.isDone = false)
    ∧ ((sBusy (some ⟨.entry, 7⟩) false).arrived = [deliv 9] ∧ (sBusy none true).arrived = [deliv 9]) := by
  decide +kernel

/-- A domain whose wake is over, from OFF and from RET; OFF domains; a balance below and at 64. -/
def sDom (d : Dom) (bal refill : Nat) : State := onBase fun c => { c with dom := put .off [] 2 d, bal := bal, refill := refill }

theorem witness_PowerDomainSteps_core :
    ((sDom (.waking 100 false) 64 0).core.domAt 2 = .waking 100 false ∧ 100 ≤ (sDom (.waking 100 false) 64 0).cycle
      ∧ (sDom (.waking 100 true) 64 0).core.domAt 2 = .waking 100 true)
    ∧ ((sDom .off 64 0).core.canonical = true ∧ smapWf Dom.off (sDom .on 64 0).core.dom = true ∧ (sDom .off 64 0).core.domAt 2 = .off
      ∧ (sDom .off 64 0).core.pend = [] ∧ ∀ q ∈ [4, 5, 6, 7, 8], ((sDom .off 64 0).core.queue q).cmds = [])
    ∧ (64 ≤ (sDom .on 64 0).core.bal ∧ ((sDom .on 63 7).core.bal < 64 ∧ (sDom .on 63 7).core.refill = 7) ∧ (sDom .on 0 6).core.refill ≠ 7) := by
  decide +kernel

/-- A pan with its crystallizer ON and idle, a sub-bank in a state. -/
def sPan (bank : Dom) : State := { base with dev := { Device.reset with pans := [(191, ⟨put .off [] 7 bank, .on, 0, 0, none⟩)] }, cycle := 5000 }

theorem witness_PowerDomainSteps_pan :
    (23 < 24 ∧ 7 < 8 ∧ (sPan .on).farCanonical = true)
    ∧ (((sPan .on).dev.panAt 191).cz = .on ∧ ((sPan .on).dev.panAt 191).idle + 4096 ≤ (sPan .on).cycle
      ∧ ((sPan .on).dev.panAt 191).node = none ∧ ∀ c ∈ (sPan .on).cores, c.place / 4 = 191 → c.tfq.cmds = [])
    ∧ (look .off ((sPan .off).dev.panAt 191).vt 7 ≠ .on ∧ look .off ((sPan .ret).dev.panAt 191).vt 7 = .ret
      ∧ look .off ((sPan .on).dev.panAt 191).vt 7 = .on ∧ (sPan .on).dev.regions = [])
    ∧ (targetOf (32 * 0) = .dram 0 ∧ targetOf (32 * 0x2000000000) = .vault 0 0 0) := by
  decide +kernel

/-! ### Far memory -/

/-- Translation tables, the same for both stages: the first GiB is mapped to itself, readable and writable. -/
def tables : Memory :=
  [(0x20000, 0x01), (0x20001, 0x10), (0x20002, 0x02), (0x21000, 0x01), (0x21001, 0x20), (0x21002, 0x02), (0x22000, 0x07)]
/-- An entry of the PASID table that names them. -/
def pasidEntry : BitVec 128 := BitVec.ofNat 128 (1 + 0x20000 + 2 ^ 76 * 0x20)
/-- The page that serves every address of the tests. -/
def pin0 (w : Bool) : Pin := ⟨0, 0, 2 ^ 30, w⟩

/-- A device that has come up: AQI 1 bound for context 3 with PASID 1, AQI 0 for the owner, a region of the host. -/
def aqi1 : Aqi where
  bound := true
  ctx := 3
  pasid := 1
  dies := 1
  ring := 0x1000
  ringN := 64
  evhead := 0
  evtail := 0
  ovf := 0
  waiting := []
  held := []
  mgmt := []
  irqAddr := 0x77
  irqData := 5
  irqMask := false
  irqValid := false
  irqPending := false
  seq := 7
def host1 : Agent := ⟨0, 2, 0, 1⟩
def region0 (base sz : Nat) (owner : Agent) : Region := ⟨0, base, sz, 3, owner, host1, 0, 0, false, [], 1, []⟩
def sDev (f : Device → Device) : State := { base with
  teams := [{ team0 with pasid := 1 }]
  mem := tables
  dev := f { Device.reset with
    stage := 5
    pasids := [(1, pasidEntry)]
    aqis := [(0, { aqi1 with ctx := 0 }), (1, aqi1)]
    regions := [region0 0x100000 18 host1] } }
def dev0 : State := sDev id

/-- A command alone in a queue of the test machine. -/
def cmdIn (q : Nat) (x : Cmd) : State := dev0.onCore fun c => c.setQueue q (queueOf [x])
def fldCmd (st : Stage) (pops todo : List Nat) : Cmd := cmdOf (.fld 3 0x100008 3) st pops todo
def pinned (x : Cmd) : Cmd := { x with pins := [pin0 true] }

/-- The pins that pinning answers, or the kind of its failure. -/
def pinsOf (e : Except Nat (List Pin)) : List Pin × Nat := match e with
  | .ok p => (p, 0)
  | .error k => ([], k)

theorem witness_CommandsRunInTheirQueues_begin :
    (Alone (cmdIn 4 (fldCmd .waiting [] [])) 4 (fldCmd .waiting [] []) ∧ (cmdIn 4 (fldCmd .waiting [] [])).core.qmarks = [])
    ∧ (let s := (cmdIn 4 (fldCmd .waiting [3] [])).onCore fun c => { c with chan := [(3, 1)] }
       Alone s 4 (fldCmd .waiting [3] []) ∧ 0 < s.core.tokens 3 ∧ s.core.qmarks = [] ∧ smapWf 0 s.core.chan = true
        ∧ ∀ p ∈ [4, 5, 6, 7, 8], p ≠ 4 → (s.core.queue p).cmds = [])
    ∧ (let s := cmdIn 4 (fldCmd .popped [] [])
       Alone s 4 (fldCmd .popped [] []) ∧ pinsOf (s.pinAll s.myPasid (fldCmd .popped [] []).op.pageVisits []) = ([pin0 false], 0))
    ∧ (let s := { cmdIn 5 (cmdOf (.fst 0x40000000 3 1) .popped [] []) with fresh := 1 }
       Alone s 5 (cmdOf (.fst 0x40000000 3 1) .popped [] [])
        ∧ pinsOf (s.pinAll s.myPasid (cmdOf (.fst 0x40000000 3 1) .popped [] []).op.pageVisits []) = ([], 3)) := by
  refine ⟨⟨⟨?_, ?_, ?_⟩, ?_⟩, ⟨⟨?_, ?_, ?_⟩, ?_⟩, ⟨⟨?_, ?_, ?_⟩, ?_⟩, ⟨?_, ?_, ?_⟩, ?_⟩ <;> decide +kernel

theorem inDram_of {x : Cmd} {a n : Nat} (h : (List.range n).all (fun i =>
    decide (pinnedDpa x.pins (a + i) = pinnedDpa x.pins a + i) && decide (targetOf (pinnedDpa x.pins a + i) = .dram 0)) = true) :
    inDram x a n := by
  intro i hi
  have := List.all_eq_true.1 h i (List.mem_range.2 hi)
  simp only [Bool.and_eq_true, decide_eq_true_eq] at this
  exact ⟨this.1, 0, this.2⟩

theorem witness_CommandsRunInTheirQueues_access :
    (let x := pinned (fldCmd .begun [] [0])
     x.stage = .begun ∧ x.todo = [0] ∧ (cmdIn 4 x).core.wp = [] ∧ (cmdIn 4 x).farCanonical = true ∧ 0x100008 % 2 ^ 3 = 0
      ∧ Alone (cmdIn 4 x) 4 x ∧ inDram x 0x100008 (2 ^ 3))
    ∧ (let x := pinned (cmdOf (.fst 0x100001 0 9) .begun [] [0])
       Alone (cmdIn 5 x) 5 x ∧ inDram x 0x100001 (2 ^ 0))
    ∧ (let x := pinned (cmdOf (.amo 7 3 0x100008 9) .begun [] [0])
       Alone (cmdIn 5 x) 5 x ∧ inDram x 0x100008 8)
    ∧ (let x := fldCmd .begun [] []
       Alone (cmdIn 4 x) 4 x ∧ (cmdIn 4 x).core.canonical = true ∧ x.bar = none ∧ x.watch = none ∧ x.late = none) := by
  refine ⟨⟨rfl, rfl, rfl, ?_, by decide, ⟨?_, rfl, rfl⟩, inDram_of ?_⟩, ⟨⟨?_, rfl, rfl⟩, inDram_of ?_⟩, ⟨⟨?_, rfl, rfl⟩, inDram_of ?_⟩,
    ⟨?_, rfl, rfl⟩, ?_, rfl, rfl, rfl⟩ <;> decide +kernel

/-- A region of the team's context that splits, its halves that join. -/
def ownIn (op : CmdOp) (st : Stage) : State := cmdIn 8 (cmdOf op st [] [])
def halves (op : CmdOp) : State :=
  { ownIn op .popped with dev := { dev0.dev with regions := [region0 0x100000 17 host1, region0 0x120000 17 host1] } }

theorem witness_OwnershipAndTransformsRun_ownership :
    (Alone (ownIn (.split 0x100012) .waiting) 8 (cmdOf (.split 0x100012) .waiting [] [])
      ∧ (ownIn (.split 0x100012) .waiting).team = some { team0 with pasid := 1 } ∧ (ownIn (.split 0x100012) .waiting).core.canonical = true)
    ∧ (Alone (ownIn (.split 0x100012) .popped) 8 (cmdOf (.split 0x100012) .popped [] []) ∧ roOk 0x100012 = true
      ∧ (ownIn (.split 0x100012) .popped).regionExact 3 (roBase 0x100012) (roSz 0x100012) = some (region0 0x100000 18 host1)
      ∧ (ownIn (.split 0x100012) .popped).homeCount 0 < 131072 ∧ (ownIn (.split 0x100012) .popped).dev.lostDies = [])
    ∧ (Alone (halves (.join 0x100012)) 8 (cmdOf (.join 0x100012) .popped [] [])
      ∧ (halves (.join 0x100012)).regionExact 3 0x100000 17 = some (region0 0x100000 17 host1)
      ∧ (halves (.join 0x100012)).regionExact 3 (0x100000 + 2 ^ (18 - 1)) 17 = some (region0 0x120000 17 host1))
    ∧ (Alone (ownIn (.query 3 0x100012) .popped) 8 (cmdOf (.query 3 0x100012) .popped [] []) ∧ 3 ≠ 0
      ∧ (ownIn (.query 3 0x200010) .popped).regionExact 3 (roBase 0x200010) (roSz 0x200010) = none)
    ∧ (Alone (ownIn (.reclaim 3 0x200010) .popped) 8 (cmdOf (.reclaim 3 0x200010) .popped [] [])
      ∧ (ownIn (.reclaim 3 0x200010) .popped).regionExact 3 (roBase 0x200010) (roSz 0x200010) = none) := by
  refine ⟨⟨⟨?_, rfl, rfl⟩, ?_⟩, ⟨⟨?_, rfl, rfl⟩, ?_⟩, ⟨⟨?_, rfl, rfl⟩, ?_⟩, ⟨⟨?_, rfl, rfl⟩, ?_⟩, ⟨?_, rfl, rfl⟩, ?_⟩ <;> decide +kernel

/-- An unpack of 32 bytes from a slot of one granule. -/
def unpOp : CmdOp := .unp 0x1000 0x100000 (BitVec.ofNat 64 (2 ^ 23 + 24))

/-- Three bytes packed into such a slot, as the engine has read them back. -/
def unpX : Cmd := { cmdOf (.unp 0x1000 0x100000 (BitVec.ofNat 64 (2 ^ 23 + 3))) .begun [] [] with
  got := (List.range 32).zip (buildSlot 32 (imageOf 0 1 (pieces 1 3 [1, 2, 3]))) }

theorem witness_OwnershipAndTransformsRun_transform :
    (let x := cmdOf unpOp .waiting [] []
     Alone (cmdIn 6 x) 6 x ∧ x.op = .unp 0x1000 0x100000 (BitVec.ofNat 64 (2 ^ 23 + 24)) ∧ (cmdIn 6 x).core.canonical = true
      ∧ (cmdIn 6 x).core.qmarks = [])
    ∧ (let x := cmdOf unpOp .popped [] []
       let s := cmdIn 6 x
       Alone s 6 x ∧ s.czBusy 0 = false ∧ s.czNext 0 = some (s.core.place % 4)
        ∧ pinsOf (({ s with dev := (s.onPan 0 fun n => { n with cz := .on, last := s.core.place % 4, idle := s.cycle }).dev } : State).pinAll
          s.myPasid x.op.pageVisits []) = ([pin0 false], 0))
    ∧ (Alone (cmdIn 6 unpX) 6 unpX ∧ unpX.stage = .begun ∧ unpX.todo = [] ∧ (cmdIn 6 unpX).core.wp = []
        ∧ 60 + (16 + (32 + 63) / 64 + (3 * 1 + 63) / 64) ≤ (cmdIn 6 unpX).cycle
        ∧ (unpackSlot 0 1 3 ((List.range 32).map fun i => (unpX.have? i).getD 0)).2 = []) := by
  refine ⟨⟨⟨?_, rfl, rfl⟩, ?_⟩, ⟨⟨?_, rfl, rfl⟩, ?_⟩, ⟨?_, rfl, rfl⟩, ?_⟩ <;> decide +kernel

/-! ### Teams and the loom -/

/-- A team whose one core is done, and one with a fatal trap whose core has stopped. -/
def sDone : State := dev0.onCore fun c => { c with isDone := true }
def fatal0 : FatalRec := ⟨3, 0, 3, 0, 0, 99⟩
def sFatal : State := { dev0.onCore (fun c => { c with stopped := true }) with
  teams := [{ team0 with fatal := some fatal0 }], dev := { dev0.dev with launches := [launch0] } }

theorem witness_TeamsEndAndArePreempted_end :
    (sDone.teamAt ⟨1, 0⟩ = some { team0 with pasid := 1 } ∧ (sDone.coresOf ⟨1, 0⟩).length = 2 ^ 0
      ∧ ∀ c ∈ sDone.coresOf ⟨1, 0⟩, c.isDone = true ∧ c.quiet = true)
    ∧ (sFatal.teamAt ⟨1, 0⟩ = some { team0 with fatal := some fatal0 }
      ∧ (∀ c ∈ sFatal.coresOf ⟨1, 0⟩, (c.stopped = true ∨ c.isDone = true) ∧ c.pend = [] ∧ c.lsPend = [] ∧ c.counts = [])
      ∧ look 0 sFatal.dev.dumpRegs 3 = 0 ∧ sFatal.launchAt 1 = some launch0) := by
  decide +kernel

/-- Two launches on one die of one core: the running one gives way to one of higher priority. -/
def one (tag prio : Nat) (started : List (Nat × Nat)) : Launch := { launch0 with
  ltag := tag, node := tag, prio := prio, levels := [1], spatial := [1], teams := 1, cohorts := [[0]], started := started }
def nodeFor (id kind ltag : Nat) (body : Nat) (begun : Bool) : Node where
  aqi := 1
  id := id
  seq := id
  packet := BitVec.ofNat 512 (2 ^ 256 * body + 2 ^ 96 * id + kind)
  deps := 0
  ready := some 50
  begun := begun
  finished := false
  status := 0
  detail := 0
  nentry := 0
  ltag := ltag
  work := []
def sGive : State := { dev0 with dev := { dev0.dev with
  launches := [one 1 0 [(0, 40)], one 2 1 []], nodes := [nodeFor 1 0 1 0 true, nodeFor 2 0 2 0 true] } }
/-- The team that drains, and the same saved. -/
def sDrain : State := { sGive.onCore (fun c => { c with stopped := true }) with teams := [{ team0 with status := .draining }] }
def sSaved : State := { dev0 with
  core := Core.reset 0
  teams := [{ team0 with status := .preempted, image := [core0] }]
  dev := { dev0.dev with launches := [one 1 0 [(0, 40)]] } }

theorem witness_TeamsEndAndArePreempted_preempt :
    (sGive.launchAt 1 = some (one 1 0 [(0, 40)]) ∧ sGive.cohortTeams 1 0 .resident ≠ []
      ∧ (∀ tm ∈ sGive.cohortTeams 1 0 .resident, sGive.yields tm = true) ∧ 0 < (one 1 0 [(0, 40)]).cohorts.length
      ∧ sGive.wants = [⟨one 2 1 [], [0], 50, 2⟩] ∧ sGive.callsFor ⟨one 2 1 [], [0], 50, 2⟩ = true
      ∧ sGive.victims (sGive.diesOf (one 2 1 [])) 1 = [(one 1 0 [(0, 40)], 0, 40)]
      ∧ victimBefore (one 1 0 [(0, 40)], 0, 40) (one 1 0 [(0, 40)], 0, 40) = false)
    ∧ (sDrain.teamAt ⟨1, 0⟩ = some { team0 with status := .draining } ∧ sDrain.coresOf ⟨1, 0⟩ = [sDrain.core] ∧ sDrain.core.rank = 0
      ∧ sDrain.drained sDrain.core = true ∧ (∀ q ∈ [4, 5, 6, 7, 8], (sDrain.core.queue q).cmds = []) ∧ sDrain.others = [])
    ∧ (sSaved.cohortTeams 1 0 .preempted = [{ team0 with status := .preempted, image := [core0] }] ∧ sSaved.cohortTeams 1 0 .draining = []
      ∧ sSaved.wants = [] ∧ sSaved.launchAt 1 = some (one 1 0 [(0, 40)]) ∧ core0.rank = 0
      ∧ (one 1 0 [(0, 40)]).place ((one 1 0 [(0, 40)]).cohorts.getD 0 []) (fun i => 0 == i)
          (sSaved.avail (sSaved.diesOf (one 1 0 [(0, 40)])) fun _ => false) = some [(0, 0, [0])]) := by
  decide +kernel

/-- A flit to device 9 that could not be sent for long; an invalidation of AQI 1 under way. -/
def mgmt0 (aqi : Nat) (a b c d : Word) : Mgmt :=
  ⟨aqi, some 1, 64, BitVec.ofNat 512 (2 ^ 480 * 0xABCD + 2 ^ 472 + 2 ^ 192 * a.toNat + 2 ^ 128 * b.toNat + 2 ^ 64 * c.toNat + d.toNat)⟩
def sLoom : State := { (sDev fun d => { d with
  weftHeld := [(0, Flit.of 9 0 0 0 0 0 [])]
  invals := [⟨1, 0xABCD, 1, 0x200000, 0x1000⟩]
  aqis := [(0, { aqi1 with ctx := 0 }), (1, { aqi1 with mgmt := [(3, mgmt0 1 0 0 0 0)] })] }) with cycle := 80000 }

theorem witness_LoomSteps :
    (23 < 24 ∧ 23 ∉ sLoom.dev.lostDies ∧ sLoom.dev.launches = [] ∧ 0 ∉ sLoom.dev.lostDies
      ∧ ∃ c ∈ sLoom.cores, c.team = some ⟨1, 0⟩ ∧ c.place / 32 = 0)
    ∧ (191 < 192 ∧ 9 ≠ sLoom.dev.weftId ∧ 9 ∉ sLoom.dev.unreachable ∧ sLoom.unanswered 9 = true)
    ∧ (sLoom.dev.regions.find? (fun r => r.ctx == 3 && r.base == 0x100000) = some (region0 0x100000 18 host1)
      ∧ (region0 0x100000 18 host1).lentOut = false ∧ sLoom.pinnedIn 1 0x100000 (2 ^ 18) = false)
    ∧ ((800 ≤ 800 ∧ 1900 ≤ 1900) ∧ smapWf 1900 sLoom.dev.mhz = true)
    ∧ (sLoom.dev.invals = [⟨1, 0xABCD, 1, 0x200000, 0x1000⟩] ∧ sLoom.pinnedIn 1 0x200000 0x1000 = false
      ∧ (1, sLoom.dev.aqiAt 1) ∈ sLoom.dev.aqis ∧ (sLoom.dev.aqiAt 1).bound = true
      ∧ (sLoom.dev.aqiAt 1).mgmt = [(3, mgmt0 1 0 0 0 0)] ∧ roomFor (sLoom.dev.aqiAt 1) ∧ smapWf unboundAqi sLoom.dev.aqis = true) := by
  decide +kernel


/-! ### Translation of a test machine's far memory: what the kernel would take long to compute -/

/-- A machine whose tables for PASID 1 map the first GiB to itself. -/
structure Flat (s : State) : Prop where
  entry : look 0 s.dev.pasids 1 = pasidEntry
  tlb : s.dev.tlb = []
  leaves : s.dev.leaves = []
  vague : s.dev.vague = []
  dies : s.dev.lostDies = []
  homed : s.dev.homed = []
  t0 : leNat (s.mem.readAll 0x20000 8) = 0x21001
  t1 : leNat (s.mem.readAll 0x21000 8) = 0x22001
  t2 : leNat (s.mem.readAll 0x22000 8) = 7

theorem localDpa_low (s : State) (a : Nat) (h : a < 2 ^ 51) : s.localDpa a = a := by
  have : bitOf a 51 = false := by unfold bitOf; rw [Nat.div_eq_of_lt h]; rfl
  simp [State.localDpa, this]

theorem targetOf_low (a : Nat) (h : a < 2 ^ 30) : targetOf a = .dram 0 := by
  have e : bitOf a 51 = false := by simp [bitOf]; omega
  have q : a / 0x1000000000 = 0 := by omega
  have r : a % 0x1000000000 = a := by omega
  simp only [targetOf, e, q, r]
  have : ¬ a ≥ 0x80000000000 := by omega
  have : ¬ a ≥ 0x40000000000 := by omega
  have : a < 0x800000000 := by omega
  simp [*]

theorem walk_flat {read : Nat → Except Nat (Nat × Bool)} (kV kW : Nat) (w : Bool) (a : Nat) (h : a < 2 ^ 30)
    (h0 : read 0x20000 = .ok (0x21001, false))
    (h1 : read 0x21000 = .ok (0x22001, false)) (h2 : read 0x22000 = .ok (7, false)) :
    walk read kV kW w a false walkLevels 0x20000 = .ok ((0, 2 ^ 30), false) := by
  have i48 : a / 2 ^ 48 % 256 = 0 := by omega
  have i39 : a / 2 ^ 39 % 512 = 0 := by omega
  have i30 : a / 2 ^ 30 % 512 = 0 := by omega
  have i30' : a / 1073741824 % 512 = 0 := by omega
  unfold walkLevels
  rw [walk]; simp only [i48, Nat.mul_zero, Nat.add_zero, h0]
  rw [walk]; simp only [bitOf, bits, i39]
  simp [h1, bitOf, bits, walk, i30, i30', h2]

theorem flat_entry {s : State} (x y : Nat) (hx : x < 2 ^ 30) (hy : leNat (s.mem.readAll x 8) = y) :
    s.tableEntry (s.localDpa x) = y := by
  rw [localDpa_low _ _ (by omega), State.tableEntry, targetOf_low _ hx]; exact hy

theorem flat_unbacked {s : State} (f : Flat s) (a n : Nat) : s.unbacked a n = true := by
  simp [State.unbacked, f.homed]

theorem flat_host {s : State} (f : Flat s) (w : Bool) (a : Nat) (h : a < 2 ^ 30) :
    s.hostStage 0x20000 w a = .ok ((0, 2 ^ 30), false) := by
  simp only [State.hostStage, f.leaves, List.find?_nil, State.hostEntry, flat_unbacked f, if_true]
  rw [walk_flat _ _ _ _ h] <;> simp only [flat_entry _ _ (by omega) f.t0, flat_entry _ _ (by omega) f.t1, flat_entry _ _ (by omega) f.t2]

theorem inPage_low (a : Nat) (h : a < 2 ^ 30) : inPage (0, 2 ^ 30) a = a := by
  unfold inPage; rw [Nat.zero_add, Nat.mod_eq_of_lt h]

theorem flat_ctx {s : State} (f : Flat s) (w : Bool) (a : Nat) (h : a < 2 ^ 30) : s.ctxStage pasidEntry.toNat w a = .ok ((0, 2 ^ 30), false) := by
  have hr : hrootOf pasidEntry.toNat = 0x20000 := by decide +kernel
  have cr : crootOf pasidEntry.toNat = 0x20000 := by decide +kernel
  simp only [State.ctxStage, hr, cr]
  apply walk_flat 3 4 w a h
  · simp only [flat_host f false 0x20000 (by omega), inPage_low 0x20000 (by omega), flat_entry _ _ (by omega) f.t0]
  · simp only [flat_host f false 0x21000 (by omega), inPage_low 0x21000 (by omega), flat_entry _ _ (by omega) f.t1]
  · simp only [flat_host f false 0x22000 (by omega), inPage_low 0x22000 (by omega), flat_entry _ _ (by omega) f.t2]

theorem flat_path {s : State} (f : Flat s) (va a : Nat) (h : a < 2 ^ 30) : s.pathLost 1 va a = false := by
  simp [State.pathLost, targetOf_low a h, f.dies]

theorem flat_walk {s : State} (f : Flat s) (w : Bool) (a : Nat) (h : a < 2 ^ 30) : s.walkVa 1 a w = .ok ⟨0, 0, 2 ^ 30, w⟩ := by
  have hr : hrootOf pasidEntry.toNat = 0x20000 := by decide +kernel
  have v0 : bitOf pasidEntry.toNat 0 = true := by decide +kernel
  have v1 : bitOf pasidEntry.toNat 1 = false := by decide +kernel
  have ge : ¬ a ≥ 2 ^ 56 := by omega
  unfold State.walkVa
  simp only [f.entry, hr, v0, v1, ge, if_false, Bool.not_true, Bool.false_eq_true, flat_ctx f w a h, inPage_low a h, flat_host f w a h,
    localDpa_low s a (by omega), targetOf_low a h, flat_path f a a h]
  simp
  omega

theorem flat_dpa {s : State} (f : Flat s) (a : Nat) (h : a < 2 ^ 30) : s.dpaAt? 1 a = some a := by
  simp [State.dpaAt?, State.xlate, f.tlb, flat_walk f false a h]

theorem flat_peek {s : State} (f : Flat s) (a n : Nat) (h : a + n ≤ 2 ^ 30) : s.peek 1 a n = s.mem.readAll a n := by
  unfold State.peek Memory.readAll
  apply List.map_congr_left
  intro i hi
  have : a + i < 2 ^ 30 := by have := List.mem_range.1 hi; omega
  simp [flat_dpa f _ this, targetOf_low _ this, State.vagueAt, f.vague]

theorem flat_xlate {s : State} (f : Flat s) (a n : Nat) (w : Bool) (h : a + n ≤ 2 ^ 30) : s.xlateFail 1 a n w = none := by
  unfold State.xlateFail
  rw [List.findSome?_eq_none_iff]
  intro o ho
  have : a + o < 2 ^ 30 := by
    simp only [pageOffs, List.mem_filter, decide_eq_true_eq] at ho
    omega
  simp [State.xlate, f.tlb, flat_walk f w _ this]

/-! ### Task graphs and launches -/

/-- A packet by kind, id and body. -/
def packet (kind id body : Nat) : BitVec 512 := BitVec.ofNat 512 (2 ^ 256 * body + 2 ^ 96 * id + kind)
/-- A machine with nodes. -/
def sNodes (ns : List Node) (owner : Agent) : State := sDev fun d => { d with
  nodes := ns, regions := [region0 0x100000 18 owner], pans := [(1, ⟨[], .on, 0, 0, none⟩)] }

theorem witness_TaskGraphNodesRun_submissions :
    (1 < 4096 ∧ (dev0.dev.aqiAt 1).bound = true ∧ 5 ≤ dev0.dev.stage ∧ (dev0.dev.aqiAt 1).waiting.length < 256
      ∧ dev0.pasidOk 1 (some (dev0.dev.aqiAt 1).pasid) = true)
    ∧ ((nodeOfPacket dev0 1 (packet 3 9 (2 ^ 192 * 0x100000))).wellFormed = true ∧ dev0.nodeOf 1 9 = none)
    ∧ (nodeOfPacket dev0 1 (packet 5 9 0)).wellFormed = false
    ∧ ((sNodes [nodeFor 9 3 0 0 false] host1).nodeOf 1 9 ≠ none ∧ 63 ≠ 64) := by
  decide +kernel

def transfer0 : Node := nodeFor 9 1 0 (2 ^ 192 * 0x100000 + 2 ^ 128 * 0x100040 + 2 ^ 96 * 4) false
def pack0 : Node := nodeFor 9 2 0 (2 ^ 192 * 0x100000 + 2 ^ 128 * 0x100040 + 2 ^ 64 * (2 ^ 23 + 3)) false
def signal0 : Node := nodeFor 9 3 0 (2 ^ 192 * 0x100008 + 2 ^ 128 * 77) false
def wait0 (v : Nat) : Node := nodeFor 9 4 0 (2 ^ 192 * 0x100008 + 2 ^ 128 * v) false
def over0 : Node := { nodeFor 9 4 0 0 true with finished := true }
/-- The agent of a launch, which holds the region instead. -/
def loom1 : Agent := ⟨0, 1, 1, 0⟩

theorem witness_TaskGraphNodesRun_transfer :
    (let s := sNodes [transfer0] host1
     s.nodeAt 0 = some transfer0 ∧ s.nodeOf 1 9 = some transfer0 ∧ transfer0.kind = 1 ∧ s.mayStart transfer0 = true
      ∧ s.nodeRegions transfer0 [transfer0.src, transfer0.dst] = some [region0 0x100000 18 host1]
      ∧ covers [region0 0x100000 18 host1] transfer0.src transfer0.count = true ∧ covers [region0 0x100000 18 host1] transfer0.dst transfer0.count = true
      ∧ s.xlateFail 1 transfer0.src transfer0.count false = none ∧ s.xlateFail 1 transfer0.dst transfer0.count true = none ∧ s.farCanonical = true
      ∧ (List.range 4).all (fun j => s.dpaOf 1 (transfer0.dst + j) == 0x100040 + j && s.dpaOf 1 (transfer0.src + j) == 0x100000 + j) = true)
    ∧ (sNodes [transfer0] loom1).nodeRegions transfer0 [transfer0.src, transfer0.dst] = none := by
  decide +kernel

theorem witness_TaskGraphNodesRun_others :
    (let s := sNodes [pack0] host1
     pack0.kind = 2 ∧ s.mayStart pack0 = true ∧ pack0.unpacks = false ∧ s.idlePans pack0 ≠ []
      ∧ s.nodeRegions pack0 [pack0.src, pack0.dst] = some [region0 0x100000 18 host1] ∧ czN pack0.ctl ≠ 0 ∧ czS pack0.ctl ≠ 0
      ∧ pack0.dst % 32 = 0 ∧ s.xlateFail 1 pack0.dst (czS pack0.ctl) true = none
      ∧ s.xlateFail 1 pack0.src (czN pack0.ctl * 1) false = none
      ∧ (imageOf 0 1 (pieces 1 3 (s.peek 1 pack0.src 3))).length ≤ czC pack0.ctl)
    ∧ (let s := sNodes [signal0] host1
       signal0.kind = 3 ∧ s.mayStart signal0 = true ∧ s.hostWhole 3 1 signal0.addr 8 = true ∧ s.xlateFail 1 signal0.addr 8 true = none
        ∧ (sNodes [signal0] loom1).hostWhole 3 1 signal0.addr 8 = false)
    ∧ (let s := sNodes [wait0 1] host1
       (wait0 1).kind = 4 ∧ (wait0 1).finished = false ∧ s.mayStart (wait0 1) = true
        ∧ s.regionOf 3 (wait0 1).addr = some (region0 0x100000 18 host1) ∧ s.xlateFail 1 (wait0 1).addr 8 false = none
        ∧ leNat (s.peek 1 (wait0 1).addr 8) < (wait0 1).value ∧ (wait0 0).value ≤ leNat (s.peek 1 (wait0 0).addr 8))
    ∧ (over0.finished = true ∧ over0.crec = 0 ∧ over0.nsucc = 0 ∧ over0.id < 2 ^ 32) := by
  decide +kernel

/-- A launch descriptor at 0x101000 (one spatial level of a count, a watchdog, its code at 0x101040), and the header of a
code object with empty sections whose contract is the device's own. -/
def desc0 (count : Nat) : Nat := 2 ^ 448 * 0x101040 + 2 ^ 224 * 9 + 2 ^ 23 + count
def head0 : Nat := 2 ^ 128 + 2 ^ 160 * 0x30 + ((List.range 16).map fun n => 2 ^ (256 + 16 * n) * ownLatency n).sum
def launchNode : Node := nodeFor 9 0 0 (2 ^ 192 * 0x101000) false
def sLaunch (count : Nat) (dies : Nat) : State :=
  let s := sNodes [launchNode] host1
  { s with
    core := Core.reset 0
    teams := []
    mem := (s.mem.writeAll 0x101000 (toBytes 64 (desc0 count))).writeAll 0x101040 (toBytes 64 head0)
    dev := { s.dev with aqis := [(0, { aqi1 with ctx := 0 }), (1, { aqi1 with dies := dies })] } }

theorem newTag_zero {s : State} (h : s.dev.launches = []) (n : s.dev.nextTag = 0) : s.newTag = 0 := by
  have e : (List.range 0x10000) = 0 :: List.range' 1 0xFFFF := by rw [List.range_eq_range']; rfl
  unfold State.newTag
  rw [e, n, List.map_cons, List.find?_cons_of_pos]
  · rfl
  · simp [State.launchAt, h]

theorem flat_launch (c dies : Nat) (hc : c = 0 ∨ c = 1) (hd : dies = 0 ∨ dies = 1) : Flat (sLaunch c dies) := by
  rcases hc with rfl | rfl <;> rcases hd with rfl | rfl <;>
    exact ⟨by decide +kernel, rfl, rfl, rfl, rfl, rfl, by decide +kernel, by decide +kernel, by decide +kernel⟩

theorem plan_bytes (c dies : Nat) (hc : c = 0 ∨ c = 1) (hd : dies = 0 ∨ dies = 1) :
    ((sLaunch c dies).peek 1 0x101000 64 = toBytes 64 (desc0 c) ∧ (sLaunch c dies).peek 1 0x101040 64 = toBytes 64 head0)
    ∧ (sLaunch c dies).xlateFail 1 0x101000 64 false = none ∧ (sLaunch c dies).xlateFail 1 0x101040 64 false = none := by
  have f := flat_launch c dies hc hd
  refine ⟨⟨?_, ?_⟩, flat_xlate f _ _ _ (by omega), flat_xlate f _ _ _ (by omega)⟩ <;> rw [flat_peek f _ _ (by omega)] <;>
    (rcases hc with rfl | rfl <;> rcases hd with rfl | rfl <;> decide +kernel)

/-- The launch of a descriptor without regions, barriers and arguments. -/
def planned (s : State) (n : Node) (tag d : Nat) (code : Code) : Launch :=
  let q := s.dev.aqiAt n.aqi
  let sp := spatialLevels d
  { ltag := tag, aqi := n.aqi, node := n.id, ctx := q.ctx, pasid := q.pasid, prio := n.prio, rerun := n.rerun
    pack := n.pack, gw := bits d 199 198, wdog := bits d 255 224, levels := descLevels d, spatial := sp.map (·.2.2)
    dieLevels := ((List.range sp.length).zip sp).filterMap fun e => if e.2.2.1 = 3 then some e.1 else none
    teams := teamCount sp, regions := [], entries := [], barriers := [], arg := [], argLs := 64 * bits d 197 183
    sections := code.sections, contract := code.contract, cohorts := cohortsOf (teamCount sp) [], started := [], dump := none
    nrerun := 0, rev := code.rev, resident := 0, mhzSum := 0, slow := [], blocks := code.blocks }

theorem plan_zero {s : State} {n : Node} {bs : List Byte} {d : Nat} (tag : Nat)
    (h0 : s.readFor (s.dev.aqiAt n.aqi).pasid n.addr 64 = .ok bs) (hd : leNat bs = d) (c1 : descFieldsOk d = true) (c2 : nestOk d = true)
    (z : ((presentLevels d).any fun e => e.2.2 == 0) = true) :
    ∃ l, s.launchPlan n tag = .ok l ∧ l.cohorts = [] := by
  simp [State.launchPlan, h0, hd, c1, c2, z, check, bind, Except.bind]

theorem plan_at {s : State} {n : Node} {bs : List Byte} {d : Nat} {code : Code} (tag : Nat)
    (h0 : s.readFor (s.dev.aqiAt n.aqi).pasid n.addr 64 = .ok bs) (hd : leNat bs = d) (c1 : descFieldsOk d = true) (c2 : nestOk d = true)
    (z : ((presentLevels d).any fun e => e.2.2 == 0) = false) (e0 : bits d 223 215 = 0) (b0 : bits d 214 206 = 0)
    (l0 : bits d 205 200 = 0) (g0 : 64 * bits d 197 183 ≤ 0x200000) (r0 : ∀ a, s.readFor (s.dev.aqiAt n.aqi).pasid a 0 = .ok [])
    (hc : s.readCode (s.dev.aqiAt n.aqi).pasid (bits d 511 448) = .ok code)
    (ag : s.agentMay (s.dev.aqiAt n.aqi).ctx (s.hostAgent n.aqi) (bits d 319 256) 0 .read = true) :
    s.launchPlan n tag =
      if ((cohortsOf (teamCount (spatialLevels d)) []).all fun c => decide (c.length * 2 ^ bits d 199 198 ≤ 32 * (s.partition (s.dev.aqiAt n.aqi).dies).length)) = true
      then .ok (planned s n tag d code) else .error 6 := by
  have en : entries16 [] = [] := rfl
  by_cases k : ((cohortsOf (teamCount (spatialLevels d)) []).all fun c => decide (c.length * 2 ^ bits d 199 198 ≤ 32 * (s.partition (s.dev.aqiAt n.aqi).dies).length)) = true
  all_goals
    simp only [State.launchPlan, h0, hd, c1, c2, z, check, bind, Except.bind, if_true, if_false, Bool.false_eq_true, e0, b0, l0, r0, en, hc, ag,
      Nat.mul_zero, Nat.add_zero, List.all_nil, disjointRegions, Bool.and_self, g0, decide_true, k]
  rfl

theorem wants_plan {s : State} {n : Node} {v : Want} (hn : s.dev.nodes = [n]) (nb : n.begun = false)
    (h : ∀ l, s.launchPlan n 0x10000 = .ok l → l.aqi = n.aqi) (hv : v ∈ s.wants) : v.seq = n.seq ∧ v.launch.aqi = n.aqi := by
  simp only [State.wants, hn, List.mem_filterMap, List.mem_singleton, exists_eq_left, nb] at hv
  split at hv
  · simp at hv
  · simp only [Bool.false_eq_true, if_false] at hv
    split at hv
    · split at hv
      · rename_i l e
        split at hv
        · simp only [Option.map_eq_some_iff] at hv
          obtain ⟨c, -, rfl⟩ := hv
          exact ⟨rfl, h l e⟩
        · simp at hv
      · simp at hv
    · simp at hv

/-- The code object that the launch names. -/
def code0 : Code := (loadObject (toBytes 64 head0)).getD ⟨[], [], 0, []⟩

theorem plan_reads (c dies : Nat) (hc : c = 0 ∨ c = 1) (hd : dies = 0 ∨ dies = 1) :
    (sLaunch c dies).readFor ((sLaunch c dies).dev.aqiAt launchNode.aqi).pasid launchNode.addr 64 = .ok (toBytes 64 (desc0 c))
    ∧ (∀ a, (sLaunch c dies).readFor ((sLaunch c dies).dev.aqiAt launchNode.aqi).pasid a 0 = .ok [])
    ∧ (sLaunch c dies).readCode ((sLaunch c dies).dev.aqiAt launchNode.aqi).pasid 0x101040 = .ok code0 := by
  obtain ⟨⟨p1, p2⟩, x1, x2⟩ := plan_bytes c dies hc hd
  have a : launchNode.addr = 0x101000 := by decide +kernel
  have q : ((sLaunch c dies).dev.aqiAt launchNode.aqi).pasid = 1 := rfl
  have n : 64 * bits (leNat (toBytes 64 head0)) 159 128 = 64 := by decide +kernel
  have k : loadObject (toBytes 64 head0) = some code0 := by
    have i : (loadObject (toBytes 64 head0)).isSome = true := by decide +kernel
    obtain ⟨code, i⟩ := Option.isSome_iff_exists.1 i
    rw [code0, i]; rfl
  refine ⟨?_, fun b => ?_, ?_⟩
  · rw [q, a, State.readFor, x1, p1]; rfl
  · simp [State.readFor, State.xlateFail, pageOffs, State.peek]
  · rw [q, State.readCode]
    simp only [x2, p2, n, k, check, bind, Except.bind, Option.isNone_none, if_true]

theorem plan_launch (c dies : Nat) (hc : c = 0 ∨ c = 1) (hd : dies = 0 ∨ dies = 1) :
    (sLaunch c dies).newTag = 0 ∧ leNat (toBytes 64 (desc0 c)) = desc0 c ∧ descFieldsOk (desc0 c) = true ∧ nestOk (desc0 c) = true
    ∧ (sLaunch c dies).agentMay ((sLaunch c dies).dev.aqiAt launchNode.aqi).ctx ((sLaunch c dies).hostAgent launchNode.aqi)
        (bits (desc0 c) 319 256) 0 .read = true := by
  refine ⟨newTag_zero rfl rfl, ?_⟩
  rcases hc with rfl | rfl <;> rcases hd with rfl | rfl <;> decide +kernel

theorem plan_one (dies tag : Nat) (hd : dies = 0 ∨ dies = 1) : (sLaunch 1 dies).launchPlan launchNode tag =
      if dies = 1 then .ok (planned (sLaunch 1 dies) launchNode tag (desc0 1) code0) else .error 6 := by
  obtain ⟨r1, r0, rc⟩ := plan_reads 1 dies (.inr rfl) hd
  obtain ⟨-, e, f, g, ag⟩ := plan_launch 1 dies (.inr rfl) hd
  have b : 0x101040 = bits (desc0 1) 511 448 := by decide +kernel
  rw [plan_at tag r1 e f g (by decide +kernel) (by decide +kernel) (by decide +kernel) (by decide +kernel) (by decide +kernel) r0
    (b ▸ rc) ag]
  rcases hd with rfl | rfl
  · rw [if_neg (by decide +kernel), if_neg (by decide)]
  · rw [if_pos (by decide +kernel), if_pos rfl]

theorem witness_LaunchesAndCohortsStart_plans :
    ((sLaunch 1 1).nodeAt 0 = some launchNode ∧ (sLaunch 1 1).nodeOf 1 9 = some launchNode ∧ launchNode.kind = 0
      ∧ (sLaunch 1 1).mayStart launchNode = true)
    ∧ (sLaunch 1 0).launchPlan launchNode (sLaunch 1 0).newTag = .error 6
    ∧ (∃ l, (sLaunch 0 1).launchPlan launchNode (sLaunch 0 1).newTag = .ok l ∧ l.nextCohort = none)
    ∧ ∃ l, (sLaunch 1 1).launchPlan launchNode (sLaunch 1 1).newTag = .ok l ∧ l.nextCohort = some (0, [0])
      ∧ (sLaunch 1 1).firstInLine ⟨l, [0], 50, 9⟩ = true ∧ (sLaunch 1 1).preemptedAhead ((sLaunch 1 1).diesOf l) l.prio = false
      ∧ ((sLaunch 1 1).fit ⟨l, [0], 50, 9⟩ fun _ => false).isSome = true ∧ (sLaunch 1 1).regionsFree l = true := by
  refine ⟨by decide +kernel, ?_, ?_, ?_⟩
  · exact plan_one 0 _ (.inl rfl)
  · obtain ⟨r1, -⟩ := plan_reads 0 1 (.inl rfl) (.inr rfl)
    obtain ⟨-, e, f, g, -⟩ := plan_launch 0 1 (.inl rfl) (.inr rfl)
    obtain ⟨l, h, c⟩ := plan_zero (sLaunch 0 1).newTag r1 e f g (by decide +kernel)
    exact ⟨l, h, by simp [Launch.nextCohort, c]⟩
  · have h (tag : Nat) := plan_one 1 tag (.inr rfl)
    have t := (plan_launch 1 1 (.inr rfl) (.inr rfl)).1
    refine ⟨_, h _, by rw [t]; decide +kernel, ?_, by rw [t]; decide +kernel, by rw [t]; decide +kernel, rfl⟩
    have z : launchNode.seq = 9 := rfl
    have y : launchNode.aqi = (planned (sLaunch 1 1) launchNode (sLaunch 1 1).newTag (desc0 1) code0).aqi := rfl
    have p (v : Want) (hv : v ∈ (sLaunch 1 1).wants) :=
      wants_plan (n := launchNode) rfl rfl (fun l e => by rw [h] at e; cases e; rfl) hv
    simp only [State.firstInLine, State.offered, Bool.and_eq_true, List.all_eq_true]
    refine ⟨fun v hv => ?_, fun v hv => ?_⟩
    · simp [(p v hv).1, z]
    · rw [(p v hv).2, y]
      simp

/-- A launch that has begun, whose one team waits for the one core. -/
def sCohort : State := { dev0 with
  core := Core.reset 0
  teams := [{ team0 with status := .waiting }]
  dev := { dev0.dev with launches := [one 1 0 []], nodes := [nodeFor 1 0 1 0 true] } }

theorem witness_LaunchesAndCohortsStart_cohort :
    sCohort.launchAt 1 = some (one 1 0 []) ∧ (one 1 0 []).nextCohort = some (0, [0]) ∧ sCohort.nodeOf 1 1 = some (nodeFor 1 0 1 0 true)
    ∧ sCohort.firstInLine ⟨one 1 0 [], [0], 50, 1⟩ = true ∧ sCohort.preemptedAhead (sCohort.diesOf (one 1 0 [])) 0 = false
    ∧ (sCohort.fit ⟨one 1 0 [], [0], 50, 1⟩ fun _ => false) = some [(0, 0, [0])] ∧ sCohort.teamAt ⟨1, 0⟩ ≠ none
    ∧ ∃ c ∈ sCohort.cores, c.place = 4 * 0 + 0 := by
  decide +kernel

/-! ### The host -/

/-- Window 7 belongs to AQI 1 and begins at 0x100000. -/
def sWin (owner : Agent) : State := sDev fun d => { d with hdm := [(7, (2, 0x100000))], regions := [region0 0x100000 18 owner] }
/-- An event that waits; messages enabled, masked or off. -/
def sEvt (valid mask : Bool) (head tail : Nat) : State := sDev fun d => { d with
  aqis := [(1, { aqi1 with waiting := [5], irqValid := valid, irqMask := mask, evhead := head, evtail := tail })] }
/-- The device-wide dump has a region of context 0. -/
def sDump : State := sDev fun d => { d with devDump := some 0x100012, regions := [{ region0 0x100000 18 ⟨0, 2, 0, 0⟩ with ctx := 0 }] }

theorem witness_HostAccessesAndEvents :
    (7 < 8 ∧ 2 ^ 40 - 1 < 2 ^ 40 ∧ look (0, 0) (sWin host1).dev.hdm 7 = (1 + 1, 0x100000)
      ∧ (sWin host1).agentMay 3 ((sWin host1).hostAgent 1) (0x100000 + 0x3FFFF / 64 * 64) 64 .write = true
      ∧ (sWin host1).agentMay 3 ((sWin host1).hostAgent 1) 0x100000 64 .read = true
      ∧ (sWin host1).xlateFail 1 0x100000 64 true = none ∧ (sWin host1).xlateFail 1 0x100000 64 false = none
      ∧ (sWin loom1).agentMay 3 ((sWin loom1).hostAgent 1) 0x100000 64 .read = false
      ∧ (sWin loom1).agentMay 3 ((sWin loom1).hostAgent 1) 0x100000 64 .write = false)
    ∧ (smapWf unboundAqi (sEvt true false 0 0).dev.aqis = true ∧ ((sEvt true false 0 0).dev.aqiAt 1).bound = true
      ∧ ((sEvt true false 0 0).dev.aqiAt 1).waiting = 5 :: [] ∧ (62 + 2 ^ 32 - (2 ^ 32 - 1)) % 2 ^ 32 < ((sEvt true false 62 (2 ^ 32 - 1)).dev.aqiAt 1).ringN
      ∧ ((sEvt true true 0 0).dev.aqiAt 1).irqMask = true ∧ ((sEvt false false 0 0).dev.aqiAt 1).irqValid = false)
    ∧ (dev0.dev.devDump = none ∧ sDump.dev.devDump = some 0x100012 ∧ (sDump.regionExact 0 (roBase 0x100012) (roSz 0x100012)).isSome = true
      ∧ sDump.hostWhole 0 0 (roBase 0x100012) (2 ^ roSz 0x100012) = true
      ∧ sDump.xlateFail (sDump.dev.aqiAt 0).pasid (roBase 0x100012) (2 ^ roSz 0x100012) true = none ∧ sDump.farCanonical = true) := by
  decide +kernel

theorem arrives1 : Arrives dev0 (mgmt0 1 0 0 0 0) := by
  refine ⟨?_, ?_, ?_, ?_, ?_, ?_, ?_, ?_⟩ <;> decide +kernel

/-- A pre-empted team's core that was exported, and a team that waits for an image. -/
def bytes0 : List Byte := toBytes 64 (2 ^ 480)
def sImport : State :=
  let s := sDev fun d => { d with launches := [one 1 0 []], exports := [(bytes0, core0, team0)] }
  { s with teams := [{ team0 with status := .waiting }], mem := s.mem.writeAll 0x100000 bytes0 }
def coreOff : Core := { core0 with dom := [] }
def teamOut : Team := { team0 with status := .preempted, image := [coreOff] }
def sExport : State := { dev0 with teams := [teamOut], dev := { dev0.dev with regions := [region0 0x100000 20 host1] } }

theorem flat_import : Flat sImport := by
  refine ⟨?_, rfl, rfl, rfl, rfl, rfl, ?_, ?_, ?_⟩ <;> decide +kernel
theorem flat_export : Flat sExport := by
  refine ⟨?_, rfl, rfl, rfl, rfl, rfl, ?_, ?_, ?_⟩ <;> decide +kernel

theorem peek_import : sImport.peek 1 0x100000 64 = bytes0 := by
  rw [flat_peek flat_import _ _ (by decide)]; decide +kernel

theorem witness_ManagementRequests :
    Arrives dev0 (mgmt0 1 0 0 0 0)
    ∧ ((roOk 0x200010 = true ∧ ∀ r ∈ dev0.dev.regions, r.ctx = 3 → r.base + 2 ^ r.sz ≤ roBase 0x200010 ∨ roBase 0x200010 + 2 ^ roSz 0x200010 ≤ r.base)
      ∧ ((List.range 24).filter fun d => !dev0.dev.fenced.contains d && !dev0.dev.lostDies.contains d && decide (dev0.homeCount d < 131072)) ≠ [])
    ∧ (dev0.regionExact 3 (roBase 0x100012) (roSz 0x100012) = some (region0 0x100000 18 host1) ∧ host1 = dev0.hostAgent 1)
    ∧ ((2 ^ 56 - 1 : Nat) + 1 ≤ 2 ^ 56 ∧ roOk 0x100012 = true ∧ smapWf 0 dev0.dev.dumpRegs = true)
    ∧ (dev0.hostWriteCode 1 0x100000 131072 = none ∧ dev0.hostWriteCode 1 0x100000 768 = none)
    ∧ (dev0.hostLendReason (mgmt0 1 0x100012 0x50900001 0 0) = none ∧ dev0.recipient none 3 0x50900001 = some ⟨9, 2, 0, 1⟩)
    ∧ (0 ∉ dev0.dev.lostDies ∧ (region0 0x100000 18 host1).lender.dev = dev0.dev.weftId ∧ (region0 0x100000 18 host1).lender.kind = 2)
    ∧ (dev0.teamAt ⟨1, 0⟩ = some { team0 with pasid := 1 } ∧ (1 < 2 ^ 36 ∧ 3 < 4) ∧ ∀ c ∈ dev0.cores, smapWf 0 c.wp = true) := by
  refine ⟨arrives1, ?_, ?_, ?_, ?_, ?_, ?_, ?_⟩ <;> decide +kernel

theorem witness_ManagementRequests_import :
    sImport.xlateFail 1 0x100000 64 false = none ∧ leNat (sImport.peek 1 0x100000 64) = 2 ^ 480 ∧ imageRefused (2 ^ 480) = false
    ∧ sImport.agentMay 3 (sImport.hostAgent 1) 0x100000 64 .read = true ∧ sImport.launchAt 1 = some (one 1 0 [])
    ∧ sImport.teamAt ⟨1, 0⟩ = some { team0 with status := .waiting }
    ∧ (sImport.dev.exports.find? fun e => e.1 == sImport.peek 1 0x100000 64) = some (sImport.peek 1 0x100000 64, core0, team0) := by
  rw [peek_import]
  refine ⟨flat_xlate flat_import _ _ _ (by decide), ?_, ?_, ?_, ?_, ?_, ?_⟩ <;> decide +kernel

theorem pageOffs_lt {a n o : Nat} (h : o ∈ pageOffs a n) : o < n := by
  simp only [pageOffs, List.mem_filter, decide_eq_true_eq] at h
  exact h.2

theorem export_room (n : Nat) (h : n ≤ 0x80000) : sExport.hostWriteCode 1 0x100000 n = none := by
  have q : (sExport.dev.aqiAt 1).pasid = 1 := rfl
  have w : sExport.hostWhole (sExport.dev.aqiAt 1).ctx 1 0x100000 n = true := by
    simp only [State.hostWhole, List.all_eq_true]
    intro o ho
    have lo := pageOffs_lt ho
    have r : sExport.regionOf (sExport.dev.aqiAt 1).ctx (0x100000 + o) = some (region0 0x100000 20 host1) := by
      show List.find? _ [region0 0x100000 20 host1] = _
      rw [List.find?_cons_of_pos]
      have b : (region0 0x100000 20 host1).base = 0x100000 := rfl
      have z : (region0 0x100000 20 host1).sz = 20 := rfl
      have c : (region0 0x100000 20 host1).ctx = (sExport.dev.aqiAt 1).ctx := rfl
      simp [b, z, c]; omega
    rw [r]; rfl
  rw [State.hostWriteCode, q, flat_xlate flat_export _ _ _ (by omega), w]; rfl

theorem toBytes_length (n x : Nat) : (toBytes n x).length = n := by
  induction n generalizing x with
  | zero => rfl
  | succ n ih => simp [toBytes, ih]

theorem cells_length (w n : Nat) (f : Nat → Nat) : (cells w n f).length = n * w := by
  induction n with
  | zero => simp [cells]
  | succ n ih =>
    rw [cells, List.range_succ, List.flatMap_append, List.length_append, ← cells, ih]
    simp [toBytes_length, Nat.succ_mul]

theorem padTo_length (n : Nat) (bs : List Byte) : (padTo n bs).length = bs.length + (n - bs.length) := by
  simp [padTo]

theorem flatMap_length {α β : Type} (f : α → List β) (k : Nat) (h : ∀ a, (f a).length = k) (as : List α) :
    (as.flatMap f).length = as.length * k := by
  induction as with
  | nil => simp
  | cons a as ih => simp [h, ih, Nat.succ_mul, Nat.add_comm]

theorem statImage_length (m : SMap Stat) : (statImage m).length = 65536 := by
  rw [statImage, flatMap_length _ 16 (fun i => by simp [toBytes_length]), List.length_range]

theorem freeBytes_length (s : State) (b n : Nat) : (s.freeBytes b n).length = n := by simp [State.freeBytes]

theorem section_length (s : State) (c : Core) (t : Team) (a : t.status = .preempted) (h : c.strandImage.length = 256)
    (n : c.activeNest = []) (w : (c.powerImage c.stopAt).length = 64) (z : c.restart.image.length = 4096) :
    (s.coreSection c t).length ≤ 0x8000 := by
  simp only [State.coreSection, List.length_append, cells_length, padTo_length, a, h, n, w, z, reduceIte, List.length_nil]
  omega

theorem team_section_length (t : Team) (h : t.holdings = []) (v : t.voids = []) : t.section.length ≤ 0x30000 := by
  simp only [Team.section, List.length_append, toBytes_length, padTo_length, statImage_length, h, v, List.take_nil, List.flatMap_nil,
    List.length_nil]
  omega

theorem rest_length (c : Core) (t : Team) (q : c.queueImage.length = 64) (p : c.present = []) (r : c.rank = 0)
    (h : t.section.length ≤ 0x30000) : (c.imageRest t).length ≤ 0x78000 - 0x100 := by
  simp only [Core.imageRest, List.length_append, toBytes_length, cells_length, p, q, r, List.flatMap_nil, List.length_nil, reduceIte]
  omega

theorem image_length (s : State) (c : Core) (t : Team) (a : (s.coreSection c t).length ≤ 0x8000)
    (b : (c.imageRest t).length ≤ 0x78000 - 0x100) : (s.imageBytes c t).length ≤ 0x80000 := by
  simp only [State.imageBytes, List.length_append, toBytes_length]
  omega

theorem witness_ManagementRequests_export :
    sExport.teamAt ⟨1, 0⟩ = some teamOut ∧ 0 < 2 ^ 0 ∧ ([coreOff].find? fun c => c.rank == 0) = some coreOff
    ∧ sExport.hostWriteCode 1 0x100000 (sExport.imageBytes coreOff teamOut).length = none := by
  refine ⟨by decide +kernel, by decide, by decide +kernel, export_room _ (image_length _ _ _ (section_length _ _ _ rfl ?_ rfl ?_ ?_)
    (rest_length _ _ ?_ ?_ rfl (team_section_length _ rfl rfl)))⟩ <;> decide +kernel

theorem witness_OwnerRequests :
    (Arrives dev0 (mgmt0 0 4095 0 0 0))
    ∧ ((dev0.dev.aqiAt 4095).bound = false ∧ (10 : Nat) % 2 ^ 12 ≤ 10 ∧ (2 ^ 56 - 1 : Nat) < 2 ^ 56 ∧ (dev0.dev.aqiAt 1).bound = true)
    ∧ (1 ≠ 0 ∧ dev0.dev.nodes = [])
    ∧ ((look 0 dev0.dev.pasids 1).getLsbD 1 = false ∧ smapWf 0 dev0.dev.pasids = true)
    ∧ ((2 ^ 33 - 1 : Nat) < 2 ^ 33 ∧ (dev0.dev.aqiAt 4095).irqPending = false ∧ smapWf (0, 0) dev0.dev.hdm = true)
    ∧ (roOk 0x100012 = true ∧ sDump.hostWriteCode 0 0x100000 256 = none)
    ∧ (191 < 192 ∧ dev0.dev.weftSet = false) := by
  refine ⟨⟨?_, ?_, ?_, ?_, ?_, ?_, ?_, ?_⟩, ?_, ?_, ?_, ?_, ?_, ?_⟩ <;> decide +kernel

/-! ### The weft and bring-up -/

/-- A flit from device 9, and its payload as a request: context 3, an address, the DPA, a mask and an operation, data. -/
def flit (type : Nat) (payload : List Byte) : Flit := Flit.of 0 9 0 type 0 17 payload
def request (va mask op : Nat) : List Byte :=
  toBytes 8 (2 ^ 48 * 3) ++ toBytes 8 va ++ toBytes 8 va ++ toBytes 8 (2 ^ 32 * op + mask) ++ List.replicate 32 0x5A
/-- The region is lent to an agent of device 9. -/
def sWeft : State := sDev fun d => { d with regions := [region0 0x100000 18 ⟨9, 2, 0, 1⟩] }

theorem witness_WeftFlits_requests :
    (sWeft.weftMay (flit 0 (request 0x100020 0 0)) .read = true ∧ dev0.weftMay (flit 0 (request 0x100020 0 0)) .read = false)
    ∧ (sWeft.weftMay (flit 2 (request 0x100020 0xF 0)) .write = true ∧ dev0.weftMay (flit 2 (request 0x100020 0xF 0)) .write = false
      ∧ sWeft.farCanonical = true)
    ∧ (24 < 25 ∧ sWeft.weftMay (flit 4 (request 0x100020 (255 * 2 ^ 24) 7)) .atomic = true ∧ (flit 4 (request 0x100020 (255 * 2 ^ 24) 7)).opn < 8
      ∧ (flit 4 (request 0x100020 (255 * 2 ^ 24) 7)).mask = 255 * 2 ^ 24
      ∧ dev0.weftMay (flit 4 (request 0x100020 255 0)) .atomic = false) := by
  decide +kernel

/-- A command whose request to device 9 waits for its response. -/
def sWait (q : Nat) (op : CmdOp) : State :=
  let s := cmdIn q (cmdOf op .begun [] [0])
  { s with dev := { s.dev with weftWait := [⟨17, 9, 90, 0, q, 7, 50, 0, [0]⟩] } }
def awaited (q type : Nat) (op : CmdOp) : Prop :=
  Awaited (sWait q op) (flit type (toBytes 8 0)) ⟨17, 9, 90, 0, q, 7, 50, 0, [0]⟩ (cmdOf op .begun [] [0])

theorem witness_WeftFlits_responses :
    awaited 4 1 (.fld 3 0x100038 3) ∧ awaited 5 3 (.fst 0x100038 3 9) ∧ awaited 5 5 (.amo 0 3 0x100038 9)
    ∧ (flit 1 (toBytes 8 0)).word 0 = 0 ∧ 0x100018 % 32 + 2 ^ 3 ≤ 32 := by
  refine ⟨⟨⟨?_, ?_, ?_⟩, ?_, ?_, ?_, ?_, ?_, ?_, ?_, ?_, ?_⟩, ⟨⟨?_, ?_, ?_⟩, ?_, ?_, ?_, ?_, ?_, ?_, ?_, ?_, ?_⟩,
      ⟨⟨?_, ?_, ?_⟩, ?_, ?_, ?_, ?_, ?_, ?_, ?_, ?_, ?_⟩, ?_, ?_⟩ <;>
    decide +kernel

theorem witness_WeftFlits_ownership :
    (let f := flit 6 (toBytes 8 0 ++ toBytes 8 0x400012 ++ toBytes 8 1)
     f.dst = dev0.dev.weftId ∧ f.type = 6 ∧ f.vl ≠ 1 ∧ f.word 3 = 0 ∧ roOk (f.word 1) = true ∧ (dev0.dev.aqiAt (f.word 2 % 2 ^ 20)).bound = true
      ∧ f.word 2 / 2 ^ 48 = 0
      ∧ ∀ r ∈ dev0.dev.regions, r.ctx = 3 → r.base + 2 ^ r.sz ≤ roBase (f.word 1) ∨ roBase (f.word 1) + 2 ^ roSz (f.word 1) ≤ r.base)
    ∧ (let f := flit 6 (toBytes 8 0 ++ toBytes 8 0x100010 ++ toBytes 8 1)
       ∃ r ∈ dev0.dev.regions, r.ctx = 3 ∧ r.base < roBase (f.word 1) + 2 ^ roSz (f.word 1) ∧ roBase (f.word 1) < r.base + 2 ^ r.sz)
    ∧ ((flit 7 []).dst = dev0.dev.weftId ∧ (flit 10 []).type ≥ 10 ∧ smapWf 0 dev0.dev.paused = true) := by
  decide +kernel

theorem witness_BringUpResetAndDebug :
    (∀ k, k < 5 → (sDev fun d => { d with stage := k }).dev.stage = k ∧ (sDev fun d => { d with stage := k }).dev.recovery = false)
    ∧ (smapWf unboundAqi dev0.dev.aqis = true ∧ smapWf 0 dev0.dev.pasids = true ∧ (dev0.dev.aqiAt 1).bound = true)
    ∧ dev0.teamAt ⟨1, 0⟩ = some { team0 with pasid := 1 } := by
  decide +kernel

end Sys2Proof.Tests
end

