-- ==== Sys2Proof/Tests/Witnesses.lean ====
section
/-! SUPPORT. Witnesses for the hypotheses of clauses that Slice0 does not show: steps between words, losses and moves,
nodes at their memory, teams that stop and resume. The values are the tests' own. -/

set_option Elab.async false

namespace Sys2Proof.Tests

open Sys2Proof.Machine Sys2Proof.Claims

/-! ### Between words -/

theorem witness_FatalTrapsRestartsAndReturns_boundary :
    (sBound.core.impr ≠ [] ∧ sBound.core.handler = none ∧ sBound.core.team.isSome = true ∧ sBound.core.isDone = false
      ∧ sBound.core.stopped = false)
    ∧ ∃ tm, sDog.team = some tm ∧ tm.wdog = 0 ∧ tm.status = .resident ∧ tm.fatal = none := by
  refine ⟨by decide +kernel, { team0 with wdog := 0 }, ?_⟩
  decide +kernel

/-- A marker whose queues have completed what stood before it; a barrier whose participants have arrived. -/
theorem witness_SynchronisationWords_ends :
    ((sHold (.waitK 3) none).core.hold = .waitK 3 ∧ 0 < (sHold (.waitK 3) none).core.tokens 3)
    ∧ ((sHold (.realign 2) none).core.hold = .realign 2 ∧ (sHold (.realign 2) none).cycle % 2 ^ 2 = 0)
    ∧ (let s : State := { (sHold .none (some 0)) with cycle := 65536 }
       s.core.region = some 0 ∧ 0 + 65536 ≤ s.cycle)
    ∧ (sBound.core.pmarks[0]? = some ⟨2, 31, 90⟩ ∧ sBound.phaseReached ⟨2, 31, 90⟩ = true ∧ 90 < sBound.cycle)
    ∧ (sEpisode.barrierAt 1 5 = some { bar 0 0 [] with arrived := [(0, 0, 1)] } ∧ sEpisode.launchAt 1 = some launch0
      ∧ ({ bar 0 0 [] with arrived := [(0, 0, 1)] } : Barrier).ready (2 ^ launch0.gw) = true)
    ∧ ((sSync 1 1 [(1, 0, 90)]).core.arrivalOf 5 = 1 ∧ (sSync 1 1 [(1, 0, 90)]).myBarrier (BitVec.ofNat 64 5) = some (bar 1 0 [(1, 0, 90)])
      ∧ (sSync 1 1 [(1, 0, 90)]).released (bar 1 0 [(1, 0, 90)]) 1 = true)
    ∧ (sEntry.entryOpen = true ∧ ∃ st, sEntry.atEntry st = true) := by
  refine ⟨?_, ?_, ?_, ?_, ?_, ⟨?_, ?_, sSync_released 1 rfl⟩, ⟨?_, .s, ?_⟩⟩ <;> decide +kernel

theorem witness_GuardedOffWords_push :
    sBound.core.gpush[0]? = some (⟨0, 1, 4, 0xFFFF⟩, 90, 110) ∧ 90 < sBound.cycle ∧ ∀ e ∈ sBound.core.gpush.take 0, e.1.src ≠ 4 := by
  decide +kernel

theorem witness_SendReceiveAndReplay_delivery : (sPeer [deliv 9]).arrived ≠ [] := by decide +kernel

theorem witness_ResetState_bringUp :
    (dev0.dev.recovery = false ∧ ∀ k, k < 5 → (sDev fun d => { d with stage := k }).dev.stage = k)
    ∧ (dev0.dev.aqiAt 1).bound = true ∧ dev0.teamAt ⟨1, 0⟩ = some { team0 with pasid := 1 } := by
  decide +kernel

theorem witness_CoreStepsBetweenWords_markers :
    sBound.dev.weftWait = [] ∧ (∀ i, i < 5 → (sBound.core.undone ([4, 5, 6, 7, 8].getD i 0)) = []) := by
  decide +kernel

theorem witness_PowerDomainSteps_banks :
    (look .off ((sPan .off).dev.panAt 191).vt 7 = .off ∧ look .off ((sPan .ret).dev.panAt 191).vt 7 = .ret)
    ∧ (look .off ((sPan (.waking 5000 true)).dev.panAt 191).vt 7 = .waking 5000 true ∧ 5000 ≤ (sPan (.waking 5000 true)).cycle)
    ∧ (look .off ((sPan (.waking 4999 false)).dev.panAt 191).vt 7 = .waking 4999 false ∧ (sPan (.waking 4999 false)).farCanonical = true)
    ∧ (look .off ((sPan .on).dev.panAt 191).vt 7 = .on ∧ ∀ r ∈ (sPan .on).dev.regions, r.lentOut = false) := by
  decide +kernel

/-! ### Storage of regions -/

theorem targetOf_dram0 (a : Nat) (h : a < 0x800000000) : targetOf a = .dram 0 := by
  have e : bitOf a 51 = false := by simp [bitOf]; omega
  have q : a / 0x1000000000 = 0 := by omega
  have r : a % 0x1000000000 = a := by omega
  simp only [targetOf, e, q, r]
  have : ¬ a ≥ 0x80000000000 := by omega
  have : ¬ a ≥ 0x40000000000 := by omega
  simp [*]

theorem takeBlocks_one (ok : Nat → Bool) (at_ : Nat → Nat) (n : Nat) (h : ok (at_ 0) = true) :
    takeBlocks ok at_ (n + 1) 0 1 = some [at_ 0] := by
  simp [takeBlocks, h]

/-- DRAM of die 0 has room for a region of one block, where no other region's storage lies in it. -/
theorem storage_room {s : State} {home sz : Nat} (hh : home = 0) (hz : sz = 16)
    (hu : ∀ a, a < 0x800000000 → s.unbacked a 0x10000 = true) (hd : s.dieServes 0 = true) (ctx base : Nat) :
    s.newStorage ctx base sz home ≠ none := by
  subst hh hz
  have room (f : Nat) : (s.storageFor 0 false 16 f).isSome = true := by
    unfold State.storageFor
    have b : (f + 0) % (0x800000000 / 2 ^ 16) * 2 ^ 16 < 0x800000000 := by omega
    show (takeBlocks _ _ (12582911 + 1) 0 1).isSome = true
    rw [takeBlocks_one]
    · rfl
    · simp only [Bool.and_eq_true, List.any_eq_true]
      have at0 : dieBlock false ((0 + 0 / 524288) % 24) (blkOf false 16) ((f + 0) % dieBlocks false (blkOf false 16))
          = (f + 0) % (0x800000000 / 2 ^ 16) * 2 ^ 16 := by
        simp [dieBlock, blkOf, dieBlocks]
      refine ⟨hu _ ?_, 0, by decide, ?_⟩
      · exact at0 ▸ b
      · refine ⟨?_, hd⟩
        show onDie 0 (dieBlock false ((0 + 0 / 524288) % 24) (blkOf false 16) ((f + 0) % dieBlocks false (blkOf false 16))) = true
        rw [at0, onDie, targetOf_dram0 _ b]; rfl
  simp only [State.newStorage]
  obtain ⟨x, hx⟩ := Option.isSome_iff_exists.1 (room (Config.freeNat s.fresh (slotOf 15 1 4097)))
  rw [hx]
  split
  · cases (s.storageFor 0 true 16 (Config.freeNat s.fresh (slotOf 15 1 4097))) <;> simp
  · simp

/-- A device of which only die 0 serves, with a region of one block, in the vaults; and the same without a region. -/
def home0 : Homed := ⟨3, 0x100000, 16, 0, true, 16, [0x40000000000]⟩
def sMove : State := sDev fun d => { d with
  fenced := List.range' 1 23, regions := [region0 0x100000 16 host1], homed := [home0] }

theorem sMove_room (ctx base : Nat) : sMove.newStorage ctx base 16 0 ≠ none := by
  apply storage_room rfl rfl
  · intro a h
    have e : sMove.dev.homed = [home0] := rfl
    simp [State.unbacked, e, home0]
    omega
  · decide +kernel

theorem witness_LoomSteps_move :
    sMove.dev.homed.find? (fun h => h.ctx == 3 && decide (h.base ≤ 0x10FFFF) && decide (0x10FFFF < h.base + 2 ^ h.sz)) = some home0
    ∧ sMove.homeDies ≠ [] ∧ (∀ d ∈ sMove.homeDies, sMove.newStorage 3 home0.base home0.sz d ≠ none) ∧ sMove.movable home0 = true
    ∧ sMove.farCanonical = true ∧ (16 ≤ home0.blk ∧ home0.blk ≤ home0.sz ∧ home0.store.length = 2 ^ (home0.sz - home0.blk))
    ∧ (∃ r ∈ sMove.dev.regions, r.ctx = 3 ∧ within r.base r.sz home0.base home0.sz = true)
    ∧ ∀ r ∈ sLoom.dev.weftWait, r.place < 768 := by
  refine ⟨by decide +kernel, by decide +kernel, ?_, by decide +kernel, by decide +kernel, by decide +kernel, by decide +kernel,
    by decide +kernel⟩
  have h : sMove.homeDies = [0] := by decide +kernel
  intro d hd
  rw [h, List.mem_singleton] at hd
  subst hd
  exact sMove_room _ _

theorem witness_OwnerRequests_loom :
    (23 ∉ sLoom.dev.lostDies ∧ sLoom.unanswered 9 = true) ∧ (∃ v, sLoom.dev.invals = [v]
      ∧ sLoom.pinnedIn v.pasid v.base v.len = false ∧ (sLoom.dev.aqiAt v.aqi).mgmt.length ≤ 1
      ∧ roomFor (sLoom.dev.aqiAt v.aqi))
    ∧ smapWf 1900 sLoom.dev.mhz = true := by
  refine ⟨by decide +kernel, ⟨⟨1, 0xABCD, 1, 0x200000, 0x1000⟩, ?_⟩, ?_⟩ <;> decide +kernel

theorem witness_ManagementRequests_create :
    (roOk 0x200010 = true ∧ (∀ r ∈ sMove.dev.regions, r.ctx = 3 → r.base + 2 ^ r.sz ≤ roBase 0x200010 ∨ roBase 0x200010 + 2 ^ roSz 0x200010 ≤ r.base)
      ∧ sMove.homeDies ≠ [] ∧ ∀ d ∈ sMove.homeDies, sMove.newStorage 3 (roBase 0x200010) (roSz 0x200010) d ≠ none)
    ∧ (sDev fun d => { d with fenced := List.range 24 }).homeDies = [] := by
  refine ⟨⟨by decide +kernel, by decide +kernel, by decide +kernel, ?_⟩, by decide +kernel⟩
  have h : sMove.homeDies = [0] := by decide +kernel
  have z : roSz 0x200010 = 16 := by decide +kernel
  intro d hd
  rw [h, List.mem_singleton] at hd
  subst hd
  rw [z]
  exact sMove_room _ _

/-- AQI 1 alone holds die 1; the same die held by AQI 2 as well. -/
def sLeave : State := sDev fun d => { d with aqis := [(0, { aqi1 with ctx := 0 }), (1, { aqi1 with dies := 2 })] }
def sShared : State := sDev fun d => { d with
  aqis := [(0, { aqi1 with ctx := 0 }), (1, { aqi1 with dies := 2 }), (2, { aqi1 with ctx := 4, dies := 6 })] }

theorem witness_OwnerRequests_leaving :
    ((sShared.dev.aqiAt 1).dies = 2 ∧ ∃ e ∈ sShared.dev.aqis, e.1 ≠ 1 ∧ e.1 ≠ 0 ∧ e.2.bound = true ∧ e.2.dies.testBit 1 = true)
    ∧ ((sLeave.dev.aqiAt 1).dies.testBit 1 = true ∧ (∀ e ∈ sLeave.dev.aqis, e.1 ≠ 1 → e.1 ≠ 0 → e.2.dies.testBit 1 = false)
      ∧ sLeave.occupied 1 = false ∧ sLeave.stores 1 = false ∧ sLeave.dev.homed = [] ∧ sLeave.farCanonical = true)
    ∧ (0 % 2 ^ 16 = 0 ∧ ∀ e ∈ dev0.dev.aqis, e.2.ctx ≠ 7) := by
  decide +kernel

/-! ### Far accesses and nodes -/

/-- Whether a translation succeeds. -/
def okPins (e : Except Nat (List Pin)) : Bool := match e with
  | .ok _ => true
  | .error _ => false
theorem okPins_of {e : Except Nat (List Pin)} (h : okPins e = true) : ∃ p, e = .ok p := by
  cases e with
  | ok p => exact ⟨p, rfl⟩
  | error => cases h

theorem witness_OwnershipAndTransformsRun_wake :
    (let x := cmdOf unpOp .popped [] []
     let s := cmdIn 6 x
     s.czBusy 0 = false ∧ (s.dev.panAt 0).cz = .off)
    ∧ (let x := cmdOf unpOp .popped [] []
       let s := (cmdIn 6 x).onPan 0 fun n => { n with cz := .waking 90 false }
       s.czBusy 0 = false ∧ (s.dev.panAt 0).czOn s.cycle = true ∧ s.czNext 0 = some (s.core.place % 4))
    ∧ (cmdIn 6 unpX).core.ghosts = [] ∧ (cmdIn 4 (fldCmd .begun [] [0])).dev.vague = [] := by
  decide +kernel

/-- Nodes on a machine whose idle crystallizers are all ON, or all OFF. -/
def sCz (ns : List Node) (on : Bool) : State := sDev fun d => { d with
  nodes := ns, regions := [region0 0x100000 18 host1]
  pans := if on then (List.range' 1 7).map fun p => (p, ⟨[], .on, 0, 0, none⟩) else [] }

theorem witness_TaskGraphNodesRun_starts :
    (let s := sNodes [transfer0] host1
     s.nodeAt 0 = some transfer0 ∧ s.nodeOf 1 9 = some transfer0 ∧ s.mayStart transfer0 = true ∧ transfer0.kind = 1
      ∧ (s.nodeRegions transfer0 [transfer0.src, transfer0.dst] = some [region0 0x100000 18 host1] ∧ s.banksOn (region0 0x100000 18 host1) = true)
      ∧ covers [region0 0x100000 18 host1] transfer0.src transfer0.count = true ∧ covers [region0 0x100000 18 host1] transfer0.dst transfer0.count = true
      ∧ okPins (s.pinAll (s.nodePasid transfer0) (row 2 transfer0.src transfer0.dst transfer0.count).pageVisits []) = true)
    ∧ (∀ on, let s := sCz [pack0] on
       s.mayStart pack0 = true ∧ pack0.kind = 2 ∧ s.idlePans pack0 = List.range' 1 7
        ∧ s.nodeRegions pack0 (pack0.runs.map (·.1)) = some [region0 0x100000 18 host1] ∧ s.banksOn (region0 0x100000 18 host1) = true
        ∧ okPins (s.transformPins pack0 [region0 0x100000 18 host1]) = true
        ∧ ∀ q ∈ s.idlePans pack0, if on then (s.dev.panAt q).czOn s.cycle = true else (s.dev.panAt q).cz = .off) := by
  refine ⟨by decide +kernel, fun on => ?_⟩
  cases on <;> decide +kernel

/-- The work of a transfer of 4 bytes, and of a pack of 3. -/
def workOf (dir src dst len : Nat) : Cmd := { cmdOf (row dir src dst len) .begun [] (row dir src dst len).work with
  pins := [pin0 true], bar := none }
def sWork (n : Node) (x : Cmd) : State := sDev fun d => { d with nodes := [{ n with work := [x], begun := true }] }

theorem witness_TaskGraphNodesRun_accesses :
    (let x := workOf 2 0x100000 0x100040 4
     let n := { transfer0 with work := [x], begun := true }
     let s := sWork transfer0 x
     s.dev.nodes = [n] ∧ n.kind = 1 ∧ (s.nodeActs n x)[0]? = some ⟨true, 0x100000 / 32⟩ ∧ x.remoteOf ⟨true, 0x100000 / 32⟩ = none ∧ x.late = none
      ∧ s.dev.weftWait = [] ∧ s.dev.vague = [] ∧ s.farCanonical = true)
    ∧ (let x := { workOf 2 0x100000 0x100040 4 with got := indexed 0 [1, 2, 3, 4] }
       let n := { transfer0 with work := [x], begun := true }
       (sWork transfer0 x).nodeActs n x = [⟨false, 2⟩] ∨ ∃ k, (sWork transfer0 x).nodeActs n x = [⟨false, k⟩] ∧ k ∉ x.selfFed
        ∧ x.remoteOf ⟨false, k⟩ = none ∧ ∀ i, i < 4 → pinnedDpa x.pins (0x100040 + i) = 0x100040 + i)
    ∧ (let x := workOf 0 0x100000 0 3
       let n := { pack0 with work := [x], begun := true }
       let a : Act := ⟨true, 0x100000 / 32⟩
       n.kind = 2 ∧ n.unpacks = false ∧ (sWork pack0 x).nodeActs n x = [a] ∧ x.remoteOf a = none ∧ x.missing = x.moved a
        ∧ (imageOf (bits n.ctl 63 62) (czE n.ctl) (pieces (czE n.ctl) (czN n.ctl) [0, 0, 0])).length ≤ czC n.ctl) := by
  refine ⟨by decide +kernel, .inr ⟨0x100040 / 32, ?_⟩, by decide +kernel⟩
  decide +kernel

theorem witness_TaskGraphNodesRun_words :
    (let s := sNodes [signal0] host1
     s.nodeAt 0 = some signal0 ∧ s.nodeOf 1 9 = some signal0 ∧ signal0.kind = 3 ∧ s.mayStart signal0 = true
      ∧ s.hostWhole (s.nodeCtx signal0) 1 signal0.addr 8 = true ∧ signal0.addr % 8 = 0
      ∧ ∃ p, pinsOf (s.pinAll (s.nodePasid signal0) [(true, signal0.addr)] []) = ([p], 0) ∧ pinnedDpa [p] signal0.addr % 8 = 0
        ∧ (∀ k, k < 8 → pinnedDpa [p] (signal0.addr + k) = pinnedDpa [p] signal0.addr + k)
        ∧ (s.nodeCmd signal0 (.fst signal0.addr 3 (BitVec.ofNat 64 signal0.value)) [p] []).remoteOf ⟨false, 0⟩ = none)
    ∧ (let s := sNodes [signal0] loom1
       s.hostWhole (s.nodeCtx signal0) 1 signal0.addr 8 = false)
    ∧ (let s := sNodes [wait0 1] host1
       (wait0 1).kind = 4 ∧ (wait0 1).finished = false ∧ s.mayStart (wait0 1) = true ∧ (wait0 1).work = []
        ∧ s.regionOf (s.nodeCtx (wait0 1)) (wait0 1).addr = some (region0 0x100000 18 host1) ∧ host1 = s.hostAgent 1
        ∧ ∃ p, pinsOf (s.pinAll (s.nodePasid (wait0 1)) [(false, (wait0 1).addr)] []) = ([p], 0)
          ∧ (s.nodeCmd (wait0 1) (.fld 0 (wait0 1).addr 3) [p] []).remoteOf ⟨false, 0⟩ = none)
    ∧ (sNodes [over0] host1).nodeAt 0 = some over0 := by
  refine ⟨⟨?_, ?_, ?_, ?_, ?_, ?_, pin0 true, ?_⟩, ?_, ⟨?_, ?_, ?_, ?_, ?_, ?_, pin0 false, ?_⟩, ?_⟩ <;> decide +kernel

theorem witness_TaskGraphNodesRun_host :
    dev0.dev.cxlMid = none ∧ (sEvt true false 0 0).dev.cxlMid = none ∧ ((sEvt true false 0 0).dev.aqiAt 1).waiting ≠ [] := by
  decide +kernel

/-! ### Launches and cohorts -/

/-- The launch in a region of which all is ON; the cohort whose teams all wait. -/
theorem witness_TeamsEndAndArePreempted_launches :
    (∃ l, (sLaunch 1 1).launchPlan launchNode (sLaunch 1 1).newTag = .ok l ∧ l.nextCohort = some (0, [0])
      ∧ (sLaunch 1 1).launchBanksOn l = true)
    ∧ ∀ tm ∈ sCohort.teams, tm.id.ltag = 1 → tm.cohort = 0 → tm.status ≠ .preempted := by
  refine ⟨?_, by decide +kernel⟩
  obtain ⟨-, -, -, l, h, c, -⟩ := witness_LaunchesAndCohortsStart_plans
  refine ⟨l, h, c, ?_⟩
  rw [plan_one 1 _ (.inr rfl), if_pos rfl] at h
  have e : l.regions = [] := by rw [← Except.ok.inj h, planned]
  simp [State.launchBanksOn, e]

/-- A team that must give way and whose core is in an aligned region. -/
def sHeld : State := { (sGive.onCore fun c => { c with region := some 3 }) with teams := [{ team0 with wanted := true }] }
/-- The saved team, which held a `bar.wait` whose phase opened meanwhile. -/
def sReopened : State :=
  let o : Core := { core0 with hold := .barWait 5, barEp := [(5, 1)], stopAt := 60 }
  { sSaved with
    teams := [{ team0 with status := .preempted, image := [o] }]
    dev := { sSaved.dev with barriers := [bar 1 0 [(1, 0, 90)]] } }

theorem witness_TeamsEndAndArePreempted_cohorts :
    (∃ tm ∈ sHeld.cohortTeams 1 0 .resident, tm.wanted = true ∧ sHeld.yields tm = true ∧ ∃ c ∈ sHeld.coresOf tm.id, c.region ≠ none)
    ∧ ((∃ w ∈ sGive.wants, sGive.callsFor w = true) ∧ ∀ tm ∈ sGive.cohortTeams 1 0 .resident, ∀ c ∈ sGive.coresOf tm.id, c.region = none)
    ∧ ((∀ q ∈ [4, 5, 6, 7, 8], ∀ x ∈ (sDrain.core.queue q).cmds, x.stage ≠ .begun) ∧ ∀ c ∈ sDrain.others, c.place ≠ sDrain.core.place)
    ∧ (sSaved.cohortTeams 1 0 .waiting = [] ∧ (one 1 0 [(0, 40)]).ltag = 1 ∧ (∀ h, core0.hold ≠ .barWait h)
      ∧ ∃ c ∈ sSaved.cores, c.place = 4 * 0 + 0)
    ∧ (∃ tm o, sReopened.cohortTeams 1 0 .preempted = [tm] ∧ tm.image = [o] ∧ o.hold = .barWait 5
      ∧ sReopened.barrierAt 1 5 = some (bar 1 0 [(1, 0, 90)])
      ∧ (bar 1 0 [(1, 0, 90)]).opensAt tm.id.index 0 (o.arrivalOf 5) = some 90 ∧ o.stopAt ≤ 90 ∧ 90 ≤ sReopened.cycle + 1) := by
  refine ⟨by decide +kernel, by decide +kernel, by decide +kernel, ⟨by decide +kernel, rfl, ?_, by decide +kernel⟩,
    { team0 with status := .preempted, image := [{ core0 with hold := .barWait 5, barEp := [(5, 1)], stopAt := 60 }] }, _, by decide +kernel, rfl, rfl, ?_⟩
  · intro h e
    cases e
  · decide +kernel

theorem witness_LaunchesAndCohortsStart_teams :
    (sDone.launchAt 1 = none ∧ (dev0.onDev fun d => { d with launches := [one 1 0 []] }).launchAt 1 = some (one 1 0 []))
    ∧ (sGive.teamAt ⟨1, 0⟩ = some team0 ∨ sGive.teamAt ⟨1, 0⟩ = some { team0 with pasid := 1 })
    ∧ (sDrain.teamAt ⟨1, 0⟩ = some { team0 with status := .draining } ∧ sDrain.launchAt 1 = some (one 1 0 [(0, 40)])
      ∧ ∀ c ∈ sDrain.coresOf ⟨1, 0⟩, sDrain.drained c = true)
    ∧ (sSaved.cohortTeams 1 0 .preempted ≠ [] ∧ sSaved.cohortTeams 1 0 .draining = [] ∧ sSaved.wants = []
      ∧ (one 1 0 [(0, 40)]).place ((one 1 0 [(0, 40)]).cohorts.getD 0 []) (fun i => (sSaved.cohortTeams 1 0 .preempted
          ++ sSaved.cohortTeams 1 0 .waiting).any fun t => t.id.index == i)
          (sSaved.avail (sSaved.diesOf (one 1 0 [(0, 40)])) fun _ => false) = some [(0, 0, [0])]) := by
  refine ⟨by decide +kernel, .inr ?_, ?_, ?_⟩ <;> decide +kernel

/-! ### The host and the weft -/

/-- A line's second half that is still to come. -/
def sMid (x : Option (BitVec 512)) (got : List Byte) : State := (sWin host1).onDev fun d => { d with
  cxlMid := some ⟨7, 0, x, 0x100020, 0x100020, got, 3, 1, pin0 x.isSome⟩ }
/-- The page that a translation answers, if it does. -/
def pageOf (e : Except Nat Pin) : Option Pin := match e with
  | .ok p => some p
  | .error _ => none
theorem pageOf_some {e : Except Nat Pin} {p : Pin} (h : pageOf e = some p) : e = .ok p := by
  cases e with
  | ok q => cases h; rfl
  | error => cases h

theorem witness_HostAccessesAndEvents_lines :
    ((sWin host1).dev.cxlMid = none ∧ (sWin host1).dev.vague = [] ∧ (sWin host1).farCanonical = true ∧ (sWin host1).hostUp = true)
    ∧ ((sWin host1).xlate 1 0x100000 true = .ok (pin0 true) ∧ (sWin host1).xlate 1 0x100000 false = .ok (pin0 false)
      ∧ targetOf ((pin0 true).dpa + (0x100000 - (pin0 true).va)) = .dram 0)
    ∧ (∀ x got, (sMid x got).dev.cxlMid = some ⟨7, 0, x, 0x100020, 0x100020, got, 3, 1, pin0 x.isSome⟩) ∧ targetOf 0x100020 = .dram 0
    ∧ (((sEvt true false 62 (2 ^ 32 - 1)).dev.aqiAt 1).evhead < 2 ^ 32 ∧ ((sEvt true false 62 (2 ^ 32 - 1)).dev.aqiAt 1).evtail < 2 ^ 32)
    ∧ (0x7F < 0x80 ∧ 0x98 ≤ 0x98) := by
  refine ⟨by decide +kernel, ⟨pageOf_some ?_, pageOf_some ?_, ?_⟩, fun x got => rfl, ?_, ?_, ?_⟩ <;> decide +kernel

theorem witness_HostAccessesAndEvents_nodes :
    (let s := sNodes [transfer0] host1
     s.mayStart transfer0 = true ∧ transfer0.kind = 1 ∧ (s.nodeRegions transfer0 [transfer0.src, transfer0.dst]).all (·.all s.banksOn) = true)
    ∧ (let s := sCz [pack0] true
       s.mayStart pack0 = true ∧ s.idlePans pack0 ≠ [] ∧ (∀ q ∈ s.idlePans pack0, (s.dev.panAt q).czOn s.cycle = true)
        ∧ (s.nodeRegions pack0 (pack0.runs.map (·.1))).all (·.all s.banksOn) = true) := by
  decide +kernel

/-- The die that serves the region, and the address, is lost. -/
def sGone : State := sWeft.onDev fun d => { d with lostDies := [0] }

theorem witness_WeftFlits_state :
    (sWeft.dev.vague = [] ∧ sWeft.farCanonical = true ∧ (sWeft.dev.weftId = 0 ∧ (flit 0 []).dst = 0 ∧ sWeft.dev.recovery = false
      ∧ (flit 0 []).src ∉ sWeft.dev.unreachable) ∧ sWeft.laneOpen 1 = true ∧ ∀ e ∈ sWeft.dev.weftHeld, e.2.vl ≠ 1)
    ∧ sWeft.weftReaches (flit 0 (request 0x100020 0 0)) = true ∧ sGone.weftReaches (flit 0 (request 0x100020 0 0)) = false
    ∧ dev0.dev.weftHeld = [] := by
  decide +kernel

/-! ### Losses, rooms and reach: what other clauses ask of a state -/

/-- A domain barrier of two other devices, before and after its announcement. -/
def xbar (told : Nat) : Barrier := { bar 0 0 [] with desc := BitVec.ofNat 128 (2 ^ 88 * 2 + 2 ^ 96 * 7), arrived := [(0, 0, 1)], told := told, ext := 2 }
def sDomain (told : Nat) : State := { base with dev := { Device.reset with barriers := [xbar told], launches := [launch0] } }

theorem witness_CoreStepsBetweenWords_domain :
    ((sDomain 0).barrierAt 1 5 = some (xbar 0) ∧ (xbar 0).xdev ≠ 0 ∧ (xbar 0).told ≤ (xbar 0).done ∧ (sDomain 0).laneOpen 3 = true
      ∧ (sDomain 0).dev.weftHeld = [] ∧ smapWf 0 (xbar 0).windowEnd = true ∧ (xbar 0).pending = 0)
    ∧ ((sDomain 1).barrierAt 1 5 = some (xbar 1) ∧ (xbar 1).done < (xbar 1).told ∧ (xbar 1).xdev * ((xbar 1).done + 1) ≤ (xbar 1).ext)
    ∧ (sEpisode.barrierAt 1 5 = some { bar 0 0 [] with arrived := [(0, 0, 1)] } ∧ (bar 0 0 []).xdev = 0) := by
  decide +kernel

/-- The block of the manual's example: operation 0 adds s1 and s2 and feeds the sum to operation 1, which shifts it left by 2 and
commits it to s3; a block that ends in a jump to block 4. -/
def gAdd : Nat := 2 ^ 64 * 0x0080020100000000 + 0x000000000102FFFF
def gShl : Nat := 2 ^ 64 * 0x0600000000000000 + 0x00000002FFFFFF03
def gJump : Nat := 2 ^ 119 * 0x1A + 2 ^ 32 * 4 + 0xFFFFFFFF
def blocks0 : List (Nat × List Nat) := [(1, [gAdd, gShl]), (0xFFFF, [gJump])]
def sGovel (block : Nat) (past : Bool) : State :=
  { (onBase fun c => { c with s := [(1, 5), (2, 7)], govel := some ⟨block, past, 0, false, []⟩ }) with
    dev := { Device.reset with launches := [{ launch0 with blocks := blocks0 }] } }

theorem test_govel_fields :
    gOp gAdd = 1 ∧ govelFed [gAdd, gShl] = [(1, 0)] ∧ (gOp gShl, gImm gShl, gDst gShl) = (0xC, 2, 3)
    ∧ registerOnly gAdd = true ∧ registerOnly gShl = true ∧ branches gJump = true := by decide +kernel

theorem witness_CoreStepsBetweenWords_govel :
    (∀ b past, b < 2 → (sGovel b past).core.pend = [] ∧ (sGovel b past).core.lsPend = [] ∧ (sGovel b past).core.counts = []
      ∧ (sGovel b past).core.rows = [] ∧ (sGovel b past).core.gev = none ∧ (sGovel b past).core.gevEnds = [])
    ∧ ((sGovel 0 false).govelBlock ⟨0, false, 0, false, []⟩ = some (1, [gAdd, gShl]) ∧ nextEffect [gAdd, gShl] 0 = none ∧ branches gShl = false)
    ∧ ((sGovel 1 true).govelBlock ⟨1, true, 0, false, []⟩ = some (0xFFFF, [gJump]) ∧ nextEffect [gJump] 0 = none
      ∧ gStr gJump = 0 ∧ gOp gJump = 0x1A) :=
  ⟨fun _ _ _ => ⟨rfl, rfl, rfl, rfl, rfl, rfl⟩, by decide +kernel, by decide +kernel⟩

theorem test_govel_commits_48 :
    look 0 ((sGovel 0 false).govelCommit ⟨0, false, 0, false, []⟩ [gAdd, gShl]).core.s 3 = 48 := by decide +kernel

theorem witness_FarAccessesAtHome_seen :
    (∀ b, (cmdIn 4 (pinned (fldCmd .begun [] [0]))).earlier b = [])
    ∧ (ownIn (.query 3 0x100012) .popped).homeLost 3 0x100000 = false
    ∧ ∀ c ∈ (cmdIn 6 unpX).cores, ∀ w ∈ c.opens, w.lingers = false :=
  ⟨fun _ => rfl, by decide +kernel, by decide +kernel⟩

/-- A draining core that is done, one whose boundary is free. -/
def sEnds (d : Bool) : State := base.onCore fun c => { c with isDone := d, code := [(0, 0x10380001)], lens := [256, 0, 0, 0, 0] }

theorem witness_TeamsEndAndArePreempted_boundary :
    (sEnds true).core.isDone = true
    ∧ ((sEnds false).core.isDone = false ∧ (sEnds false).core.region = none ∧ (sEnds false).bundleTrap = none
      ∧ (sEnds false).core.tookAt ≠ (sEnds false).cycle ∧ (sEnds false).core.impr = []) := by
  decide +kernel

theorem witness_ManagementRequests_lend :
    (∀ p k, look .off (dev0.dev.panAt p).vt k ≠ .ret) ∧ dev0.laneOpen 2 = true ∧ (∀ e ∈ dev0.dev.weftHeld, e.2.vl ≠ 2)
    ∧ (∀ r ∈ dev0.dev.regions, r.home ∉ dev0.dev.lostDies) := by
  refine ⟨fun p k => ?_, by decide +kernel, by decide +kernel, by decide +kernel⟩
  intro h
  cases h

theorem witness_HostAccessesAndEvents_reach :
    (roomFor (dev0.dev.aqiAt 1) ∧ dev0.hostUp = true ∧ dev0.aqiOpen 1 = true)
    ∧ ((sEvt true false 0 0).hostUp = true ∧ ((sEvt true false 0 0).dev.aqiAt 1).held = [] ∧ (sEvt true false 0 0).aqiOpen 1 = true)
    ∧ (0x80 ≤ 0x88 ∧ 0x88 ≠ 0x84) ∧ roomFor ((sNodes [transfer0] host1).dev.aqiAt 1) := by
  decide +kernel

theorem witness_BringUpResetAndDebug_orphans :
    ∀ r ∈ dev0.dev.regions, r.owner = dev0.hostAgent 1 ∧ r.home ∉ dev0.dev.lostDies := by decide +kernel

theorem witness_FatalTrapsRestartsAndReturns_records :
    (fatal0.tick ≤ sFatal.cycle ∧ sFatal.team = some { team0 with fatal := some fatal0 }) ∧ sHandler.core.handler ≠ none := by
  decide +kernel

end Sys2Proof.Tests
end

/-! ## Frame of the S words that write one scalar or predicate register -/

namespace Sys2Proof.Machine

@[simp] theorem Threads.get_set_self (t : Threads) (st : Strand) (x : Thread) : (t.set st x).get st = x := by
  cases st <;> rfl

/-- Leaving its slot moves a word's own strand only. -/
theorem State.advance_core_thr (s : State) (i : Issue) (stay : Bool) :
    (s.advance i stay).core.thr = s.core.thr.set i.st ((s.advance i stay).core.thr.get i.st) := by
  simp [State.advance]

/-- A result set in flight is discarded, or stands last among those in flight, issued in this cycle (R17, R158). -/
theorem State.land_cases (s : State) (cls : Nat) (d : Dest) (x : Nat) :
    s.land cls d x = s ∨ s.land cls d x = s.onCore fun c => c.addPend ⟨d, x, 0, s.cycle, s.cycle + s.core.bound cls⟩ := by
  unfold State.land State.landAt
  split
  · exact .inl rfl
  · exact .inr rfl

/-- A result issued in this cycle opens no landing window for this cycle's readers (R17). -/
@[simp] theorem State.land_inFlight (s : State) (cls : Nat) (d e : Dest) (x : Nat) :
    (s.land cls d x).inFlight e = s.inFlight e := by
  rcases s.land_cases cls d x with h | h <;> rw [h]
  show ((s.core.pend ++ [_]).any fun l => decide (l.dest = e) && decide (l.issue < s.cycle)) = _
  simp [State.inFlight]

/-- A result set in flight joins those to its own destination. -/
theorem State.land_othersInFlight (s : State) (cls : Nat) (d : Dest) (x : Nat) : OthersInFlight s (s.land cls d x) [d] := by
  rcases s.land_cases cls d x with h | h <;> rw [h]
  · rfl
  · simp [OthersInFlight, Core.addPend]

/-- A state in which a strand has moved on and the list of results in flight has changed, but for no reader of this cycle, has every
register, every control register, the local store and far memory as they were (R17, R273). -/
theorem registerFrame_of_inFlight {s t : State} {st : Strand} {x : Thread} {pend : List Landing} {ds : List Dest}
    (ht : t = { s with core := { s.core with thr := s.core.thr.set st x, pend := pend } })
    (hpend : OthersInFlight s t ds) (hin : ∀ e, t.inFlight e = s.inFlight e) : RegisterFrame s t st ds := by
  subst ht
  refine ⟨by rw [Threads.get_set_self], hpend, fun p n _ => ?_, fun p n _ => ?_, fun p n _ => ?_, fun _ => rfl, fun _ _ => rfl,
    fun _ => rfl⟩
  · unfold State.readS
    rw [hin]
    rfl
  · unfold State.readP
    rw [hin]
    rfl
  · unfold State.readV
    rw [hin]
    rfl

/-- The slot alone keeps the frame. -/
theorem registerFrame_advance (s : State) (i : Issue) (d : Dest) : RegisterFrame s (s.advance i) i.st [d] :=
  registerFrame_of_inFlight (pend := s.core.pend) (by rw [← State.advance_core_thr]; rfl) rfl fun _ => rfl

/-- A word that leaves its slot and sets one result in flight keeps the frame. -/
theorem registerFrame_advance_land (s : State) (i : Issue) (cls : Nat) (d : Dest) (x : Nat) :
    RegisterFrame s ((s.advance i).land cls d x) i.st [d] := by
  refine registerFrame_of_inFlight (x := (s.advance i).core.thr.get i.st) (pend := ((s.advance i).land cls d x).core.pend)
    ?_ ((s.advance i).land_othersInFlight cls d x) ((s.advance i).land_inFlight cls d · x)
  rw [← State.advance_core_thr]
  rcases (s.advance i).land_cases cls d x with h | h <;> rw [h] <;> rfl

/-- An answer that is an S word's issue, without causes of its own, whose effect is one result for a register. -/
def IssuesOneResult (s : State) (o : Out) (d : Dest) : Prop :=
  ∃ i cls x, (o = s.issue i (fun _ => []) fun s' => s'.land cls d x) ∧ i.st = .s ∧ i.async = none

/-- Guarded off, running or trapping, a word of one result keeps the frame (R45). -/
theorem IssuesOneResult.frame {s t : State} {o : Out} {d : Dest} (ho : IssuesOneResult s o d) (h : o = .next t) :
    Trapped s t ∨ RegisterFrame s t .s [d] := by
  obtain ⟨i, cls, x, rfl, hst, hsync⟩ := ho
  rcases issue_cases h with htrap | ⟨-, -, rfl⟩ | ⟨-, k, hk, -⟩ | ⟨-, -, rfl⟩
  · exact .inl htrap
  · exact .inr (hst ▸ registerFrame_advance s i d)
  · rw [hsync] at hk
    cases hk
  · exact .inr (hst ▸ registerFrame_advance_land s i cls d x)

/-- Each of the words that `scalarRegisterWords` lists is issued so: the S.R words by their guard, `sel`, the immediates and `lea` without
one, the literals with eight bytes, `csrr` in the class of a local store access. -/
theorem scalarRegisterWords_issueOneResult (s : State) (l : Bool) (d a b imm k : Nat) (g : Guard) (v32 : Nat) :
    ∀ w ∈ Claims.scalarRegisterWords l d a b imm k g v32, IssuesOneResult s (exec w.1 s) w.2 := by
  simp only [Claims.scalarRegisterWords, List.forall_mem_append, List.forall_mem_cons, List.not_mem_nil, false_imp_iff,
    implies_true, and_true]
  and_intros
  iterate 33 exact ⟨sr _ l g, _, _, rfl, rfl, rfl⟩
  iterate 9 exact ⟨si 0 l, 0, _, rfl, rfl, rfl⟩
  iterate 2 exact ⟨sl l g, 0, _, rfl, rfl, rfl⟩
  · exact ⟨si 3 l, 3, _, rfl, rfl, rfl⟩

/-- Settles O4: each word issues with one result for its destination, and such an issue traps, leaves its slot, or leaves its slot
with that result in flight. -/
theorem scalarRegisterWordFrame : Obligations.ScalarRegisterWordFrame :=
  fun s _ l d a b imm k g v32 w hw h => (scalarRegisterWords_issueOneResult s l d a b imm k g v32 w hw).frame h

end Sys2Proof.Machine

/-! ## Landing of results and of stored bytes -/

namespace Sys2Proof.Machine

/-! ### Choices among what may prevail -/

theorem oneOf_lt (raw : Nat) {n : Nat} (h : 0 < n) : oneOf raw n < n := by
  unfold oneOf
  split
  · exact h
  · exact Nat.mod_lt _ h

theorem Core.chosen_lt (c : Core) (d : Dest) (g : List Landing) {n : Nat} (h : 0 < n) : c.chosen d g n < n :=
  oneOf_lt _ h

theorem State.pick_lt (s : State) (slot : Nat) {n : Nat} (h : 0 < n) : s.pick slot (n - 1) < n := by
  unfold State.pick
  rw [Nat.sub_add_cancel h]
  exact oneOf_lt _ h

/-- An entry within a mapped list is the image of a member. -/
theorem getD_map_of_lt {α β : Type} (f : α → β) {l : List α} {n : Nat} (h : n < l.length) (d : β) :
    ∃ a ∈ l, (l.map f).getD n d = f a :=
  ⟨l[n], List.getElem_mem h, by simp [h]⟩

theorem getD_mem_or_default {α : Type} (l : List α) (n : Nat) (d : α) : l.getD n d ∈ l ∨ l.getD n d = d := by
  by_cases h : n < l.length
  · exact .inl (by simp [h])
  · exact .inr (by simp [h])

/-- Of writes whose windows have an extent, the one whose window closes last prevails over none that issued after it (R44). -/
theorem exists_prevailing {α : Type} (issue due : α → Nat) {g : List α} (hne : g ≠ [])
    (hw : ∀ x ∈ g, issue x < due x) : ∃ b ∈ g, ∀ x ∈ g, issue x < due b := by
  have hmax : ∀ x ∈ g, due x ≤ due (g.maxOn due hne) := fun x hx => List.le_apply_maxOn_of_mem hx
  exact ⟨g.maxOn due hne, List.maxOn_mem, fun x hx => Nat.lt_of_lt_of_le (hw x hx) (hmax x hx)⟩

theorem Landing.stands_iff {l : Landing} {g : List Landing} : l.stands g = true ↔ ∀ k ∈ g, k.issue < l.due := by
  simp [Landing.stands]

theorem LsWrite.stands_iff {w : LsWrite} {g : List LsWrite} : w.stands g = true ↔ ∀ k ∈ g, k.issue < w.due := by
  simp [LsWrite.stands]

/-! ### Which results are rivals -/

theorem sameReg_refl (d : Dest) : sameReg d d = true := by
  cases d <;> simp [sameReg]

/-- Two destinations that are one register are equal, but for an amax register and its updates (R213). -/
theorem sameReg_cases {a b : Dest} (h : sameReg a b = true) :
    a = b ∨ (∃ m, a = .csr (0x40 + m) ∧ b = .amaxUp m) ∨ ∃ m, a = .amaxUp m ∧ b = .csr (0x40 + m) := by
  cases a with
  | csr sel =>
    cases b with
    | amaxUp m => exact .inr (.inl ⟨m, congrArg Dest.csr (eq_of_beq h), rfl⟩)
    | _ => exact .inl (of_decide_eq_true h)
  | amaxUp m =>
    cases b with
    | csr sel => exact .inr (.inr ⟨m, rfl, congrArg Dest.csr (eq_of_beq h)⟩)
    | _ => exact .inl (of_decide_eq_true h)
  | _ => exact .inl (of_decide_eq_true h)

/-- What goes to one register with an update of an amax register goes to its control register. -/
theorem sameReg_amaxUp {d : Dest} {m : Nat} (h : sameReg d (.amaxUp m) = true) : sameReg d (.csr (0x40 + m)) = true := by
  rcases sameReg_cases h with rfl | ⟨m', rfl, hm⟩ | ⟨m', rfl, hm⟩
  · exact beq_self_eq_true _
  · rw [Dest.amaxUp.inj hm]
    exact sameReg_refl _
  · cases hm

/-- But for control registers, only equal destinations are one register. -/
theorem sameReg_eq {a b : Dest} (h : sameReg a b = true) (hcsr : ∀ sel, b ≠ .csr sel) (hup : ∀ m, b ≠ .amaxUp m) : a = b := by
  rcases sameReg_cases h with h | ⟨m, -, h⟩ | ⟨m, -, h⟩
  · exact h
  · exact absurd h (hup m)
  · exact absurd h (hcsr _)

/-- Destinations of one register miss the same control registers. -/
theorem sameReg_keeps_csr {a b : Dest} (h : sameReg a b = true) {n : Nat} (hcsr : a ≠ .csr n)
    (hup : ∀ m, a = .amaxUp m → n ≠ 0x40 + m) :
    b ≠ .csr n ∧ ∀ m, b = .amaxUp m → n ≠ 0x40 + m := by
  rcases sameReg_cases h with rfl | ⟨m, rfl, rfl⟩ | ⟨m, rfl, rfl⟩
  · exact ⟨hcsr, hup⟩
  · refine ⟨nofun, fun m' hm hn => hcsr ?_⟩
    rw [hn, Dest.amaxUp.inj hm]
  · refine ⟨fun hn => hup m rfl (Dest.csr.inj hn).symm, nofun⟩

theorem mem_rivals_self {c : Core} {r : Landing} (h : r ∈ c.pend) : r ∈ c.rivals r := by
  have hg : r ∈ c.pend.filter fun k => sameReg r.dest k.dest := List.mem_filter.2 ⟨h, sameReg_refl _⟩
  unfold Core.rivals
  dsimp only
  split
  · split
    · exact List.mem_singleton_self r
    · exact hg
  · exact hg

theorem sameReg_of_mem_rivals {c : Core} {r l : Landing} (h : l ∈ c.rivals r) : sameReg r.dest l.dest = true := by
  have hg (h : l ∈ c.pend.filter fun k => sameReg r.dest k.dest) : sameReg r.dest l.dest = true := (List.mem_filter.1 h).2
  unfold Core.rivals at h
  dsimp only at h
  split at h
  · split at h
    · rw [List.mem_singleton.1 h]
      exact sameReg_refl _
    · exact hg h
  · exact hg h

/-! ### What rivals leave in their register -/

/-- Only overlapping `vrot`s drop results from among the rivals. -/
theorem Core.oneVrot_subset (c : Core) (g : List Landing) : ∀ k ∈ c.oneVrot g, k ∈ g := by
  intro k h
  unfold Core.oneVrot at h
  dsimp only at h
  split at h
  · exact (List.mem_filter.1 h).1
  · exact h

theorem Core.oneVrot_of_no_vrot (c : Core) {g : List Landing} (h : ∀ k ∈ g, k.tag ≠ 1) : c.oneVrot g = g := by
  have hjs : (g.filter fun k => k.tag == 1) = [] := by simpa using h
  simp [Core.oneVrot, hjs]

theorem Core.oneVrot_singleton (c : Core) (r : Landing) : c.oneVrot [r] = [r] := by
  unfold Core.oneVrot
  dsimp only
  split
  · rename_i w hw
    have hmem := (List.mem_filter.1 (List.mem_filter.1 (List.mem_of_getElem? hw)).1).1
    simp [List.mem_singleton.1 hmem]
  · rfl

/-- An outcome is for the destination of one of the rivals, or for the amax register that one of them updates. -/
theorem Core.outcomes_dest {c : Core} {g among : List Landing} {o : Dest × Nat} (h : o ∈ c.outcomes g among) :
    ∃ k ∈ among, o.1 = k.dest ∨ ∃ m, k.dest = .amaxUp m ∧ o.1 = .csr (0x40 + m) := by
  simp only [Core.outcomes, List.mem_map, List.mem_filter] at h
  obtain ⟨k, ⟨hk, -⟩, rfl⟩ := h
  refine ⟨k, hk, ?_⟩
  dsimp only
  split
  · rename_i m hm
    split
    · exact .inl rfl
    · exact .inr ⟨m, hm, rfl⟩
  · exact .inl rfl

/-- Without updates of an amax register, the outcomes are the results that may prevail. -/
theorem Core.outcomes_of_no_amax (c : Core) {g : List Landing} (h : ∀ k ∈ g, ∀ m, k.dest ≠ .amaxUp m) :
    c.outcomes g g = (g.filter fun k => k.stands g).map fun k => (k.dest, k.value) := by
  refine List.map_congr_left fun k hk => ?_
  have hd := h k (List.mem_filter.1 hk).1
  cases hkd : k.dest <;> simp_all

/-- What rivals leave goes to the register of each of them. -/
theorem State.landValue_sameReg (s : State) (r : Landing) : sameReg r.dest (s.landValue r).1 = true := by
  have hval : s.landValue r ∈ s.core.outcomes (s.core.rivals r) (s.core.oneVrot (s.core.rivals r))
      ∨ s.landValue r = (r.dest, r.value) :=
    getD_mem_or_default ..
  rcases hval with ho | h
  · obtain ⟨k, hk, hd⟩ := Core.outcomes_dest ho
    have hsame := sameReg_of_mem_rivals (s.core.oneVrot_subset _ k hk)
    rcases hd with hd | ⟨m, hm, hd⟩
    · rw [hd]
      exact hsame
    · rw [hd]
      exact sameReg_amaxUp (hm ▸ hsame)
  · rw [h]
    exact sameReg_refl _

/-- Of results to a register that is no amax register, one stays that none issued after its window prevails over (R44). -/
theorem State.landValue_prevails {s : State} {r : Landing} (hr : r ∈ s.core.pend)
    (hplain : ∀ l ∈ s.core.rivals r, l.tag ≠ 1 ∧ ∀ m, l.dest ≠ .amaxUp m) (hw : ∀ l ∈ s.core.rivals r, l.issue < l.due) :
    ∃ l ∈ s.core.rivals r, (∀ k ∈ s.core.rivals r, k.issue < l.due) ∧ s.landValue r = (r.dest, l.value) := by
  generalize hg : s.core.rivals r = g at hplain hw
  have hmem : r ∈ g := hg ▸ mem_rivals_self hr
  have hout : s.core.outcomes g (s.core.oneVrot g) = (g.filter fun k => k.stands g).map fun k => (k.dest, k.value) := by
    rw [Core.oneVrot_of_no_vrot _ fun k hk => (hplain k hk).1, Core.outcomes_of_no_amax _ fun k hk => (hplain k hk).2]
  obtain ⟨b, hb, hstands⟩ := exists_prevailing Landing.issue Landing.due (List.ne_nil_of_mem hmem) hw
  have hpos : 0 < (g.filter fun k => k.stands g).length :=
    List.length_pos_of_mem (List.mem_filter.2 ⟨hb, Landing.stands_iff.2 hstands⟩)
  obtain ⟨l, hl, hval⟩ := getD_map_of_lt (fun k : Landing => (k.dest, k.value)) (s.core.chosen_lt r.dest g hpos) (r.dest, r.value)
  obtain ⟨hlg, hls⟩ := List.mem_filter.1 hl
  have hdest : l.dest = r.dest := by
    rcases sameReg_cases (sameReg_of_mem_rivals (hg ▸ hlg)) with h | ⟨m, -, h⟩ | ⟨m, h, -⟩
    · exact h.symm
    · exact absurd h ((hplain l hlg).2 m)
    · exact absurd h ((hplain r hmem).2 m)
  refine ⟨l, hlg, Landing.stands_iff.1 hls, ?_⟩
  rw [← hdest, ← hval]
  simp only [State.landValue, hg, hout, List.length_map]

/-- A result without rivals stays as it is, an update of an amax register too. -/
theorem State.landValue_of_alone {s : State} {r : Landing} (h : s.core.rivals r = [r]) (hw : r.issue < r.due) :
    s.landValue r = (r.dest, r.value) := by
  have hstands : r.stands [r] = true := by simpa [Landing.stands] using hw
  have hout : s.core.outcomes [r] [r] = [(r.dest, r.value)] := by
    have hone : ([r].filter fun k => k.stands [r]) = [r] := by simp [hstands]
    rw [Core.outcomes, hone, List.map_singleton]
    cases hd : r.dest <;> simp
  simp [State.landValue, h, Core.oneVrot_singleton, hout, Core.chosen, oneOf]

/-! ### What landing stores -/

theorem Core.canonical_iff {c : Core} : c.canonical = true ↔
    smapWf 0 c.s = true ∧ smapWf 0 c.p = true ∧ smapWf 0 c.v = true ∧ smapWf 0 c.ls = true ∧ smapWf 0 c.csr = true := by
  simp [Core.canonical, and_assoc]

section
variable {c : Core} (hc : c.canonical = true)
include hc

theorem Core.store_s_self {n : Nat} (hn : n ≠ 0) (x : Nat) : look 0 (c.store (.s n) x).s n = BitVec.ofNat 64 x := by
  obtain ⟨hs, -⟩ := Core.canonical_iff.1 hc
  simp only [Core.store, if_neg hn]
  exact look_put_self hs n _

theorem Core.store_p_self {n : Nat} (hn : n ≠ 0) (x : Nat) : look 0 (c.store (.p n) x).p n = BitVec.ofNat 1024 x := by
  obtain ⟨-, hp, -⟩ := Core.canonical_iff.1 hc
  simp only [Core.store, if_neg hn]
  exact look_put_self hp n _

theorem Core.store_v_self (n x : Nat) : look 0 (c.store (.v n) x).v n = BitVec.ofNat 4096 x := by
  obtain ⟨-, -, hv, -⟩ := Core.canonical_iff.1 hc
  exact look_put_self hv n _

theorem Core.setCsr_csrAt (sel n : Nat) (v : Word) : (c.setCsr sel v).csrAt n = if n = sel then v else c.csrAt n := by
  obtain ⟨-, -, -, -, hcsr⟩ := Core.canonical_iff.1 hc
  exact look_put hcsr sel n v

theorem Core.store_csr_self (n x : Nat) : (c.store (.csr n) x).csrAt n = BitVec.ofNat 64 x :=
  (Core.setCsr_csrAt hc n n _).trans (if_pos rfl)

theorem Core.store_amaxUp_self (m x : Nat) :
    ((c.store (.amaxUp m) x).csrAt (0x40 + m)).toNat = max (c.csrAt (0x40 + m)).toNat x % 2 ^ 64 := by
  rw [Core.store, Core.setCsr_csrAt hc, if_pos rfl, BitVec.toNat_ofNat]

theorem Core.store_s_other {d : Dest} {n : Nat} (hd : d ≠ .s n) (x : Nat) : look 0 (c.store d x).s n = look 0 c.s n := by
  obtain ⟨hs, -⟩ := Core.canonical_iff.1 hc
  cases d with
  | s m =>
    unfold Core.store
    dsimp only
    split
    · rfl
    · exact look_put_ne hs _ fun h => hd (h ▸ rfl)
  | p m => unfold Core.store; dsimp only; split <;> rfl
  | _ => rfl

theorem Core.store_p_other {d : Dest} {n : Nat} (hd : d ≠ .p n) (x : Nat) : look 0 (c.store d x).p n = look 0 c.p n := by
  obtain ⟨-, hp, -⟩ := Core.canonical_iff.1 hc
  cases d with
  | p m =>
    unfold Core.store
    dsimp only
    split
    · rfl
    · exact look_put_ne hp _ fun h => hd (h ▸ rfl)
  | s m => unfold Core.store; dsimp only; split <;> rfl
  | _ => rfl

theorem Core.store_v_other {d : Dest} {n : Nat} (hd : d ≠ .v n) (x : Nat) : look 0 (c.store d x).v n = look 0 c.v n := by
  obtain ⟨-, -, hv, -⟩ := Core.canonical_iff.1 hc
  cases d with
  | v m => exact look_put_ne hv _ fun h => hd (h ▸ rfl)
  | s m | p m => unfold Core.store; dsimp only; split <;> rfl
  | _ => rfl

theorem Core.store_csr_other {d : Dest} {n : Nat} (hd : d ≠ .csr n) (hup : ∀ m, d = .amaxUp m → n ≠ 0x40 + m) (x : Nat) :
    (c.store d x).csrAt n = c.csrAt n := by
  cases d with
  | csr m => exact (Core.setCsr_csrAt hc m n _).trans (if_neg fun h : n = m => hd (h ▸ rfl))
  | amaxUp m => exact (Core.setCsr_csrAt hc _ n _).trans (if_neg (hup m rfl))
  | s m | p m => unfold Core.store; dsimp only; split <;> rfl
  | _ => rfl

end

/-- Storing a landed result writes the register as `store` does. -/
theorem Core.storeLanded_regs (c : Core) (d : Dest) (x : Nat) :
    (c.storeLanded d x).s = (c.store d x).s ∧ (c.storeLanded d x).p = (c.store d x).p ∧ (c.storeLanded d x).v = (c.store d x).v
      ∧ (c.storeLanded d x).csr = (c.store d x).csr ∧ (c.storeLanded d x).ls = c.ls := by
  cases d with
  | s n | p n => unfold Core.storeLanded Core.store; dsimp only; split <;> exact ⟨rfl, rfl, rfl, rfl, rfl⟩
  | _ => exact ⟨rfl, rfl, rfl, rfl, rfl⟩

/-- The results in flight and the restart snapshot pass through it untouched. -/
theorem Core.storeLanded_with (c : Core) (pend : List Landing) (rs : Restart) (d : Dest) (x : Nat) :
    ({ c with pend := pend, restart := rs } : Core).storeLanded d x = { c.storeLanded d x with pend := pend, restart := rs } := by
  cases d with
  | s n | p n => unfold Core.storeLanded Core.store; dsimp only; split <;> rfl
  | _ => rfl

/-- Merging updates of amax registers writes the restart snapshot only. -/
theorem Core.foldl_mergeAmax (g : List Landing) (c : Core) : ∃ rs, g.foldl Core.mergeAmax c = { c with restart := rs } := by
  induction g generalizing c with
  | nil => exact ⟨c.restart, rfl⟩
  | cons l g ih =>
    have hone : ∃ rs, c.mergeAmax l = { c with restart := rs } := by
      unfold Core.mergeAmax
      split
      · split
        · exact ⟨_, rfl⟩
        · exact ⟨c.restart, rfl⟩
      · exact ⟨c.restart, rfl⟩
    obtain ⟨rs, h⟩ := hone
    obtain ⟨rs', h'⟩ := ih (c.mergeAmax l)
    exact ⟨rs', by rw [List.foldl_cons, h', h]⟩

/-- A landing removes the rivals from those in flight and stores one outcome; the snapshot may take in an update. -/
theorem State.landNow_core (s : State) (r : Landing) :
    ∃ rs, (s.landNow r).core = { s.core.storeLanded (s.landValue r).1 (s.landValue r).2 with
      pend := s.core.pend.filter fun l => decide (l ∉ s.core.rivals r), restart := rs } := by
  have hkeep : (fun l => decide (l ∉ s.core.rivals r)) = fun l => !(s.core.rivals r).contains l := by
    funext l
    simp
  rw [hkeep]
  obtain ⟨rs, h⟩ := Core.foldl_mergeAmax (s.core.rivals r)
    { s.core with pend := s.core.pend.filter fun l => !(s.core.rivals r).contains l }
  exact ⟨rs, (congrArg (Core.storeLanded · _ _) h).trans (s.core.storeLanded_with _ rs _ _)⟩

/-- The registers, the local store and far memory after a landing. -/
theorem State.landNow_tables (s : State) (r : Landing) :
    let c := s.core.store (s.landValue r).1 (s.landValue r).2
    (s.landNow r).core.s = c.s ∧ (s.landNow r).core.p = c.p ∧ (s.landNow r).core.v = c.v
      ∧ (∀ n, (s.landNow r).core.csrAt n = c.csrAt n) ∧ (s.landNow r).core.ls = s.core.ls ∧ (s.landNow r).mem = s.mem
      ∧ (s.landNow r).core.pend = s.core.pend.filter fun l => decide (l ∉ s.core.rivals r) := by
  obtain ⟨rs, h⟩ := s.landNow_core r
  obtain ⟨hs, hp, hv, hcsr, hls⟩ := s.core.storeLanded_regs (s.landValue r).1 (s.landValue r).2
  rw [h]
  exact ⟨hs, hp, hv, fun n => congrArg (look 0 · n) hcsr, hls, rfl, rfl⟩

theorem exec_resultLanding_result {s : State} {k : Nat} {r : Landing} (hk : s.core.pend[k]? = some r)
    (hl : s.core.landable s.cycle r = true) : exec (.resultLanding k) s = .next (s.landNow r) := by
  show execResultLanding k s = _
  simp only [execResultLanding, hk, hl, if_true]

/-- R17, R42, R44, R213: a result lands with its rivals. -/
theorem resultLandsInItsRegister : Claims.resultLandsInItsRegister := by
  intro s k r hk hcan hland
  have hr : r ∈ s.core.pend := List.mem_of_getElem? hk
  have hself := mem_rivals_self hr
  have hw : ∀ l ∈ s.core.rivals r, l.issue < l.due := fun l hl => (hland l hl).2.2
  have hl : s.core.landable s.cycle r = true := by
    simp only [Core.landable, List.all_eq_true, Bool.and_eq_true, bne_iff_ne]
    exact fun l hl => ⟨(hland l hl).1, (hland l hl).2.1⟩
  obtain ⟨hs, hp, hv, hcsr, hls, hmem, hpend⟩ := s.landNow_tables r
  refine ⟨s.landNow r, exec_resultLanding_result hk hl, hpend, hmem, hls, fun hplain => ?_, fun m hm halone => ?_, ?_⟩
  · obtain ⟨l, hlg, hprev, hval⟩ := State.landValue_prevails hr hplain hw
    rw [hval] at hs hp hv hcsr
    refine ⟨l, hlg, hprev, fun n hd hn => ?_, fun n hd hn => ?_, fun n hd => ?_, fun n hd => ?_⟩
    · rw [hs, hd, Core.store_s_self hcan hn]
    · rw [hp, hd, Core.store_p_self hcan hn]
    · rw [hv, hd, Core.store_v_self hcan]
    · rw [hcsr, hd, Core.store_csr_self hcan]
  · rw [State.landValue_of_alone halone (hw r hself), hm] at hcsr
    rw [hcsr, Core.store_amaxUp_self hcan]
  · have hreg := s.landValue_sameReg r
    refine ⟨fun n hd => ?_, fun n hd => ?_, fun n hd => ?_, fun n hd hup => ?_⟩
    · rw [hs]
      exact Core.store_s_other hcan (fun h => hd (sameReg_eq (h ▸ hreg) nofun nofun)) _
    · rw [hp]
      exact Core.store_p_other hcan (fun h => hd (sameReg_eq (h ▸ hreg) nofun nofun)) _
    · rw [hv]
      exact Core.store_v_other hcan (fun h => hd (sameReg_eq (h ▸ hreg) nofun nofun)) _
    · rw [hcsr]
      obtain ⟨hcsrDest, hupDest⟩ := sameReg_keeps_csr hreg hd hup
      exact Core.store_csr_other hcan hcsrDest hupDest _

/-! ### Stored bytes -/

/-- Where no command has a window, none has written a byte that a landing write would meet (R118). -/
theorem Core.oldsOf_of_opens_nil {c : Core} (h : c.opens = []) (cycle a : Nat) : c.oldsOf cycle a = [] := by
  simp [Core.oldsOf, h]

theorem State.landedLs_of_opens_nil {s : State} (h : s.core.opens = []) (a : Nat) (b : Byte) : s.landedLs a b = b := by
  simp [State.landedLs, Core.oldsOf_of_opens_nil h, h]

theorem Core.mem_lsRivals {c : Core} {w x : LsWrite} : x ∈ c.lsRivals w ↔ x ∈ c.lsPend ∧ x.addr = w.addr := by
  simp [Core.lsRivals]

/-- Where no command has a window, a landing byte is written as it is, one of its rivals that may prevail. -/
theorem State.landByte_of_opens_nil {s : State} (h : s.core.opens = []) (k : Nat) {w : LsWrite} (hw : w ∈ s.core.lsPend)
    (hdue : ∀ x ∈ s.core.lsPend, x.addr = w.addr → x.issue < x.due) :
    ∃ b ∈ s.core.lsPend, b.addr = w.addr ∧ (∀ x ∈ s.core.lsPend, x.addr = w.addr → x.issue < b.due)
      ∧ s.landByte k w = s.onCore fun c => { c with
          lsPend := c.lsPend.filter fun x => x.addr != w.addr
          ls := put 0 c.ls w.addr b.value } := by
  obtain ⟨a, ha, hstands⟩ := exists_prevailing LsWrite.issue LsWrite.due
    (List.ne_nil_of_mem (Core.mem_lsRivals.2 ⟨hw, rfl⟩))
    fun x hx => hdue x (Core.mem_lsRivals.1 hx).1 (Core.mem_lsRivals.1 hx).2
  have hpos : 0 < ((s.core.lsRivals w).filter fun x => x.stands (s.core.lsRivals w)).length :=
    List.length_pos_of_mem (List.mem_filter.2 ⟨ha, LsWrite.stands_iff.2 hstands⟩)
  obtain ⟨b, hb, hval⟩ := getD_map_of_lt LsWrite.value (s.pick_lt (slotOf 9 1 k) hpos) w.value
  obtain ⟨hbg, hbs⟩ := List.mem_filter.1 hb
  refine ⟨b, (Core.mem_lsRivals.1 hbg).1, (Core.mem_lsRivals.1 hbg).2,
    fun x hx hxa => LsWrite.stands_iff.1 hbs x (Core.mem_lsRivals.2 ⟨hx, hxa⟩), ?_⟩
  simp only [State.landByte, State.landedLs_of_opens_nil h, Core.oldsOf_of_opens_nil h, List.length_map, hval]

theorem exec_resultLanding_byte {s : State} {k : Nat} {w : LsWrite} (hk : s.core.lsPend[k]? = some w)
    (hl : s.core.lsLandable s.cycle w = true) :
    exec (.resultLanding (s.core.pend.length + k)) s = .next (s.landByte (s.core.pend.length + k) w) := by
  show execResultLanding _ s = _
  have hnone : s.core.pend[s.core.pend.length + k]? = none := List.getElem?_eq_none (Nat.le_add_right ..)
  simp only [execResultLanding, hnone, Nat.add_sub_cancel_left, hk, hl, if_true]

/-- R44, R156: a stored byte lands with its rivals. -/
theorem storedByteBecomesVisible : Claims.storedByteBecomesVisible := by
  intro s k w hk hcan hopens hrows hland
  have hw : w ∈ s.core.lsPend := List.mem_of_getElem? hk
  have hl : s.core.lsLandable s.cycle w = true := by
    have hnone : s.core.rowWrites (s.cycle + 1) = [] := by simp [Core.rowWrites, hrows]
    simp only [Core.lsLandable, hnone, inRanges, List.any_nil, Bool.not_false, Bool.and_true, List.all_eq_true]
    exact fun x hx => (hland x (Core.mem_lsRivals.1 hx).1 (Core.mem_lsRivals.1 hx).2).1
  obtain ⟨-, -, -, hls, -⟩ := Core.canonical_iff.1 hcan
  obtain ⟨b, hb, haddr, hprev, hnext⟩ := State.landByte_of_opens_nil hopens (s.core.pend.length + k) hw
    fun x hx hxa => (hland x hx hxa).2
  refine ⟨b, hb, haddr, hprev, _, exec_resultLanding_byte hk hl, ?_⟩
  rw [hnext]
  refine ⟨look_put_self hls _ _, fun a ha => look_put_ne hls _ ha, List.filter_congr fun x _ => ?_, rfl, rfl, rfl⟩
  by_cases h : x.addr = w.addr <;> simp [h]

/-- R158: s0 and p0 read as constants and discard results. -/
theorem zeroRegisterAndFullPredicate : Claims.zeroRegisterAndFullPredicate :=
  fun _ _ _ _ _ => ⟨if_pos rfl, if_pos rfl, land_discarded (.inl rfl), land_discarded (.inr rfl), rfl, rfl⟩

/-- Settles O6: what lands is one of the rivals that may prevail, and storing it writes its one register or byte. -/
theorem resultsLand : Obligations.ResultsLand :=
  ⟨zeroRegisterAndFullPredicate, resultLandsInItsRegister, storedByteBecomesVisible⟩

end Sys2Proof.Machine

/-! ## What a step issues -/

namespace Sys2Proof.Machine

section
variable {s : State} {st : Strand} {rest : List Strand}

theorem step_of_issue (h : s.phase = .issue (st :: rest)) : step s = s.issueWord st rest := by
  rw [step, h]

/-- A word that decodes issues, on the bundle's free values. -/
theorem step_of_decodeAt_ok {i : Instr} {t : State} (h : s.phase = .issue (st :: rest)) (hi : s.decodeAt st = .ok i)
    (hx : exec i (s.ready st rest) = .next t) : step s = .next { t with fresh := s.fresh } := by
  rw [step_of_issue h, State.issueWord, hi]
  simp only [hx, settle]

/-- One that does not decode takes its trap in its place. -/
theorem step_of_decodeAt_error {tr : Trap} (h : s.phase = .issue (st :: rest)) (hd : s.decodeAt st = .error tr) :
    step s = .next { (s.ready st rest).takeTrap tr with fresh := s.fresh } := by
  rw [step_of_issue h, State.issueWord, hd]
  rfl

/-- A fetch that leaves the strand's section, by its trailing word too, is condition 10 (R26). -/
theorem State.decodeAt_of_fetch_outside (hf : s.fetchOk st = false) : s.decodeAt st = .error (s.illegal st 10) := by
  simp [State.decodeAt, hf]

theorem State.decodeAt_of_decode_ok {i : Instr} {r : List Byte} (hf : s.fetchOk st = true)
    (hd : decode st (s.fetchBytes st) = .ok (i, r)) : s.decodeAt st = .ok i := by
  simp [State.decodeAt, hf, hd]

/-- What holds of a step that issues: where the word and the trailing word that it has lie in the section, the decoded instruction
runs (R26, R33, R51). -/
theorem step_runs_decoded_word {i : Instr} {r : List Byte} {t : State} (h : s.phase = .issue (st :: rest))
    (hf : s.fetchOk st = true) (hd : decode st (s.fetchBytes st) = .ok (i, r)) (hx : exec i (s.ready st rest) = .next t) :
    step s = .next { t with fresh := s.fresh } :=
  step_of_decodeAt_ok h (State.decodeAt_of_decode_ok hf hd) hx

end

/-- A taken trap is on record as the step's own. -/
@[simp] theorem takeTrap_trapped (s : State) (t : Trap) : (s.takeTrap t).trapped = some t := by
  have hfatal (u : State) (code : Nat) (c : Nat) : (u.fatal code t c).trapped = u.trapped := by simp [State.fatal]
  rcases takeTrap_cases s t with ⟨h, -, e⟩ | ⟨-, -, -, e⟩ | ⟨-, -, e⟩ <;> simp [e, hfatal]

/-- A team whose S strand stands at `lit`, the last word of its section: the literal behind it would be the first word of the V
strand's section. -/
def litAtSectionEnd : State := { State.reset with
  core := { Core.reset 0 with
    team := some guestTeam.id
    code := [(0x4FFF, 0x30480000)]
    lens := [0x5000, 0, 0, 0, 0]
    thr := { Threads.entry with s := .entry 0x13FFC } }
  teams := [guestTeam]
  phase := .issue [.s] }

/-- The counter is in the section and the bytes there decode, but the fetch of the trailing word leaves the section. -/
theorem litAtSectionEnd_fetch :
    inSection (litAtSectionEnd.core.sectionOf .s) (litAtSectionEnd.core.thr.get .s).pc = true
    ∧ decode .s (litAtSectionEnd.fetchBytes .s) = .ok (.lit false 9 ⟨0, false⟩ 0, [])
    ∧ litAtSectionEnd.fetchOk .s = false := by
  refine ⟨by decide +kernel, rfl, by decide +kernel⟩

theorem litAtSectionEnd_runs : Runs (litAtSectionEnd.ready .s []) (sl false ⟨0, false⟩) := by
  refine ⟨⟨by decide +kernel, rfl, by decide +kernel⟩, fun g hg => ?_⟩
  obtain rfl : (⟨0, false⟩ : Guard) = g := Option.some.inj hg
  decide +kernel

/-- The instruction itself would issue without a trap. -/
theorem exec_lit_litAtSectionEnd :
    ∃ t, exec (.lit false 9 ⟨0, false⟩ 0) (litAtSectionEnd.ready .s []) = .next t ∧ t.trapped = none := by
  show ∃ t, execLit false 9 ⟨0, false⟩ 0 _ = .next t ∧ t.trapped = none
  rw [execLit, issue_runs litAtSectionEnd_runs rfl]
  exact ⟨_, rfl, by simp [State.ready]⟩

/-- Refutes O43: a program counter in its section is not enough. At `litAtSectionEnd` the bytes decode and `exec` of the `lit` answers a
state without a trap, where the step takes the trap of condition 10, since the trailing word lies outside the section. With that
word inside it too the instruction runs: `step_runs_decoded_word`. -/
theorem not_stepRunsTheDecodedWord : ¬ Obligations.StepRunsTheDecodedWord := by
  intro h
  obtain ⟨hin, hdec, hfetch⟩ := litAtSectionEnd_fetch
  obtain ⟨t, hexec, htrap⟩ := exec_lit_litAtSectionEnd
  obtain ⟨hinside, -, -⟩ := h litAtSectionEnd .s [] rfl
  have hruns := (hinside hin).1 _ _ t hdec hexec
  have htraps := step_of_decodeAt_error (s := litAtSectionEnd) rfl (State.decodeAt_of_fetch_outside hfetch)
  have hsame := congrArg State.trapped (Host.Outcome.next.inj (htraps.symm.trans hruns))
  simp [htrap] at hsame

end Sys2Proof.Machine

/-! ## The state after reset, and bring-up -/

namespace Sys2Proof.Machine

/-! ### Reset -/

theorem Core.reset_cons_range (n : Nat) :
    Core.reset 0 :: (List.range n).map (fun i => Core.reset (i + 1)) = (List.range (n + 1)).map Core.reset := by
  rw [List.range_succ_eq_map, List.map_cons, List.map_map]
  rfl

theorem State.reset_cores : State.reset.cores = (List.range 768).map Core.reset := by
  simp only [State.cores, State.reset, Core.reset_cons_range]

theorem State.reset_coresCanonical : State.reset.coresCanonical = true := by
  have hcores : State.reset.cores.all Core.canonical = true := by
    simp [State.reset_cores, Core.reset_canonical]
  rw [State.coresCanonical, hcores]
  rfl

theorem State.reset_places : State.reset.cores.map (·.place) = List.range 768 := by
  rw [State.reset_cores, List.map_map]
  exact List.map_id _

/-- The contract of a core at reset is the device's own latencies (R42, R43). -/
theorem Core.reset_bound (place : Nat) : ∀ k < 16, (Core.reset place).bound k = ownLatency k := by
  show ∀ k < 16, (look 0 csrReset (0x10 + k)).toNat % 2 ^ 16 = ownLatency k
  decide

/-! ### Stages of bring-up (R391) -/

section
variable {s : State}

@[simp] theorem State.extend_recovery (k : Nat) : (s.extend k).dev.recovery = s.dev.recovery := rfl

/-- A stage that passes leaves recovery as it was, one that fails enters it. -/
@[simp] theorem State.stagePass_recovery (verified : Bool) (next : Nat) :
    (s.stagePass verified next).dev.recovery = (s.dev.recovery || !verified) := by
  cases verified <;> simp [State.stagePass]

theorem exec_selvedgeFirmwareStage (ok : Bool) (hs : s.dev.stage = 1) (hr : s.dev.recovery = false) :
    exec (.selvedgeFirmwareStage ok) s = .next (((s.extend 1).extend 2).stagePass ok 2) := by
  show execSelvedgeFirmwareStage ok s = _
  simp [execSelvedgeFirmwareStage, hs, hr]

theorem exec_loomSelfTest_stage (failing : List Nat) (hs : s.dev.stage = 2) (hr : s.dev.recovery = false) :
    ∃ t, exec (.loomSelfTest failing) s = .next t ∧ t.dev.stage = 3 := by
  show ∃ t, execLoomSelfTest failing s = .next t ∧ t.dev.stage = 3
  simp [execLoomSelfTest, hs, hr]

theorem exec_linkTraining_stage (failing : List Nat) (hs : s.dev.stage = 3) (hr : s.dev.recovery = false) :
    ∃ t, exec (.linkTraining failing) s = .next t ∧ t.dev.stage = 4 := by
  show ∃ t, execLinkTraining failing s = .next t ∧ t.dev.stage = 4
  simp [execLinkTraining, hs, hr]

theorem exec_aqi0Enable_stage (hs : s.dev.stage = 4) (hr : s.dev.recovery = false) :
    ∃ t, exec .aqi0Enable s = .next t ∧ t.dev.stage = 5 := by
  show ∃ t, execAqi0Enable s = .next t ∧ t.dev.stage = 5
  simp [execAqi0Enable, hs, hr]

/-! ### A host's reset (R108) -/

@[simp] theorem State.ringTeam_dev (id : TeamId) (kind src data : Nat) : (s.ringTeam id kind src data).dev = s.dev := rfl

/-- Steps that each leave the device alone leave it alone together. -/
theorem foldl_dev {α : Type} {f : State → α → State} (hf : ∀ s a, (f s a).dev = s.dev) (as : List α) (s : State) :
    (as.foldl f s).dev = s.dev := by
  induction as generalizing s with
  | nil => rfl
  | cons a as ih => exact (ih (f s a)).trans (hf s a)

/-- Marking orphans leaves every region's owner. -/
theorem State.markOrphans_owners (s : State) :
    s.markOrphans.dev.regions.map (·.owner) = s.dev.regions.map (·.owner) := by
  unfold State.markOrphans
  dsimp only
  rw [foldl_dev fun s r => by split <;> rfl, State.onDev_dev, List.map_map]
  refine List.map_congr_left fun r _ => ?_
  dsimp only [Function.comp]
  split <;> rfl

/-- The agent that stands for a lost host is another. -/
theorem State.lostHost_ne (s : State) (aqi : Nat) : s.lostHost aqi ≠ s.hostAgent aqi := by
  intro h
  have hindex : aqi + 4096 = aqi := congrArg Agent.index h
  omega

/-- With the lost host put in its place a host agent names nothing. -/
theorem State.lostHost_substituted (s : State) (aqi : Nat) (a : Agent) :
    (if a = s.hostAgent aqi then s.lostHost aqi else a) ≠ s.hostAgent aqi := by
  split
  · exact s.lostHost_ne aqi
  · assumption

/-- After its reset the host agent owns no region. -/
theorem exec_hostReset_disowns (s : State) {aqi : Nat} (hb : (s.dev.aqiAt aqi).bound = true) :
    ∃ t, exec (.hostReset aqi) s = .next t ∧ s.hostAgent aqi ∉ t.dev.regions.map (·.owner) := by
  show ∃ t, execHostReset aqi s = .next t ∧ _
  rw [execHostReset, hb]
  refine ⟨_, rfl, ?_⟩
  rw [State.markOrphans_owners]
  intro hmem
  obtain ⟨r, hr, howner⟩ := List.mem_map.1 hmem
  obtain ⟨r₀, -, rfl⟩ := List.mem_map.1 hr
  exact s.lostHost_substituted aqi _ howner

/-! ### The debugger (R334) -/

/-- The team with an id, after an update of it that keeps the id. -/
theorem State.teamAt_onTeam (s : State) (id : TeamId) {f : Team → Team} (hf : ∀ t, (f t).id = t.id) :
    (s.onTeam id f).teamAt id = (s.teamAt id).map f := by
  have hid (t : Team) : (if t.id = id then f t else t).id = t.id := by split <;> simp [hf]
  have hpred : ((fun t : Team => t.id == id) ∘ fun t => if t.id = id then f t else t) = fun t => t.id == id :=
    funext fun t => by simp only [Function.comp, hid]
  rw [State.teamAt, State.onTeam_teams, List.find?_map, hpred, ← State.teamAt]
  refine Option.map_congr fun t ht => if_pos ?_
  exact eq_of_beq (List.find?_some (p := fun t : Team => t.id == id) ht)

/-- A halt or a release sets the mark of the team that it names. -/
theorem State.halted_onTeam {id : TeamId} {tm : Team} (h : s.teamAt id = some tm) (b : Bool) :
    ((s.onTeam id fun t => { t with halted := b }).teamAt id).map (·.halted) = some b := by
  rw [State.teamAt_onTeam (f := fun t => { t with halted := b }) s id fun _ => rfl, h]
  rfl

end

/-- R334, R391: the steps of bring-up, a host's reset and the debugger's steps complete. -/
theorem bringUpCompletes : Claims.bringUpCompletes := by
  intro s ok failing aqi id
  refine ⟨⟨_, rfl, rfl, rfl⟩, fun hr => ⟨fun hs => ⟨_, exec_selvedgeFirmwareStage ok hs hr, ?_⟩,
    fun hs => exec_loomSelfTest_stage failing hs hr, fun hs => exec_linkTraining_stage failing hs hr,
    fun hs => exec_aqi0Enable_stage hs hr⟩, exec_hostReset_disowns s,
    fun tm htm => ⟨⟨_, rfl, State.halted_onTeam htm true⟩, ⟨_, rfl, State.halted_onTeam htm false⟩⟩⟩
  simp [hr]

/-- Settles O47: the cores are the resets of the places 0 to 767, and of such a core every value is read off; bring-up follows. -/
theorem resetState : Obligations.ResetState := by
  refine ⟨reset_mem_wf, State.reset_coresCanonical, State.reset_places, fun c hc => ?_, rfl, rfl, rfl, fun _ => rfl, bringUpCompletes⟩
  rw [State.reset_cores] at hc
  obtain ⟨place, -, rfl⟩ := List.mem_map.1 hc
  exact ⟨rfl, fun _ => rfl, rfl, rfl, Core.reset_bound place, fun _ => rfl⟩

end Sys2Proof.Machine
